-- ==== Sys2Proof/Word.lean ====
section
/-! DEFINITION. The word types of the GM3260 and their plainest arithmetic (00_scope R4: little-endian, bit 0 least significant). -/

namespace Sys2Proof

/-- A 64-bit register value. -/
abbrev Word := BitVec 64
/-- A byte of storage. -/
abbrev Byte := BitVec 8
/-- An instruction word (R44). -/
abbrev Half := BitVec 16
/-- A register number. -/
abbrev R3 := BitVec 3

/-- The word of all ones, the answer several instructions give for "none". -/
def allOnes : Word := 0xFFFFFFFFFFFFFFFF

/-- `x[hi:lo]` of R6. -/
def bits {n : Nat} (x : BitVec n) (hi lo : Nat) : Nat := x.toNat / 2 ^ lo % 2 ^ (hi - lo + 1)

/-- `x[i]` of R6. -/
def bit {n : Nat} (x : BitVec n) (i : Nat) : Bool := x.getLsbD i

/-- A one-bit number. -/
def b2n (b : Bool) : Nat := if b then 1 else 0

/-- A word from a natural number, modulo 2^64. -/
def w64 (n : Nat) : Word := BitVec.ofNat 64 n

/-- A word from an integer, modulo 2^64. -/
def i64 (n : Int) : Word := BitVec.ofInt 64 n

/-- ceil(a / b). -/
def cdiv (a b : Nat) : Nat := (a + b - 1) / b

/-- floor(log2 n) for n > 0, and 0 for 0. -/
def flog2 (n : Nat) : Nat := Nat.log2 n

/-- The little-endian bytes of a number (R4). -/
def leBytes : Nat → Nat → List Byte
  | 0, _ => []
  | n + 1, v => BitVec.ofNat 8 v :: leBytes n (v / 256)

/-- The number that little-endian bytes give (R4). -/
def leNat : List Byte → Nat
  | [] => 0
  | b :: bs => b.toNat + 256 * leNat bs

end Sys2Proof
end

