-- ==== Sys2Proof/Config.lean ====
section
/-! DEFINITION. What an implementation fixes, and the values the spec leaves open. -/

namespace Sys2Proof.Config

/-- The bytes of an opaque saved block (R344, R368): the spec gives no values. Applied to State.steps at the saving and the
place in the block (log entry 12). -/
opaque savedByte : Nat → Nat → BitVec 8

/-- A value that the spec leaves open, applied to State.steps (log entry 12). -/
opaque freeWord : Nat → BitVec 64

/-- A draw that the spec leaves open in deterministic mode, applied to what a program determines: the core's number in its launch,
the instruction's number in its context, and the element (log entry 46). -/
opaque freeDraw : Nat → Nat → Nat → Nat

/-- Bytes that the spec leaves open, applied to State.steps and a place (log entry 12). -/
opaque freeByte : Nat → Nat → BitVec 8

/-- Bytes 20 to 31 of a trace record, whose contents R422 gives without their places: applied to the TYPE, the barrier or slot number,
TCAUSE, PC and the place (log entry 121). -/
opaque traceByte : Nat → Nat → BitVec 64 → BitVec 64 → Nat → BitVec 8

end Sys2Proof.Config
end

