-- ==== Sys2Proof/Machine/Numeric.lean ====
section
/-! DEFINITION. Number formats, scales and rounding (05_numbers R89 to R109): every value is formed exactly, as a dyadic
number, and one named rounding takes it into a stored code. -/

namespace Sys2Proof.Machine

/-- An exact value `m * 2^e`. -/
structure Dy where
  m : Int
  e : Int
  deriving DecidableEq, Repr

/-- The dyadic number with its exponent lowered to `e` (`e` at most its own). -/
def Dy.lower (d : Dy) (e : Int) : Int := d.m * 2 ^ (d.e - e).toNat

/-- Exact sum. -/
def Dy.add (a b : Dy) : Dy :=
  let e := min a.e b.e
  ⟨a.lower e + b.lower e, e⟩

/-- Exact product. -/
def Dy.mul (a b : Dy) : Dy := ⟨a.m * b.m, a.e + b.e⟩

/-- Negation. -/
def Dy.neg (a : Dy) : Dy := ⟨-a.m, a.e⟩

/-- Sign of `a - b`: negative, zero or positive. -/
def Dy.cmp (a b : Dy) : Int := ((a.add b.neg).m).sign

/-- A value: zeros carry a sign, finite values are not zero (R90). -/
inductive Val where
  | zero (neg : Bool)
  | fin (d : Dy)
  | inf (neg : Bool)
  | nan
  deriving DecidableEq, Repr

/-- A dyadic number as a value; its zero takes the sign given. -/
def Val.ofDy (zneg : Bool) (d : Dy) : Val := if d.m = 0 then .zero zneg else .fin d

/-- An integer as a value. -/
def Val.ofInt (i : Int) : Val := Val.ofDy false ⟨i, 0⟩

/-- The sign of a value; a NaN has none. -/
def Val.isNeg : Val → Bool
  | .zero n => n
  | .fin d => decide (d.m < 0)
  | .inf n => n
  | .nan => false

/-- The value times 2^k (R97). -/
def Val.scale (k : Int) : Val → Val
  | .fin d => .fin ⟨d.m, d.e + k⟩
  | v => v

/-- The number of a finite value. -/
def Val.dy : Val → Dy
  | .fin d => d
  | _ => ⟨0, 0⟩

/-- FFLAGS bits (R31): IX 0, UF 1, OF 2, DZ 3, IV 4, RSV 5. -/
abbrev FF := BitVec 6
def ffIX : FF := 1
def ffUF : FF := 2
def ffOF : FF := 4
def ffDZ : FF := 8
def ffIV : FF := 16
def ffRSV : FF := 32

/-- Rounding modes (R99). -/
inductive RMode where
  | rne
  | rtz
  | rup
  | rdn
  | rna
  | sr
  deriving DecidableEq, Repr

/-- A rounding mode from its code (R54, R30); 110 and 111 are not held. -/
def RMode.ofCode (n : Nat) : RMode :=
  match n with
  | 1 => .rtz
  | 2 => .rup
  | 3 => .rdn
  | 4 => .rna
  | 5 => .sr
  | _ => .rne

/-- Element types (R68). -/
inductive ETy where
  | i8 | n8 | i16 | n16 | i32 | n32 | i64 | n64
  | f16 | bf16 | f32 | e4m3 | e5m2 | lns6 | e8 | i36 | f36
  deriving DecidableEq, Repr

/-- A type from its code; none for 0x11 to 0x3F (R68). -/
def ETy.ofCode (n : Nat) : Option ETy :=
  match n with
  | 0x00 => some .i8
  | 0x01 => some .n8
  | 0x02 => some .i16
  | 0x03 => some .n16
  | 0x04 => some .i32
  | 0x05 => some .n32
  | 0x06 => some .i64
  | 0x07 => some .n64
  | 0x08 => some .f16
  | 0x09 => some .bf16
  | 0x0A => some .f32
  | 0x0B => some .e4m3
  | 0x0C => some .e5m2
  | 0x0D => some .lns6
  | 0x0E => some .e8
  | 0x0F => some .i36
  | 0x10 => some .f36
  | _ => none

/-- Storage bytes of one element; lns6 lies in groups of four to 3 bytes and is given 0 here (R68). -/
def ETy.bytes : ETy → Nat
  | .i8 | .n8 | .e4m3 | .e5m2 | .e8 => 1
  | .i16 | .n16 | .f16 | .bf16 => 2
  | .i32 | .n32 | .f32 => 4
  | .i64 | .n64 | .i36 | .f36 => 8
  | .lns6 => 0

/-- Bits of a code. -/
def ETy.width : ETy → Nat
  | .i8 | .n8 | .e4m3 | .e5m2 | .e8 => 8
  | .i16 | .n16 | .f16 | .bf16 => 16
  | .i32 | .n32 | .f32 => 32
  | .i64 | .n64 => 64
  | .i36 | .f36 => 36
  | .lns6 => 6

/-- The integer types, I36 among them. -/
def ETy.isInt : ETy → Bool
  | .i8 | .n8 | .i16 | .n16 | .i32 | .n32 | .i64 | .n64 | .i36 => true
  | _ => false

/-- The signed integer types. -/
def ETy.isSigned : ETy → Bool
  | .i8 | .i16 | .i32 | .i64 | .i36 => true
  | _ => false

/-- A type that a scalar memory operand may have (R68). -/
def ETy.scalarOk : ETy → Bool
  | .lns6 | .e8 | .i36 | .f36 => false
  | _ => true

/-- A floating format (R89): significand bits, exponents, exponent field width, whether it has subnormals and infinities,
and its largest finite significand. -/
structure Fmt where
  p : Nat
  emin : Int
  emax : Int
  ebits : Nat
  subn : Bool
  infs : Bool
  maxM : Nat
  deriving DecidableEq, Repr

/-- The format of a floating type (R89). -/
def ETy.fmt : ETy → Option Fmt
  | .f32 => some ⟨24, -126, 127, 8, true, true, 2 ^ 24 - 1⟩
  | .f16 => some ⟨11, -14, 15, 5, true, true, 2 ^ 11 - 1⟩
  | .bf16 => some ⟨8, -126, 127, 8, true, true, 2 ^ 8 - 1⟩
  | .e5m2 => some ⟨3, -14, 15, 5, true, true, 7⟩
  | .e4m3 => some ⟨4, -6, 8, 4, true, false, 14⟩
  | .f36 => some ⟨28, -126, 127, 8, false, true, 2 ^ 28 - 1⟩
  | _ => none

/-- The exponent bias: 1 - emin. -/
def Fmt.bias (f : Fmt) : Int := 1 - f.emin
/-- The all-ones exponent field. -/
def Fmt.eMax (f : Fmt) : Nat := 2 ^ f.ebits - 1
/-- The place of the sign bit. -/
def Fmt.signBit (f : Fmt) : Nat := f.p - 1 + f.ebits

/-- The value of a floating code (R90). -/
def Fmt.value (f : Fmt) (code : Nat) : Val :=
  let mb := f.p - 1
  let m := code % 2 ^ mb
  let ex := code / 2 ^ mb % 2 ^ f.ebits
  let s := code / 2 ^ f.signBit % 2 == 1
  let sg : Int := if s then -1 else 1
  if ex = 0 then
    if m = 0 || !f.subn then .zero s else .fin ⟨sg * m, f.emin - mb⟩
  else if ex = f.eMax && (f.infs || m == 2 ^ mb - 1) then
    if m = 0 && f.infs then .inf s else .nan
  else .fin ⟨sg * (2 ^ mb + m : Nat), (ex : Int) - f.bias - mb⟩

/-- The canonical NaN (R91). -/
def Fmt.nan (f : Fmt) : Nat :=
  if f.infs then f.eMax * 2 ^ (f.p - 1) + 2 ^ (f.p - 2) else 2 ^ f.signBit - 1

/-- A zero of a sign. -/
def Fmt.zero (f : Fmt) (neg : Bool) : Nat := b2n neg * 2 ^ f.signBit
/-- An infinity of a sign. -/
def Fmt.inf (f : Fmt) (neg : Bool) : Nat := f.zero neg + f.eMax * 2 ^ (f.p - 1)
/-- The largest finite code of a sign. -/
def Fmt.maxCode (f : Fmt) (neg : Bool) : Nat :=
  f.zero neg + ((f.emax + f.bias).toNat * 2 ^ (f.p - 1) + (f.maxM - 2 ^ (f.p - 1)))

/-- The two neighbours of `n * 2^s'` on a grid: the lower multiple, the remainder and the spacing in units of the last
place. -/
structure Grid where
  lo : Nat
  rem : Nat
  span : Nat
  deriving DecidableEq, Repr

/-- `n * 2^e` on the grid of multiples of `2^q`. -/
def grid (n : Nat) (e q : Int) : Grid :=
  if q ≤ e then ⟨n * 2 ^ (e - q).toNat, 0, 1⟩
  else
    let s := (q - e).toNat
    ⟨n / 2 ^ s, n % 2 ^ s, 2 ^ s⟩

/-- `sr_pick`: the draw `u` of 24 bits chooses hi (R101). -/
def srHi (g : Grid) (u : Nat) : Bool := decide (u < g.rem * 2 ^ 24 / g.span)

/-- Whether rounding takes hi; the remainder is not zero (R99). -/
def roundUp (g : Grid) (mode : RMode) (neg : Bool) (u : Nat) : Bool :=
  match mode with
  | .rne => decide (g.span < 2 * g.rem) || (2 * g.rem == g.span && g.lo % 2 == 1)
  | .rna => decide (g.span ≤ 2 * g.rem)
  | .rtz => false
  | .rup => !neg
  | .rdn => neg
  | .sr => srHi g u

/-- The rounded multiple, and whether hi was taken. -/
def Grid.round (g : Grid) (mode : RMode) (neg : Bool) (u : Nat) : Nat × Bool :=
  if g.rem = 0 then (g.lo, false)
  else if roundUp g mode neg u then (g.lo + 1, true) else (g.lo, false)

/-- What a rounding is asked for: the mode, the draw under SR, and the saturation and flush settings (R55, R99). -/
structure RCtl where
  mode : RMode := .rne
  u : Nat := 0
  sat : Bool := false
  ftz : Bool := false
  deriving DecidableEq, Repr

/-- An overflowing result (R100, R103). -/
def Fmt.overflow (f : Fmt) (rc : RCtl) (neg hi : Bool) : Nat :=
  if !f.infs then (if rc.sat then f.maxCode neg else f.nan)
  else
    let toInf := match rc.mode with
      | .rne | .rna => true
      | .rtz => false
      | .rup => !neg
      | .rdn => neg
      | .sr => hi
    if toInf then f.inf neg else f.maxCode neg

/-- The result is tiny (R102): rounded without a floor at emin it lies below 2^emin. -/
def Fmt.tiny (f : Fmt) (rc : RCtl) (neg : Bool) (n : Nat) (e : Int) : Bool :=
  let eu := (flog2 n : Int) + e
  if f.emin ≤ eu then false
  else if eu < f.emin - 1 then true
  else
    let r := ((grid n e (eu - (f.p - 1))).round rc.mode neg rc.u).1
    decide (r < 2 ^ f.p)

/-- The code of `k * 2^q`, a multiple of the spacing q in range of the format. -/
def Fmt.pack (f : Fmt) (neg : Bool) (k : Nat) (q : Int) : Nat :=
  if k = 0 then f.zero neg
  else
    let k' := if 2 ^ f.p ≤ k then k / 2 else k
    let q' := if 2 ^ f.p ≤ k then q + 1 else q
    if k' < 2 ^ (f.p - 1) then f.zero neg + k'
    else f.zero neg + ((q' + (f.p - 1) + f.bias).toNat * 2 ^ (f.p - 1) + (k' - 2 ^ (f.p - 1)))

/-- `round_fmt` of a finite value that is not zero (R99, R100, R102, R103). -/
def Fmt.roundFin (f : Fmt) (rc : RCtl) (d : Dy) : Nat × FF :=
  let n := d.m.natAbs
  let neg := decide (d.m < 0)
  let eu := (flog2 n : Int) + d.e
  let ex := if f.subn then max eu f.emin else eu
  let q := ex - (f.p - 1)
  let g := grid n d.e q
  let kr := g.round rc.mode neg rc.u
  let beyond := decide ((⟨(f.maxM : Int), f.emax - (f.p - 1)⟩ : Dy).cmp ⟨kr.1, q⟩ < 0)
  if beyond then (f.overflow rc neg kr.2, ffOF ||| ffIX)
  else
    let small := decide ((⟨(kr.1 : Int), q⟩ : Dy).cmp ⟨1, f.emin⟩ < 0)
    if small && (!f.subn || (rc.ftz && kr.1 != 0)) then (f.zero neg, ffUF ||| ffIX)
    else
      let inexact := g.rem != 0
      (f.pack neg kr.1 q, (if inexact then ffIX else 0) ||| (if inexact && f.tiny rc neg n d.e then ffUF else 0))

/-- A value into a floating format (R99 to R105). An infinity into e4m3 raises OF as R105's table has it, and so does one into lns6 with IX,
also where it is the exact result of infinite operands (DESIGN CHOICE, log entry 111: R138 says that such a result raises nothing). -/
def Fmt.round (f : Fmt) (rc : RCtl) : Val → Nat × FF
  | .zero neg => (f.zero neg, 0)
  | .fin d => f.roundFin rc d
  | .inf neg => if f.infs then (f.inf neg, 0) else if rc.sat then (f.maxCode neg, ffOF) else (f.nan, ffOF)
  | .nan => (f.nan, 0)

/-- `round_int` (R99): the integer and whether it differs. -/
def roundInt (rc : RCtl) (d : Dy) : Int × Bool :=
  let neg := decide (d.m < 0)
  let g := grid d.m.natAbs d.e 0
  let k := (g.round rc.mode neg rc.u).1
  (if neg then -(k : Int) else k, g.rem != 0)

/-- min_T (R98). -/
def ETy.minT (t : ETy) : Int := if t.isSigned then -(2 ^ (t.width - 1) : Int) else 0
/-- max_T (R98). -/
def ETy.maxT (t : ETy) : Int := if t.isSigned then 2 ^ (t.width - 1) - 1 else 2 ^ t.width - 1

/-- `wrap` as a code (R98). -/
def wrapT (t : ETy) (v : Int) : Nat := (v % 2 ^ t.width).toNat
/-- `sat` as a code (R98). -/
def satT (t : ETy) (v : Int) : Nat := wrapT t (min (max v t.minT) t.maxT)
/-- `sat` or `wrap` by the saturation setting (R103). -/
def intCode (t : ETy) (sat : Bool) (v : Int) : Nat := if sat then satT t v else wrapT t v

/-- The integer that a code of an integer type stands for (R98). -/
def ETy.intOf (t : ETy) (code : Nat) : Int :=
  let c := code % 2 ^ t.width
  if t.isSigned && decide (2 ^ (t.width - 1) ≤ c) then (c : Int) - 2 ^ t.width else c

/-- A value into an integer type (R105, R108). -/
def toInt (t : ETy) (rc : RCtl) : Val → Nat × FF
  | .zero _ => (0, 0)
  | .nan => (0, ffIV)
  | .inf neg => (if rc.sat then (if neg then wrapT t t.minT else wrapT t t.maxT) else 0, ffIV)
  | .fin d =>
    let r := roundInt rc d
    let ix : FF := if r.2 then ffIX else 0
    if t.minT ≤ r.1 ∧ r.1 ≤ t.maxT then (wrapT t r.1, ix) else (intCode t rc.sat r.1, ix ||| ffIV)

/-- The table T of R93. -/
def lnsT (f : Nat) : Nat :=
  match f with
  | 0 => 4096
  | 1 => 4871
  | 2 => 5793
  | _ => 6889

/-- `lin` of R93: n quarters. -/
def lnsLin (n : Int) : Dy := ⟨lnsT (n % 4).toNat, n / 4 - 12⟩

/-- The logarithm of an LNS6 code, in quarters (R92). -/
def lnsC (code : Nat) : Int := sextC (code % 32)
where
  /-- five-bit two's complement -/
  sextC (c : Nat) : Int := if c < 16 then c else (c : Int) - 32

/-- The sign of an LNS6 code. -/
def lnsNeg (code : Nat) : Bool := code / 32 % 2 == 1

/-- The value of an LNS6 code, the reserved code a NaN, and its flag (R92, R93, R95). -/
def lnsValue (code : Nat) : Val × FF :=
  if code % 64 = 0x10 then (.zero false, 0)
  else if code % 64 = 0x30 then (.nan, ffRSV)
  else
    let d := lnsLin (lnsC code)
    (.fin (if lnsNeg code then d.neg else d), 0)

/-- The code of a sign and a logarithm in quarters. -/
def lnsCode (neg : Bool) (c : Int) : Nat := b2n neg * 32 + (c % 32).toNat

/-- The greatest logarithm whose linear value is at most `a`, searched downwards from `c`; -16 stands for zero. -/
def lnsFloor (a : Dy) : Nat → Int → Int
  | 0, _ => -16
  | n + 1, c => if 0 ≤ a.cmp (lnsLin c) then c else lnsFloor a n (c - 1)

/-- The linear value of a logarithm, zero for -16. -/
def lnsMag (c : Int) : Dy := if c = -16 then ⟨0, 0⟩ else lnsLin c

/-- A finite value that is not zero into LNS6 (R106). -/
def toLnsFin (rc : RCtl) (d : Dy) : Nat × FF :=
  let neg := decide (d.m < 0)
  let a : Dy := ⟨d.m.natAbs, d.e⟩
  if 0 < a.cmp (lnsLin 15) then (lnsCode neg 15, ffOF ||| ffIX)
  else
    let c := lnsFloor a 31 15
    let lo := lnsMag c
    if a.cmp lo = 0 then (lnsCode neg c, 0)
    else
      let hi := lnsMag (c + 1)
      let below := a.add lo.neg
      let gap := hi.add lo.neg
      let e := min below.e gap.e
      let g : Grid := ⟨(c % 2).toNat, (below.lower e).toNat, (gap.lower e).toNat⟩
      let r := if roundUp g rc.mode neg rc.u then c + 1 else c
      if r = -16 then (0x10, ffUF ||| ffIX) else (lnsCode neg r, ffIX)

/-- A value into LNS6 (R105, R106). -/
def toLns (rc : RCtl) : Val → Nat × FF
  | .zero _ => (0x10, 0)
  | .nan => (0x30, ffIV)
  | .inf neg => (lnsCode neg 15, ffOF ||| ffIX)
  | .fin d => toLnsFin rc d

/-- A value into E8 (R105, R107). -/
def toE8 : Val → Nat × FF
  | .zero _ => (0, ffUF)
  | .nan => (0xFF, 0)
  | .inf _ => (0xFF, ffIV)
  | .fin d =>
    let n := d.m.natAbs
    let k := (flog2 n : Int) + d.e
    if k < -127 then (0, ffUF ||| ffIX)
    else if 127 < k then (0xFE, ffOF ||| ffIX)
    else ((k + 127).toNat, if n = 2 ^ flog2 n then 0 else ffIX)

/-- The exponent of an E8 scale; none for NaN (R96). -/
def e8Exp (code : Nat) : Option Int := if code % 256 = 0xFF then none else some ((code % 256 : Nat) - 127 : Int)

/-- The value of a code of a type (R90, R92, R96, R98), with the flag of a reserved code consumed. -/
def ETy.value (t : ETy) (code : Nat) : Val × FF :=
  match t with
  | .lns6 => lnsValue code
  | .e8 => match e8Exp code with
    | none => (.nan, 0)
    | some k => (.fin ⟨1, k⟩, 0)
  | t => match t.fmt with
    | some f => (f.value (code % 2 ^ t.width), 0)
    | none => (Val.ofInt (t.intOf code), 0)

/-- An element's value under its scale byte (R97). -/
def ETy.scaled (t : ETy) (code : Nat) (scl : Option Nat) : Val × FF :=
  let v := t.value code
  match scl with
  | none => v
  | some s => match e8Exp s with
    | none => (.nan, v.2)
    | some k => (v.1.scale k, v.2)

/-- A value into a type under a rounding (R104, R105). -/
def ETy.conv (t : ETy) (rc : RCtl) (v : Val) : Nat × FF :=
  match t with
  | .lns6 => toLns rc v
  | .e8 => toE8 v
  | t => match t.fmt with
    | some f => f.round rc v
    | none => toInt t rc v

/-- A value divided by a destination scale (R97); a scale of 0xFF makes it a NaN. -/
def divScale (scl : Option Nat) (v : Val) : Val :=
  match scl with
  | none => v
  | some s => match e8Exp s with
    | none => .nan
    | some k => v.scale (-k)

/-- The zero code of a type (R132). -/
def ETy.zeroCode : ETy → Nat
  | .lns6 => 0x10
  | _ => 0

/-- Exact sum, a zero sum being -0 when both addends are -0 or the mode is RDN, else +0 (R138). The flag is IV for infinities
of opposite signs (R109). -/
def Val.add (mode : RMode) (a b : Val) : Val × FF :=
  match a, b with
  | .nan, _ | _, .nan => (.nan, 0)
  | .inf x, .inf y => if x = y then (.inf x, 0) else (.nan, ffIV)
  | .inf x, _ => (.inf x, 0)
  | _, .inf y => (.inf y, 0)
  | .zero x, .zero y => (.zero ((x && y) || mode == .rdn), 0)
  | .zero _, .fin d => (.fin d, 0)
  | .fin d, .zero _ => (.fin d, 0)
  | .fin x, .fin y => (Val.ofDy (mode == .rdn) (x.add y), 0)

/-- Exact product (R109: 0 times an infinity is IV). -/
def Val.mul (a b : Val) : Val × FF :=
  match a, b with
  | .nan, _ | _, .nan => (.nan, 0)
  | .inf _, .zero _ | .zero _, .inf _ => (.nan, ffIV)
  | .inf x, y => (.inf (x != y.isNeg), 0)
  | x, .inf y => (.inf (x.isNeg != y), 0)
  | .fin x, .fin y => (.fin (x.mul y), 0)
  | x, y => (.zero (x.isNeg != y.isNeg), 0)

/-- Negation. -/
def Val.neg : Val → Val
  | .zero n => .zero !n
  | .fin d => .fin d.neg
  | .inf n => .inf !n
  | .nan => .nan

/-- Absolute value. -/
def Val.abs : Val → Val
  | .zero _ => .zero false
  | .fin d => .fin ⟨d.m.natAbs, d.e⟩
  | .inf _ => .inf false
  | .nan => .nan

/-- `a < b` as real numbers; false where either is a NaN. -/
def Val.lt (a b : Val) : Bool :=
  match a, b with
  | .nan, _ | _, .nan => false
  | .inf x, .inf y => x && !y
  | .inf x, _ => x
  | _, .inf y => !y
  | x, y => decide (x.dy.cmp y.dy < 0)

/-- `a = b` as real numbers (zeros of both signs are equal); false where either is a NaN. -/
def Val.eq (a b : Val) : Bool :=
  match a, b with
  | .nan, _ | _, .nan => false
  | .inf x, .inf y => x == y
  | .inf _, _ | _, .inf _ => false
  | x, y => decide (x.dy.cmp y.dy = 0)

/-- floor of the square root, by bits from the top. -/
def isqrtGo (n : Nat) : Nat → Nat → Nat
  | 0, r => r
  | k + 1, r => if (r + 2 ^ k) * (r + 2 ^ k) ≤ n then isqrtGo n k (r + 2 ^ k) else isqrtGo n k r

/-- floor of the square root. -/
def isqrt (n : Nat) : Nat := isqrtGo n (flog2 n / 2 + 1) 0

/-- The square root of a positive dyadic number: exact where it is dyadic, otherwise cut at over 60 significant bits with
the last bit set, so that every rounding of R99 to 36 bits or fewer comes out as for the exact root. -/
def dySqrt (d : Dy) : Dy :=
  let n := d.m.natAbs
  let odd := d.e % 2 != 0
  let n1 := if odd then 2 * n else n
  let e1 := if odd then d.e - 1 else d.e
  let n2 := n1 * 2 ^ 128
  let r := isqrt n2
  if r * r = n2 then ⟨r, e1 / 2 - 64⟩ else ⟨2 * r + 1, e1 / 2 - 65⟩

/-- Fixed-point precision, in bits, of the transcendental functions. -/
def fpBits : Nat := 512

/-- ln 2 in fixed point, from the series 2 * sum of (1/3)^(2k+1) / (2k+1). -/
def ln2Go : Nat → Nat → Nat → Nat
  | 0, _, _ => 0
  | n + 1, k, t => t / (2 * k + 1) + ln2Go n (k + 1) (t / 9)

/-- ln 2 times 2^fpBits. -/
def ln2Fix : Nat := 2 * ln2Go 170 0 (2 ^ fpBits / 3)

/-- The exponential series of a fixed-point argument below 1. -/
def expGo (y : Nat) : Nat → Nat → Nat → Nat
  | 0, _, _ => 0
  | n + 1, k, t => t + expGo y n (k + 1) (t * y / 2 ^ fpBits / (k + 1))

/-- e^y in fixed point, for y in fixed point from 0 to 1. -/
def expFix (y : Nat) : Nat := expGo y 110 0 (2 ^ fpBits)

/-- floor of a dyadic number in fixed point. -/
def dyFix (d : Dy) : Int := if 0 ≤ d.e + fpBits then d.m * 2 ^ (d.e + fpBits).toNat else d.m / 2 ^ (-(d.e + fpBits)).toNat

/-- 2^x for a dyadic x: exact for an integer, otherwise to over 480 significant bits with the last bit set. -/
def dyExp2 (d : Dy) : Dy :=
  let x := dyFix d
  let k := x / 2 ^ fpBits
  let f := x % 2 ^ fpBits
  if 4096 < k then ⟨1, 4096⟩
  else if k < -4096 then ⟨1, -4096⟩
  else if f = 0 && decide (0 ≤ d.e + fpBits) then ⟨1, k⟩
  else ⟨2 * expFix (f.toNat * ln2Fix / 2 ^ fpBits) + 1, k - fpBits - 1⟩

/-- e^x for a dyadic x that is not zero, to over 480 significant bits with the last bit set. -/
def dyExp (d : Dy) : Dy :=
  let x := dyFix d
  if (4096 : Int) * 2 ^ fpBits < x then ⟨1, 4096⟩
  else if x < -(4096 : Int) * 2 ^ fpBits then ⟨1, -4096⟩
  else
    let k := x / ln2Fix
    let r := x - k * ln2Fix
    ⟨2 * expFix r.toNat + 1, k - fpBits - 1⟩

/-- The series of atanh. -/
def atanhGo (z2 : Nat) : Nat → Nat → Nat → Nat
  | 0, _, _ => 0
  | n + 1, k, t => t / (2 * k + 1) + atanhGo z2 n (k + 1) (t * z2 / 2 ^ fpBits)

/-- log2 of a positive dyadic number: exact for a power of two, otherwise to over 480 bits with the last bit set. -/
def dyLog2 (d : Dy) : Dy :=
  let n := d.m.natAbs
  let l := flog2 n
  let k := (l : Int) + d.e
  if n = 2 ^ l then ⟨k, 0⟩
  else
    let z := (n - 2 ^ l) * 2 ^ fpBits / (n + 2 ^ l)
    let ln := 2 * atanhGo (z * z / 2 ^ fpBits) 170 0 z
    ⟨2 * (k * 2 ^ fpBits + (ln * 2 ^ fpBits / ln2Fix : Nat)) + 1, -(fpBits : Int) - 1⟩

end Sys2Proof.Machine
end

