-- ==== Sys2Proof/Syntax.lean ====
section
/-! DEFINITION. The instructions and events of the GM3260: one constructor per row of spec/opcode_table.json, with its leading words (R48) where R64 lets it take any. -/

namespace Sys2Proof

/-- A tile: array (false reason, true reflex), district, tile in the district (R39). -/
structure Loc where
  arr : Bool := false
  dist : Nat := 0
  tile : Nat := 0
  deriving DecidableEq, Repr

/-- A district of an array. -/
structure DistId where
  arr : Bool := false
  dist : Nat := 0
  deriving DecidableEq, Repr

/-- A core in COORD's format, bits 12:5 (R39): its tile and its role (false staging, true issuing). -/
structure CoreName where
  tile : Loc := {}
  ic : Bool := false
  deriving DecidableEq, Repr

/-- Which kind of core decodes the instruction (R66, R156, R390). -/
inductive CoreKind where
  | dispatch
  | staging
  | issuing
  deriving DecidableEq, Repr

/-- Where an uncorrectable error strikes (R407). -/
inductive EccSite where
  | granule (t : Loc) (g : Nat)
  | sector (pa : Nat)
  | icache (t : CoreName)
  | coreState (t : CoreName)
  | dispatchMemory (standby : Bool)
  | dispatchState (standby : Bool)
  deriving DecidableEq, Repr

/-- A core with a checker (R391): a tile's, or a dispatch core. -/
inductive CheckedCore where
  | tile (n : CoreName)
  | dispatch (standby : Bool)
  deriving DecidableEq, Repr

/-- What a REGISTER_WRITE writes: a control register of the context that moves (R371), or a register of a master's
management window (R410), whole or its addressed half. -/
inductive RegDst where
  | csr (n : BitVec 12)
  | mgmt (mst : BitVec 8) (off : BitVec 12) (half : Option Bool)
  deriving DecidableEq, Repr

/-- PFX.M (R53). -/
structure PfxM where
  nt : Bool
  hint : BitVec 2
  scope : R3
  deriving DecidableEq, Repr

/-- PFX.X (R52). -/
structure PfxX where
  k : R3
  r : R3
  q : R3
  deriving DecidableEq, Repr

/-- PFX.V, both words (R54). -/
structure PfxV where
  km : R3
  zero : Bool
  rnd : R3
  c : R3
  sat : Bool
  ftz : Bool
  notrap : Bool
  deriving DecidableEq, Repr

/-- REP with the run of PFX.I words that extends its count (R50, R57). -/
structure Rep where
  run : List (BitVec 9)
  count : BitVec 6
  step : R3
  deriving DecidableEq, Repr

/-- The chain before an instruction word, PFX.G aside (R48). `imm` is the run of PFX.I words that extends the
instruction word's own field. -/
structure Pre where
  m : Option PfxM := none
  x : Option PfxX := none
  v : Option PfxV := none
  imm : List (BitVec 9) := []
  rep : Option Rep := none
  deriving DecidableEq, Repr

/-- The step form of a memory operand, SRC9 bits 8:6 from 000 to 011 (R60). -/
inductive StepForm where
  | plain
  | up
  | down
  | sync
  deriving DecidableEq, Repr

/-- A memory operand of SRC9 (R60). -/
structure MemOpd where
  form : StepForm
  n : R3
  x : R3
  deriving DecidableEq, Repr

/-- The scalar source field SRC9 (R60). -/
inductive Src9 where
  | mem (o : MemOpd)
  | ptr (n : R3)
  | mask (n : R3)
  | imm (i : BitVec 6)
  | acc
  | cyc
  deriving DecidableEq, Repr

/-- The instructions and events, one constructor per row of spec/opcode_table.json. -/
inductive Instr where
  /-- NOP, R116. Does nothing; under REP each repetition is an execution with no effect. -/
  | nop (p : Pre)
  /-- LD, R116. Loads the SRC9 source value into ACC. -/
  | ld (p : Pre) (s : Src9)
  /-- ST, R116. Stores the low bits of ACC to the memory operand; the sync form is a synchronising store. -/
  | st (p : Pre) (s : MemOpd)
  /-- ADD, R118. ACC := ACC + src, setting Z N C V. -/
  | add (p : Pre) (s : Src9)
  /-- SUB, R118. ACC := ACC - src, setting Z N C V. -/
  | sub (p : Pre) (s : Src9)
  /-- RSUB, R118. ACC := src - ACC, setting flags as SUB with the operands exchanged. -/
  | rsub (p : Pre) (s : Src9)
  /-- CMP, R118. Sets the flags of ACC - src without writing ACC. -/
  | cmp (p : Pre) (s : Src9)
  /-- TST, R118. Sets Z and N from ACC AND src without writing ACC. -/
  | tst (p : Pre) (s : Src9)
  /-- AND, R118. ACC := ACC AND src. -/
  | and (p : Pre) (s : Src9)
  /-- OR, R118. ACC := ACC OR src. -/
  | or (p : Pre) (s : Src9)
  /-- XOR, R118. ACC := ACC XOR src. -/
  | xor (p : Pre) (s : Src9)
  /-- ANDN, R118. ACC := ACC AND NOT src. -/
  | andn (p : Pre) (s : Src9)
  /-- SHL, R118. Shifts ACC left by src[5:0]. -/
  | shl (p : Pre) (s : Src9)
  /-- SHR, R118. Shifts ACC right logically by src[5:0]. -/
  | shr (p : Pre) (s : Src9)
  /-- SAR, R118. Shifts ACC right arithmetically by src[5:0]. -/
  | sar (p : Pre) (s : Src9)
  /-- ROL, R118. Rotates ACC left by src[5:0]. -/
  | rol (p : Pre) (s : Src9)
  /-- MUL, R118. ACC := low 64 bits of ACC times src. -/
  | mul (p : Pre) (s : Src9)
  /-- MULH, R118. ACC := high 64 bits of the signed product. -/
  | mulh (p : Pre) (s : Src9)
  /-- MULHU, R118. ACC := high 64 bits of the unsigned product. -/
  | mulhu (p : Pre) (s : Src9)
  /-- DIV, R119. Signed division truncated toward zero, never trapping. -/
  | div (p : Pre) (s : Src9)
  /-- DIVU, R119. Unsigned division, never trapping. -/
  | divu (p : Pre) (s : Src9)
  /-- REM, R119. Signed remainder with the sign of the dividend. -/
  | rem (p : Pre) (s : Src9)
  /-- REMU, R119. Unsigned remainder. -/
  | remu (p : Pre) (s : Src9)
  /-- MIN, R118. ACC := signed minimum of ACC and src. -/
  | min (p : Pre) (s : Src9)
  /-- MAX, R118. ACC := signed maximum of ACC and src. -/
  | max (p : Pre) (s : Src9)
  /-- MINU, R118. ACC := unsigned minimum of ACC and src. -/
  | minu (p : Pre) (s : Src9)
  /-- MAXU, R118. ACC := unsigned maximum of ACC and src. -/
  | maxu (p : Pre) (s : Src9)
  /-- MAC, R120. Adds the product of the source and a second stepped memory operand to ACC. -/
  | mac (p : Pre) (s : Src9)
  /-- NEG, R121. ACC := 0 - ACC with SUB flags. -/
  | neg (p : Pre)
  /-- NOT, R121. ACC := NOT ACC. -/
  | not (p : Pre)
  /-- ABS, R121. ACC := absolute value of signed ACC, V set for the most negative value. -/
  | abs (p : Pre)
  /-- CLZ, R121. ACC := count of leading zero bits. -/
  | clz (p : Pre)
  /-- CTZ, R121. ACC := count of trailing zero bits. -/
  | ctz (p : Pre)
  /-- POPC, R121. ACC := number of one bits. -/
  | popc (p : Pre)
  /-- BREV, R121. Reverses the bits of ACC. -/
  | brev (p : Pre)
  /-- BSWAP, R121. Reverses the bytes of ACC. -/
  | bswap (p : Pre)
  /-- SEXT_B, R121. Sign-extends ACC[7:0]. -/
  | sextB (p : Pre)
  /-- SEXT_H, R121. Sign-extends ACC[15:0]. -/
  | sextH (p : Pre)
  /-- SEXT_W, R121. Sign-extends ACC[31:0]. -/
  | sextW (p : Pre)
  /-- ZEXT_B, R121. Zero-extends ACC[7:0]. -/
  | zextB (p : Pre)
  /-- ZEXT_H, R121. Zero-extends ACC[15:0]. -/
  | zextH (p : Pre)
  /-- ZEXT_W, R121. Zero-extends ACC[31:0]. -/
  | zextW (p : Pre)
  /-- SETF, R121. Sets Z and N from ACC and clears C and V. -/
  | setf (p : Pre)
  /-- LDI, R116. Loads a sign-extended immediate into ACC. -/
  | ldi (p : Pre) (i : BitVec 9)
  /-- ADDI, R117. Adds a sign-extended immediate to ACC with ADD flags. -/
  | addi (p : Pre) (i : BitVec 9)
  /-- PSET, R122. Pn := ACC. -/
  | pset (p : Pre) (n : R3)
  /-- PADD, R122. Steps Pn by signed ACC under the ring rule. -/
  | padd (p : Pre) (n : R3)
  /-- PADDI, R122. Steps Pn by a signed immediate under the ring rule. -/
  | paddi (p : Pre) (n : R3) (i : BitVec 6)
  /-- PSTEP, R122. Sets PSTEPn from a signed immediate. -/
  | pstep (p : Pre) (n : R3) (i : BitVec 6)
  /-- PSPAN, R122. Sets PSPANn and copies Pn into PBASEn. -/
  | pspan (p : Pre) (n : R3) (i : BitVec 6)
  /-- PTYPE, R122. Sets PTYPEn to a type code. -/
  | ptype (p : Pre) (n : R3) (i : BitVec 6)
  /-- KSET, R123. Kd := ACC. -/
  | kset (p : Pre) (d : R3)
  /-- KGET, R123. ACC := Ks. -/
  | kget (p : Pre) (k : R3)
  /-- KOP_AND, R124. Kd := Kd AND Ks. -/
  | kopAnd (p : Pre) (d k : R3)
  /-- KOP_OR, R124. Kd := Kd OR Ks. -/
  | kopOr (p : Pre) (d k : R3)
  /-- KOP_XOR, R124. Kd := Kd XOR Ks. -/
  | kopXor (p : Pre) (d k : R3)
  /-- KOP_ANDN, R124. Kd := Kd AND NOT Ks. -/
  | kopAndn (p : Pre) (d k : R3)
  /-- KOP_MOV, R124. Kd := Ks. -/
  | kopMov (p : Pre) (d k : R3)
  /-- KOP_NOT, R124. Kd := NOT Ks. -/
  | kopNot (p : Pre) (d k : R3)
  /-- KOP_SHL, R124. Kd := Ks shifted left by ACC[5:0]. -/
  | kopShl (p : Pre) (d k : R3)
  /-- KOP_SHR, R124. Kd := Ks shifted right logically by ACC[5:0]. -/
  | kopShr (p : Pre) (d k : R3)
  /-- KSB, R123. Sets bit ACC[5:0] of Kd. -/
  | ksb (p : Pre) (d : R3)
  /-- KCB, R123. Clears bit ACC[5:0] of Kd. -/
  | kcb (p : Pre) (d : R3)
  /-- KTB, R123. Tests bit ACC[5:0] of Kd into Z and C. -/
  | ktb (p : Pre) (d : R3)
  /-- KCNT_N, R125. ACC := number of one bits in Ks. -/
  | kcntN (p : Pre) (k : R3)
  /-- KCNT_LO, R125. ACC := index of the lowest one bit of Ks, 64 if none. -/
  | kcntLo (p : Pre) (k : R3)
  /-- KCNT_HI, R125. ACC := index of the highest one bit of Ks, 64 if none. -/
  | kcntHi (p : Pre) (k : R3)
  /-- B_CC, R307. Branches PC-relative when the condition on the flags holds. -/
  | bcc (p : Pre) (c : BitVec 4) (d : BitVec 5)
  /-- J, R307. Jumps PC-relative. -/
  | j (p : Pre) (d : BitVec 9)
  /-- CALL, R307. Pushes the return address on the P7 stack and jumps PC-relative. -/
  | call (p : Pre) (d : BitVec 9)
  /-- LOOP, R308. Creates a hardware loop level over the following body with count ACC and a stagger. -/
  | loop (l : BitVec 6) (s : R3)
  /-- TRAP, R313. Raises TRAPI with the code in TVAL. -/
  | trap (c : BitVec 9)
  /-- SVC, R313. Raises SVC after completing, with the code in TVAL. -/
  | svc (c : BitVec 9)
  /-- WAITF, R316. Waits until the named granule is full. -/
  | waitf (n : R3)
  /-- WAITE, R316. Waits until the named granule is empty. -/
  | waite (n : R3)
  /-- MONITOR, R317. Arms the context's monitor on the granule at Pn. -/
  | monitor (p : Pre) (n : R3)
  /-- SLEEPT, R319. Sleeps until a time or command completion on a channel and checks the channel's promises. -/
  | sleept (ch : R3)
  /-- SEMP, R323. Waits until a tile semaphore is non-zero and decrements it. -/
  | semp (n : BitVec 4)
  /-- SEMV, R323. Increments a tile semaphore, serving the oldest waiter. -/
  | semv (n : BitVec 4)
  /-- EVSIG, R324. Pulses an EVSIG input of the district Interchange. -/
  | evsig (n : R3)
  /-- FENCE_ACQ, R248. Acquire fence at its scope. -/
  | fenceAcq (s : R3)
  /-- FENCE_REL, R248. Release fence at its scope. -/
  | fenceRel (s : R3)
  /-- FENCE_ACQ_REL, R248. Acquire-release fence at its scope. -/
  | fenceAcqRel (s : R3)
  /-- FENCE_SEQ, R248. Sequential fence ordering every earlier access before every later one. -/
  | fenceSeq (s : R3)
  /-- BINIT, R257. Initialises a completion barrier object. -/
  | binit (p : Pre) (n : R3)
  /-- BARV, R257. Arrives at a completion barrier object, announcing bytes. -/
  | barv (p : Pre) (n : R3)
  /-- BWAIT, R257. Waits until a completion barrier object's phase differs from ACC[0]. -/
  | bwait (p : Pre) (n : R3)
  /-- AADD, R250. Atomic add at the home. -/
  | aadd (p : Pre) (o : BitVec 2) (n : R3) (nr : Bool)
  /-- AAND, R250. Atomic AND at the home. -/
  | aand (p : Pre) (o : BitVec 2) (n : R3) (nr : Bool)
  /-- AOR, R250. Atomic OR at the home. -/
  | aor (p : Pre) (o : BitVec 2) (n : R3) (nr : Bool)
  /-- AXOR, R250. Atomic XOR at the home. -/
  | axor (p : Pre) (o : BitVec 2) (n : R3) (nr : Bool)
  /-- AMIN, R250. Atomic signed minimum at the home. -/
  | amin (p : Pre) (o : BitVec 2) (n : R3) (nr : Bool)
  /-- AMAX, R250. Atomic signed maximum at the home. -/
  | amax (p : Pre) (o : BitVec 2) (n : R3) (nr : Bool)
  /-- AMINU, R250. Atomic unsigned minimum at the home. -/
  | aminu (p : Pre) (o : BitVec 2) (n : R3) (nr : Bool)
  /-- AMAXU, R250. Atomic unsigned maximum at the home. -/
  | amaxu (p : Pre) (o : BitVec 2) (n : R3) (nr : Bool)
  /-- ASWP, R250. Atomic swap at the home. -/
  | aswp (p : Pre) (o : BitVec 2) (n : R3) (nr : Bool)
  /-- ACAS, R250. Atomic compare-and-swap at the home. -/
  | acas (p : Pre) (o : BitVec 2) (n q : R3) (nr : Bool)
  /-- AFADD, R250. Atomic f32 add rounded RNE at the home. -/
  | afadd (p : Pre) (o : BitVec 2) (n : R3) (nr : Bool)
  /-- SPF, R254. Prefetches the line at Pn into the stash. -/
  | spf (p : Pre) (n : R3)
  /-- SWB, R254. Writes the line at Pn back if dirty. -/
  | swb (p : Pre) (n : R3)
  /-- SINV, R254. Writes back and drops the line at Pn. -/
  | sinv (p : Pre) (n : R3)
  /-- SFLUSH, R254. Writes back every dirty line and drops every line of the stash. -/
  | sflush (p : Pre)
  /-- VMOV, R141. Copies a's codes raw into d. -/
  | vmov (p : Pre) (d a : R3)
  /-- VADD, R138. Elementwise a + b rounded into d. -/
  | vadd (p : Pre) (d a b : R3)
  /-- VSUB, R138. Elementwise a - b rounded into d. -/
  | vsub (p : Pre) (d a b : R3)
  /-- VMUL, R138. Elementwise a times b rounded into d. -/
  | vmul (p : Pre) (d a b : R3)
  /-- VFMA, R138. Fused a times b plus c rounded once into d. -/
  | vfma (p : Pre) (d a b : R3)
  /-- VFMS, R138. Fused a times b minus c rounded once into d. -/
  | vfms (p : Pre) (d a b : R3)
  /-- VMIN, R138. Elementwise minimum. -/
  | vmin (p : Pre) (d a b : R3)
  /-- VMAX, R138. Elementwise maximum. -/
  | vmax (p : Pre) (d a b : R3)
  /-- VABS, R138. Elementwise absolute value. -/
  | vabs (p : Pre) (d a : R3)
  /-- VNEG, R138. Elementwise negation. -/
  | vneg (p : Pre) (d a : R3)
  /-- VAND, R140. Bitwise AND of raw codes. -/
  | vand (p : Pre) (d a b : R3)
  /-- VOR, R140. Bitwise OR of raw codes. -/
  | vor (p : Pre) (d a b : R3)
  /-- VXOR, R140. Bitwise XOR of raw codes. -/
  | vxor (p : Pre) (d a b : R3)
  /-- VSHL, R140. Shifts a's raw bits left by b. -/
  | vshl (p : Pre) (d a b : R3)
  /-- VSHR, R140. Shifts a's raw bits right logically by b. -/
  | vshr (p : Pre) (d a b : R3)
  /-- VSAR, R140. Shifts a's raw bits right arithmetically by b. -/
  | vsar (p : Pre) (d a b : R3)
  /-- VCMPEQ, R141. Writes all ones where a equals b, else 0. -/
  | vcmpeq (p : Pre) (d a b : R3)
  /-- VCMPLT, R141. Writes all ones where a is less than b, else 0. -/
  | vcmplt (p : Pre) (d a b : R3)
  /-- VCMPLE, R141. Writes all ones where a is at most b, else 0. -/
  | vcmple (p : Pre) (d a b : R3)
  /-- VSEL, R141. Selects a's or b's code by c's element. -/
  | vsel (p : Pre) (d a b : R3)
  /-- VCVT, R104. Converts a into d's type. -/
  | vcvt (p : Pre) (d a : R3)
  /-- VSCALE, R138. Multiplies a by 2 to the power b. -/
  | vscale (p : Pre) (d a b : R3)
  /-- VRED_SUM, R142. Sums each row by the group-of-16 rule and fills ACC. -/
  | vredSum (p : Pre) (d a : R3)
  /-- VRED_MAX, R143. Row maximum. -/
  | vredMax (p : Pre) (d a : R3)
  /-- VRED_MIN, R143. Row minimum. -/
  | vredMin (p : Pre) (d a : R3)
  /-- VRED_SSQ, R142. Row sum of squares. -/
  | vredSsq (p : Pre) (d a : R3)
  /-- VRED_AMAX, R143. Row argmax. -/
  | vredAmax (p : Pre) (d a : R3)
  /-- VRED_AMIN, R143. Row argmin. -/
  | vredAmin (p : Pre) (d a : R3)
  /-- VDOT, R144. Row dot product of a and b by the group rule, filling ACC. -/
  | vdot (p : Pre) (d a b : R3)
  /-- VRCP, R145. Table reciprocal approximation. -/
  | vrcp (p : Pre) (d a : R3)
  /-- VRSQ, R145. Table reciprocal square root approximation. -/
  | vrsq (p : Pre) (d a : R3)
  /-- VRCPR, R146. One fused Newton step for the reciprocal. -/
  | vrcpr (p : Pre) (d a b : R3)
  /-- VRSQR, R146. One fused Newton step for the reciprocal square root. -/
  | vrsqr (p : Pre) (d a b : R3)
  /-- VEXP2, R147. 2 to the a, rounded once. -/
  | vexp2 (p : Pre) (d a : R3)
  /-- VLOG2, R147. log2 of a, rounded once. -/
  | vlog2 (p : Pre) (d a : R3)
  /-- VEXP, R147. e to the a, rounded once. -/
  | vexp (p : Pre) (d a : R3)
  /-- VBCAST, R148. Writes every active element of d with ACC's low bits. -/
  | vbcast (p : Pre) (d : R3)
  /-- VIOTA, R148. Writes each active element with its shape-order ordinal. -/
  | viota (p : Pre) (d : R3)
  /-- VGATH, R149. Gathers table elements by index after checking every index. -/
  | vgath (p : Pre) (d a b : R3)
  /-- VSCAT, R149. Scatters elements into a table by index after checking every index. -/
  | vscat (p : Pre) (d a b : R3)
  /-- VSQRT, R147. Square root rounded once. -/
  | vsqrt (p : Pre) (d a : R3)
  /-- MMA, R162. Adds A times B over one 128-block into a matrix bank. -/
  | mma (p : Pre) (a b : R3) (k : BitVec 2)
  /-- MMZ, R162. Writes A times B over one 128-block into a matrix bank. -/
  | mmz (p : Pre) (a b : R3) (k : BitVec 2)
  /-- MMST, R164. Stores bank outputs to a record, converted and masked. -/
  | mmst (p : Pre) (n : R3) (k : BitVec 2)
  /-- MMLD, R165. Loads a record into a matrix bank. -/
  | mmld (p : Pre) (n : R3) (k : BitVec 2)
  /-- MMMASK, R166. Reads a mask block for a bank's mask store. -/
  | mmmask (p : Pre) (n : R3) (k : BitVec 2)
  /-- MMSUB, R163. MMA restricted to the sub-block in ACC. -/
  | mmsub (p : Pre) (a b : R3) (k : BitVec 2)
  /-- CPY, R261. Issues a raw copy command on a channel. -/
  | cpy (p : Pre) (d a ch : R3)
  /-- CPYM, R262. Issues a multicast copy to the ranks a mask names. -/
  | cpym (p : Pre) (d a ch : R3)
  /-- GATH, R263. Issues a row gather by index. -/
  | gath (p : Pre) (d a ch : R3)
  /-- COLL_SUM, R264. All-reduce sum collective. -/
  | collSum (p : Pre) (d a : R3)
  /-- COLL_GATHER, R264. All-gather collective. -/
  | collGather (p : Pre) (d a : R3)
  /-- COLL_RSCAT, R264. Reduce-scatter collective. -/
  | collRscat (p : Pre) (d a : R3)
  /-- COLL_BCAST, R264. Broadcast collective from rank 0. -/
  | collBcast (p : Pre) (d a : R3)
  /-- CPQ, R265. Returns 0 or the latest promised time of the context's commands on a channel. -/
  | cpq (ch : R3)
  /-- MBPUB, R273. Publishes bytes from the local window as a new slot version. -/
  | mbpub (n : R3)
  /-- MBGET, R274. Copies a slot's latest version into the scratchpad. -/
  | mbget (n : R3)
  /-- ESOPEN, R283. Joins an escrow window, opening it if idle. -/
  | esopen (w : R3)
  /-- ESCOMMIT, R284. Waits for the window's writes and installs positions below n at one instant. -/
  | escommit (w : R3)
  /-- ESABORT, R284. Waits for the window's writes and discards the window. -/
  | esabort (w : R3)
  /-- PGALLOC, R285. Takes a page number from a pool descriptor. -/
  | pgalloc (n : R3)
  /-- PGFREE, R285. Returns a page number to a pool descriptor. -/
  | pgfree (n : R3)
  /-- QSEQ, R183. Draws one Mint point into ACC and advances QIDX or QDIM. -/
  | qseq (p : Pre) (da : Bool) (f : BitVec 2)
  /-- QSEQ_STORE, R183. Draws one Mint point and stores it through a stepped pointer. -/
  | qseqStore (p : Pre) (n : R3) (da : Bool) (f : BitVec 2)
  /-- QTAB, R183. Loads the Mint direction table. -/
  | qtab (n : R3)
  /-- SPEEK, R186. Reads a seed-stack entry into ACC. -/
  | speek (n : BitVec 4)
  /-- MSUM, R189. Sums the slice mass above STHR and counts its elements. -/
  | msum (a : R3)
  /-- TSRCH, R190. Binary-searches a top-p threshold into STHR. -/
  | tsrch (a : R3)
  /-- TMASS, R192. Places a leaf's slice mass in the sampling tree. -/
  | tmass (n a : R3)
  /-- TDESC, R193. Waits for the tree total, draws a uniform and descends to a leaf. -/
  | tdesc (n : R3)
  /-- TFIND, R194. Locates the token in a slice for a remainder. -/
  | tfind (a : R3)
  /-- LAUNCH, R325. Reads, checks and enqueues a launch record. -/
  | launch (n : R3)
  /-- CSRR, R371. Reads a control register into ACC. -/
  | csrr (p : Pre) (n : BitVec 9)
  /-- CSRW, R371. Writes ACC to a control register. -/
  | csrw (p : Pre) (n : BitVec 9)
  /-- CSRS, R371. Sets bits of a control register and returns the old value. -/
  | csrs (p : Pre) (n : BitVec 9)
  /-- CSRC, R371. Clears bits of a control register and returns the old value. -/
  | csrc (p : Pre) (n : BitVec 9)
  /-- SEIZE, R337. Seizes the named armed reason tiles for guests. -/
  | seize (k : R3)
  /-- SEIZE_ARM, R336. Arms the named reason tiles with guest images. -/
  | seizeArm (k : R3)
  /-- RELEASE, R338. Releases the named seized tiles. -/
  | release (k : R3)
  /-- SHLD, R369. Loads a saved context block into the empty shadow bank. -/
  | shld (n : R3)
  /-- SHLD_IMG, R369. Loads a context image into the empty shadow bank as a fresh context. -/
  | shldImg (n : R3)
  /-- SHST, R369. Writes the shadow context out as a saved block and empties the bank. -/
  | shst (n : R3)
  /-- DBGRD, R366. Reads tile storage under an explicit generation. -/
  | dbgrd (n q : R3)
  /-- DBGRD_TAG, R366. Reads a granule's full/empty bit and tag. -/
  | dbgrdTag (n q : R3)
  /-- DBGWR, R366. Writes tile storage with an explicit generation and full/empty bit. -/
  | dbgwr (n q : R3)
  /-- TLBINV_VA, R356. Invalidates TLB entries for the page at ACC. -/
  | tlbinvVa (s : R3)
  /-- TLBINV_TEN, R356. Invalidates every TLB entry of the tenant. -/
  | tlbinvTen (s : R3)
  /-- TLBINV_ALL, R356. Invalidates every TLB entry of every tenant. -/
  | tlbinvAll (s : R3)
  /-- JRNL, R401. Writes one journal record to both copies. -/
  | jrnl (n : R3)
  /-- PREEMPT, R345. Orders full pre-emption of a tile's task into a save area. -/
  | preempt (n : R3)
  /-- RESUME, R347. Restores a pre-empted task from a complete save area. -/
  | resume (n : R3)
  /-- ENGINE_FILL, R243. An engine command's writes to one granule or line are performed together and the granule set full. -/
  | engineFill (t : Loc) (ch : R3)
  /-- COPY_COMMAND_COMPLETE, R222. A copy command completes and the channel's shadow command becomes active. -/
  | copyCommandComplete (t : Loc) (ch : R3)
  /-- COPY_COMMAND_STOP, R225. A copy command stops at its first element that cannot be performed. -/
  | copyCommandStop (t : Loc) (ch : R3)
  /-- MIRROR_RECEIVE, R405. A standby module receives a mirrored Square version. -/
  | mirrorReceive (slot : BitVec 10) (units : BitVec 10) (version stamp : Word) (wrank uflags : BitVec 32) (payload : List Byte)
  /-- HANDOVER_ARRIVAL, R203. An ENDORSE handover arrives at the target core. -/
  | handoverArrival (ten : BitVec 4) (region : BitVec 8)
  /-- GENERATION_SWEEP, R362. The scrubber sweeps a generation that has stopped being in use. -/
  | generationSweep (t : Loc) (v : BitVec 10)
  /-- INTERCHANGE_SIGNAL, R328. A signal pulse reaches counters and term latches. -/
  | interchangeSignal (d : DistId) (sig : BitVec 7)
  /-- COUNTER_EXPIRE, R328. An Interchange counter reaches 0, pulses its signal and reloads. -/
  | counterExpire (d : DistId) (j : BitVec 5)
  /-- OUTPUT_PULSE, R328. A completed term pulses with every output that names it. -/
  | outputPulse (d : DistId) (o : BitVec 4)
  /-- TIMER_TICK, R330. An Interchange timer's clock crosses a multiple of its period. -/
  | timerTick (d : DistId) (j : R3)
  /-- CONTACT_EDGE, R420. A rising edge on a contact pin pulses its input in every district. -/
  | contactEdge (pin : R3)
  /-- FRAME_RECEIVE, R418. A received frame is classed and written into a ring slot, or dropped. -/
  | frameReceive (port : Bool) (pcp : R3) (etype : BitVec 16) (frame : List Byte)
  /-- TIMENS_DISCIPLINE, R419. Firmware slews or steps TIMENS. -/
  | timensDiscipline (slew : Bool) (amount : Int)
  /-- HOST_KICK, R408. A host KICK write sets a pending-kick bit. -/
  | hostKick (vf : BitVec 4) (q : BitVec 4)
  /-- HOST_DRAM_REQUEST, R409. An inbound BAR2 request is translated, checked and performed at the home slice. -/
  | hostDramRequest (fn : Option (BitVec 4)) (off : Nat) (wr : Option (List Byte)) (len : Nat)
  /-- CLAIM, R374. OWNER command that takes ownership when none is held or the lease expired. -/
  | claim (mst : BitVec 8) (epoch : BitVec 16) (lease : BitVec 32)
  /-- BEAT, R374. OWNER command that renews the owner's lease. -/
  | beat (mst : BitVec 8) (epoch : BitVec 16) (lease : BitVec 32)
  /-- NAME, R374. OWNER command that names a successor. -/
  | nameSucc (mst : BitVec 8) (epoch : BitVec 16) (succ : BitVec 8)
  /-- ACK, R374. OWNER command by which the named successor takes ownership. -/
  | ackOwner (mst : BitVec 8) (epoch : BitVec 16) (lease : BitVec 32)
  /-- RESIGN, R374. OWNER command that gives up ownership. -/
  | resign (mst : BitVec 8) (epoch : BitVec 16)
  /-- CLEAR, R374. OWNER command by which firmware clears any owner. -/
  | clearOwner (epoch : BitVec 16)
  /-- ADMIT, R412. Device command that admits a tenant from an admission block. -/
  | admitTenant (darg : Word)
  /-- REMOVE, R351. Device command that removes a tenant. -/
  | removeTenant (darg : Word)
  /-- DCMD_SEIZE, R411. Device command that writes SEIZECFG. -/
  | dcmdSeize (darg : Word)
  /-- FWUPD, R411. Device command that checks and writes an alternate firmware image. -/
  | fwupd (darg : Word)
  /-- MRESET, R410. A write of 0x5E5E to MRESET resets the module. -/
  | mreset (mst : BitVec 8) (v : Word)
  /-- DSIG_KICK, R438. DSIG command that sets IPEND.KICK in a tenant's graph-control contexts. -/
  | dsigKick (core : Bool) (ten : BitVec 4)
  /-- DSIG_MSIX, R438. DSIG command that sends an MSI-X vector to a tenant. -/
  | dsigMsix (core : Bool) (ten : BitVec 4) (vec : R3)
  /-- TENANT_SELECT, R349. A TENANT write with WE = 0 changes only the selection. -/
  | tenantSelect (tid : BitVec 4)
  /-- TENANT_ENTRY_WRITE, R349. A TENANT write with WE = 1 stores a tenant's entry, sweeping reassigned reflex tiles. -/
  | tenantEntryWrite (v : Word)
  /-- PTBASE_WRITE, R352. A PTBASE write sets a tenant's root and invalidates its TLB entries. -/
  | ptbaseWrite (ten : BitVec 4) (v : Word)
  /-- ESCROW_TENANT_CHANGE, R349. A change of a window's CTL.TENANT discards it and clears joined contexts' EN. -/
  | escrowTenantChange (w : R3) (ten : BitVec 4)
  /-- SLOT_VALID_SET, R268. A write setting a slot's VALID allocates its buffers or sets NOSPACE. -/
  | slotValidSet (slot : BitVec 10) (ten : BitVec 4) (v : Word)
  /-- SLOT_VALID_CLEAR, R268. A write clearing a slot's VALID releases its buffers. -/
  | slotValidClear (slot : BitVec 10)
  /-- CAPABILITY_TABLE_READ, R201. Setting DETMODE.EN reads the capability table into the directory. -/
  | capabilityTableRead (ten : BitVec 4)
  /-- FIELD_RING_START, R418. An FPDAT write starts or restarts a ring, emptying every header. -/
  | fieldRingStart (port : Bool) (ring : R3)
  /-- EWCTL_ENABLE, R423. Setting EWCTL.EN resets HEAD and TAIL of the Ewedex ring. -/
  | ewctlEnable (v : Word)
  /-- REGISTER_WRITE, R371. A write to a register with no behaviour of its own stores its RW fields. -/
  | registerWrite (dst : RegDst) (v : Word)
  /-- SMBUS_SET_POINTER, R421. SMBus command 0x10 sets the management-window offset pointer. -/
  | smbusSetPointer (block : List Byte) (pecOk : Bool)
  /-- SMBUS_READ, R421. SMBus command 0x11 returns the register at the pointer. -/
  | smbusRead (pecOk : Bool)
  /-- SMBUS_WRITE, R421. SMBus command 0x12 writes the register at the pointer. -/
  | smbusWrite (block : List Byte) (pecOk : Bool)
  /-- CHECKER_MISMATCH, R391. The checker stage finds a mismatch and retries, raising MCHK on a second. -/
  | checkerMismatch (t : CheckedCore) (again : Bool)
  /-- CORE_KILL, R394. A core is killed by MCHK or an uncorrectable state error. -/
  | coreKill (t : CoreName) (cause : Byte)
  /-- ECC_UNCORRECTABLE, R407. An uncorrectable SRAM error poisons, refetches or kills. -/
  | eccUncorrectable (site : EccSite)
  /-- CORRECTED_ERROR, R407. A corrected error is rewritten by the patrol and counted. -/
  | correctedError (t : Option CoreName)
  /-- DISPATCH_TAKEOVER, R404. The standby dispatch core takes over after the primary's machine check. -/
  | dispatchTakeover (why : BitVec 2)
  /-- JOURNAL_MIRROR_RECEIVE, R405. A standby module receives a mirrored journal record. -/
  | journalMirrorReceive (rec : List Byte)
  /-- POWER_INTERVAL, R424. At each 1 ms interval the clock steps down or up against power and temperature. -/
  | powerInterval (milliwatts : Nat) (tj : BitVec 16)
  /-- BOOT, R406. Boot runs its 16 steps and records the attempt. -/
  | boot (codes : List (BitVec 4)) (mhz : BitVec 32)
  /-- ILLEGAL_INSTRUCTION, R65. A word that decodes to no instruction, or an assigned opcode with reserved field values or a broken prefix chain, traps ILLEGAL at its first word. -/
  | illegalInstruction (why : BitVec 4) (word : BitVec 3) (w : BitVec 16)
  /-- FETCH_FAULT, R45. A fetch from a window the context may not reach, an untranslated page, or a stale code granule under GENPOL.TRAP = 1 traps XLATE, ACCESS or GENFAULT before any instruction is decoded. -/
  | fetchFault (cause : Byte) (addr : Word)
  /-- RET, R307. Pops the return address from the P7 stack and jumps to it. -/
  | ret
  /-- JR, R307. Jumps to the address in ACC. -/
  | jr
  /-- CALLR, R307. Pushes the return address and jumps to the address in ACC. -/
  | callr
  /-- HALT, R311. Waits for the context's outstanding work, leaves escrow, and ends the strand. -/
  | halt
  /-- HALT_RETAIN, R304. Halts and, as the tile's last halt, retains the tile under the token in ACC. -/
  | haltRetain
  /-- YIELD, R312. Parks the context in favour of a parked context of the same core role, if any. -/
  | yield
  /-- MWAIT, R318. Waits for the monitor, a timeout, an interrupt or a spurious wake and writes the event code. -/
  | mwait
  /-- SLEEPT_T, R319. Sleeps until CYC reaches ACC. -/
  | sleeptT
  /-- BARA, R321. Arrives at a numbered barrier, announcing bytes, and returns the phase. -/
  | bara
  /-- BARA_SET, R321. Re-initialises a numbered barrier's expected arrivals and pending bytes. -/
  | baraSet
  /-- BARW, R321. Arrives at a numbered barrier and waits for its phase to flip. -/
  | barw
  /-- VOTE_AND, R322. Casts ACC as a vote combined by AND. -/
  | voteAnd
  /-- VOTE_OR, R322. Casts ACC as a vote combined by OR. -/
  | voteOr
  /-- VOTE_MAXU, R322. Casts ACC as a vote combined by unsigned maximum. -/
  | voteMaxu
  /-- VOTE_MINU, R322. Casts ACC as a vote combined by unsigned minimum. -/
  | voteMinu
  /-- VOTE_SUM, R322. Casts ACC as a vote combined by sum. -/
  | voteSum
  /-- VOTE_EQ, R322. Casts ACC as a vote whose result says whether all votes are equal. -/
  | voteEq
  /-- ARETRY, R253. Re-sends the latched lost system-scope atomic with its original tag. -/
  | aretry
  /-- MBINFO_VER, R275. Reads the latest version number of a slot. -/
  | mbinfoVer
  /-- MBINFO_TIME, R275. Reads the latest version's stamp. -/
  | mbinfoTime
  /-- MBINFO_WHO, R275. Reads the latest version's rank and count. -/
  | mbinfoWho
  /-- MBINFO_FLAGS, R275. Reads the latest version's flags. -/
  | mbinfoFlags
  /-- ESPOS, R283. Sets the context's draft position from ACC. -/
  | espos
  /-- ESPOS_OFF, R283. Leaves the escrow window. -/
  | esposOff
  /-- QSCR, R183. Latches the seed-stack top as the scrambling key and turns scrambling on. -/
  | qscr
  /-- QSCR_OFF, R183. Turns scrambling off. -/
  | qscrOff
  /-- SPUSH, R186. Pushes ACC on the seed stack. -/
  | spush
  /-- SPOP, R186. Pops the seed stack into ACC. -/
  | spop
  /-- SFORK, R186. Pushes mix(top, ACC) on the seed stack. -/
  | sfork
  /-- ENDORSE, R203. Hands a capability region to a target core. -/
  | endorse
  /-- DQREQ_PUSH, R199. Requests a push onto the district task queue. -/
  | dqreqPush
  /-- DQREQ_POP, R199. Requests a pop from the district task queue. -/
  | dqreqPop
  /-- DQREQ_CNT, R199. Requests the district task queue's count. -/
  | dqreqCnt
  /-- RANKQ_SELF, R326. Returns the context's rank and coordinate. -/
  | rankqSelf
  /-- RANKQ_COORD, R326. Returns the tile coordinate of a rank. -/
  | rankqCoord
  /-- RANKQ_LOAD, R326. Returns the district's DLOAD. -/
  | rankqLoad
  /-- ERET, R379. Returns from a handler, restoring PC, flags, privilege and GIE. -/
  | eret
  /-- WFI, R380. Waits until some line is both enabled and pending. -/
  | wfi
  /-- BANKSW, R369. Swaps the active and shadow banks. -/
  | banksw
  /-- GENNEW, R364. Takes a fresh generation into GEN. -/
  | gennew
  /-- GENNEW_KEEP, R364. Takes a fresh generation and shifts the old GEN into GENRD. -/
  | gennewKeep
  /-- GENSET, R364. Sets GEN and GENRD to allowed values from ACC. -/
  | genset
  /-- KILL_CORE, R394. Kills the named core. -/
  | killCore
  /-- KILL_TASK, R394. Ends every context bound to the named tile. -/
  | killTask
  /-- KILL_RESTART, R397. Re-enqueues each rank that a kill ended on the named core. -/
  | killRestart
  /-- SEAL, R396. Poisons a killed core's owned granules and answers its messages with errors. -/
  | seal
  /-- KICKSCAN_ONE, R402. Takes the next set pending-kick bit. -/
  | kickscanOne
  /-- KICKSCAN_ALL, R402. Takes and clears the whole pending-kick bitmap. -/
  | kickscanAll
  /-- KICKSCAN_CPL, R402. Removes the oldest completion FIFO entry. -/
  | kickscanCpl
  /-- INJARM, R399. Arms the selected link injector. -/
  | injarm
  /-- INJARM_OFF, R399. Disarms the selected injector and returns FIRED. -/
  | injarmOff
  /-- CHKCTL_RD, R393. Reads a core's corrected-mismatch count and killed state. -/
  | chkctlRd
  /-- CHKCTL_CLR, R393. Clears a core's corrected-mismatch count. -/
  | chkctlClr
  /-- CHKCTL_TEST, R393. Forces one checker mismatch and reports whether retry corrects it. -/
  | chkctlTest
  /-- REGISTER_FILL, R21. A long-latency result arrives and fills its empty destination register. (The context is the one that moves.) -/
  | registerFill
  /-- ACCESS_PERFORMED, R227. An access reaches its home agent and is performed at one instant. (The context is the one that moves.) -/
  | accessPerformed
  /-- SYNC_ACCESS_SERVED, R113. A waiting synchronising access is served at the home when the granule's state allows. (The context is the one that moves.) -/
  | syncAccessServed
  /-- MWAIT_TIMEOUT, R318. The MWAIT timeout of T cycles expires. (The context is the one that moves.) -/
  | mwaitTimeout
  /-- MWAIT_SPURIOUS, R318. An MWAIT ends spuriously. (The context is the one that moves.) -/
  | mwaitSpurious
  /-- SLEEPT_WAKE, R319. CYC reaches the SLEEPT time and the set of commands is checked. (The context is the one that moves.) -/
  | sleeptWake
  /-- VECTOR_ENTRY_COMPLETE, R129. A vector queue entry completes, writing its results and ORing its flags. (The context is the one that moves.) -/
  | vectorEntryComplete
  /-- VECTOR_FAULT_STOP, R150. A vector entry stops at a faulting element and later entries are discarded. (The context is the one that moves.) -/
  | vectorFaultStop
  /-- MATRIX_ENTRY_COMPLETE, R174. A matrix queue entry completes and its results reach the bank or memory. (The context is the one that moves.) -/
  | matrixEntryComplete
  /-- MATRIX_FAULT_STOP, R172. A matrix entry stops on a fault and the waiting entry is discarded. (The context is the one that moves.) -/
  | matrixFaultStop
  /-- COLLECTIVE_COMPLETE, R264. All participants of a collective have issued and its result is written. (State.pick names which.) -/
  | collectiveComplete
  /-- ATOMIC_AT_HOME, R250. An atomic request is performed at its home, or refused. (The context is the one that moves.) -/
  | atomicAtHome
  /-- ATOMIC_REFUSAL, R252. A refused atomic's refusal arrives at the issuing context. (The context is the one that moves.) -/
  | atomicRefusal
  /-- ATOMIC_RESPONSE_LOST, R253. A system-scope atomic's response is declared lost after the timeout or a retrain. (The context is the one that moves.) -/
  | atomicResponseLost
  /-- STASH_OP_COMPLETE, R254. An asynchronous stash instruction completes. (The context is the one that moves.) -/
  | stashOpComplete
  /-- SQUARE_WRITE_GRANT, R270. A write port is granted to a waiting MBPUB, which copies into a free buffer. (State.pick names which.) -/
  | squareWriteGrant
  /-- FLIP, R269. A publication's buffer becomes the slot's latest version. (State.pick names which.) -/
  | flip
  /-- SQUARE_READ_GRANT, R270. A read port is granted to a waiting MBGET, pinning the latest buffer. (State.pick names which.) -/
  | squareReadGrant
  /-- MBGET_COMPLETE, R274. An MBGET's header and payload land, fill, unpin and fill ACC. (State.pick names which.) -/
  | mbgetComplete
  /-- MBINFO_RESPONSE, R275. The Square controller answers an MBINFO. (State.pick names which.) -/
  | mbinfoResponse
  /-- SQUARE_REFUSAL, R276. A Square request is refused after retire and reported as ENGINE. (State.pick names which.) -/
  | squareRefusal
  /-- ESCROW_INSTALL, R284. After its wait, a commit installs, or an abort discards, the window at one instant. (The context is the one that moves.) -/
  | escrowInstall
  /-- TREE_UPDATE, R192. A TMASS read-modify-write is performed at the tree block's home. (The context is the one that moves.) -/
  | treeUpdate
  /-- DQREQ_SERVE, R199. A DQREQ request is served at the district on arrival. (State.pick names which.) -/
  | dqreqServe
  /-- QUANTUM_CLOSE, R200. A quantum closes and its DQREQs are served in logical-core order. (State.pick names which.) -/
  | quantumClose
  /-- VOTE_COMPLETE, R322. The k-th vote of every strand is cast and results fill every voter's ACC. (State.pick names which.) -/
  | voteComplete
  /-- BARW_WAKE, R321. The barrier unit returns waiting BARW strands to the ready set after a flip. (The context is the one that moves.) -/
  | barwWake
  /-- FPX_WINDOW_CLOSE, R151. A 64-cycle FP window ends and one requesting context is chosen for FPX. (State.pick names which.) -/
  | fpxWindowClose
  /-- VECTOR_SHARE_WINDOW, R299. A 1,024-cycle arbiter window starts and the deficit counters reset. (State.pick names which.) -/
  | vectorShareWindow
  /-- BUDGET_EXPIRE, R43. A reflex thread's RBUDGET reaches 0. (The context is the one that moves.) -/
  | budgetExpire
  /-- BUDGET_GRACE_EXPIRE, R386. A reflex thread's grace ends and hardware ends the thread. (The context is the one that moves.) -/
  | budgetGraceExpire
  /-- TRAP_ENTRY, R376. A deferred cause is taken at a boundary and the handler entered. (The context is the one that moves.) -/
  | trapEntry
  /-- INTERRUPT_ENTRY, R388. An enabled pending interrupt line is taken at a boundary. (The context is the one that moves.) -/
  | interruptEntry
  /-- LAUNCH_BIND, R298. A selected record with enough reserved tiles and free barriers binds its tile tasks. (State.pick names which.) -/
  | launchBind
  /-- TILE_TASK_END, R304. Both strands have halted and the task ends, powering down or retaining the tile. (State.pick names which.) -/
  | tileTaskEnd
  /-- RETAIN_EXPIRE, R304. A retained tile unbound for 2^20 cycles is released and powered down. (State.pick names which.) -/
  | retainExpire
  /-- MIGRATE, R303. A long-parked task is moved to a less loaded tile. (State.pick names which.) -/
  | migrate
  /-- SEIZE_MESSAGE, R332. A seize message reaches a tile and its reason contexts are swapped for guests. (State.pick names which.) -/
  | seizeMessage
  /-- TILE_RELEASE, R338. A seized tile is released after its guests halt or its thread halts. (State.pick names which.) -/
  | tileRelease
  /-- REARM, R339. A released tile reloads its shadow banks from the arm store. (State.pick names which.) -/
  | rearm
  /-- PREEMPT_SAVE_DONE, R345. Phase two of a pre-emption writes the reservation and sets DONE. (State.pick names which.) -/
  | preemptSaveDone
  /-- FRAME_TRANSMIT, R418. The port transmits a full transmit slot and empties its header. (State.pick names which.) -/
  | frameTransmit
  /-- PTP_FRAME, R416. A frame of EtherType 0x88F7 goes to the timestamp unit. (State.pick names which.) -/
  | ptpFrame
  /-- LEASE_EXPIRE, R374. The owner's lease counts down to 0. -/
  | leaseExpire
  /-- INJECTION, R399. An armed injector reaches flit N and corrupts, drops or delays it. (State.pick names which.) -/
  | injection
  /-- SPARE_LINK_RETRAIN, R399. The spare link retrains, losing outstanding responses. -/
  | spareLinkRetrain
  /-- ACTIVE_ASSERT, R405. A module asserts ACTIVE after reading the partner's pin low for 1,024 cycles. -/
  | activeAssert
  /-- ACTIVE_TIE, R414. Both modules assert ACTIVE in one cycle and the secondary withdraws. -/
  | activeTie
  /-- FAILOVER, R405. The spare module asserts ACTIVE, replays the journal and starts graph-control tasks. -/
  | failover
  /-- POWER_ON, R425. Rails come up in order and boot starts. -/
  | powerOn
  /-- POWER_DOWN, R425. Rails go down in reverse order. -/
  | powerDown
  /-- MODULE_RESET, R40. Module reset sets counters, tags and registers to their reset values. -/
  | moduleReset
  /-- PREEMPT_ORDER_ARRIVAL, R345. The PREEMPT order reaches the tile, which freezes the task, writes its execution state and frees the cores within 1,536 cycles. (State.pick names which.) -/
  | preemptOrderArrival
  /-- AGING, R296. A queued launch record's effective priority rises by one each 2^20 cycles, which can change the selected record and pass its reservations on. (State.pick names which.) -/
  | aging
  deriving DecidableEq, Repr

end Sys2Proof
end

