-- ==== Sys2Proof/Machine/Fields.lean ====
section
/-! DEFINITION. The fields that PFX.I widens (R50) and the bit-field helpers of the decoder. -/

namespace Sys2Proof

/-- The combined field of R50: the base field `f` of width `w`, with the operand fields of a run of PFX.I words above it,
the first word highest. -/
def widenNat (w f : Nat) : List (BitVec 9) → Nat
  | [] => f
  | p :: ps => p.toNat * 2 ^ (w + 9 * ps.length) + widenNat w f ps

/-- R50, an unsigned field. -/
def widenU {w : Nat} (f : BitVec w) (run : List (BitVec 9)) : Nat := widenNat w f.toNat run

/-- `sext` of a number of width `w`. -/
def sextNat (w v : Nat) : Int := if v < 2 ^ (w - 1) then v else (v : Int) - 2 ^ w

/-- R50, a signed field. -/
def widenS {w : Nat} (f : BitVec w) (run : List (BitVec 9)) : Int :=
  sextNat (w + 9 * run.length) (widenNat w f.toNat run)

/-- The opcode field, bits 15:9 (R44). -/
def opc (w : Half) : BitVec 7 := w.extractLsb' 9 7
/-- The operand field, bits 8:0 (R44). -/
def opd (w : Half) : BitVec 9 := w.extractLsb' 0 9
/-- Bits 8:6 of an operand field. -/
def fHi (f : BitVec 9) : R3 := f.extractLsb' 6 3
/-- Bits 5:3 of an operand field. -/
def fMid (f : BitVec 9) : R3 := f.extractLsb' 3 3
/-- Bits 2:0 of an operand field. -/
def fLo (f : BitVec 9) : R3 := f.extractLsb' 0 3
/-- Bits 5:0 of an operand field. -/
def fImm6 (f : BitVec 9) : BitVec 6 := f.extractLsb' 0 6
/-- Three 3-bit fields make an operand field (layouts KM, V, G3). -/
def f3 (a b c : R3) : BitVec 9 := a ++ b ++ c

end Sys2Proof
end

