-- ==== Sys2Proof/WellFormed.lean ====
section
/-! DEFINITION. Which terms of Instr are instructions of the part: the leading words that R64 lets each accept, the
operand values that R54, R61, R122, R161, R183, R249 and R356 call legal, and the places that R7 says exist. -/

namespace Sys2Proof

/-- What a leading word may supply to one instruction (R48, R56, R64). -/
structure Accept where
  /-- PFX.M -/
  m : Bool := false
  /-- the fields of PFX.X that the instruction uses: k, q -/
  xk : Bool := false
  xq : Bool := false
  /-- PFX.X required (R52) -/
  needX : Bool := false
  /-- PFX.V, its c field, its ZERO bit, and whether it is required (R54, R55) -/
  v : Bool := false
  vc : Bool := false
  vzero : Bool := false
  needV : Bool := false
  /-- PFX.I on the instruction's own field -/
  imm : Bool := false
  /-- REP, and its STEP bits 0, 1, 2 -/
  rep : Bool := false
  s0 : Bool := false
  s1 : Bool := false
  s2 : Bool := false
  deriving DecidableEq, Repr

/-- The number of prefixes of a chain: PFX.V counts once, each PFX.I word counts (R48). -/
def Pre.count (g : Bool) (p : Pre) : Nat :=
  b2n g + b2n p.m.isSome + b2n p.x.isSome + b2n p.v.isSome + p.imm.length +
    (match p.rep with
     | none => 0
     | some r => r.run.length + 1)

/-- PFX.M's fields are legal: SCOPE is not 7 (R53). -/
def PfxM.wf (m : PfxM) : Bool := m.scope != 7
/-- PFX.V's fields are legal: RND is not 110 (R54). -/
def PfxV.wf (v : PfxV) : Bool := v.rnd != 6

/-- The leading words are ones that the instruction accepts (R48, R64, R67); `g` says whether PFX.G leads the chain. -/
def Pre.ok (g : Bool) (a : Accept) (p : Pre) : Bool :=
  (match p.m with
   | none => true
   | some m => a.m && m.wf) &&
  (match p.x with
   | none => !a.needX
   | some x => (a.xk || a.xq) && (a.xk || x.k == 0) && (a.xq || x.q == 0) && x.r == 0) &&
  (match p.v with
   | none => !a.needV
   | some v => a.v && (a.vc || v.c == 0) && (a.vzero || !v.zero) && v.wf) &&
  (p.imm.isEmpty || (a.imm && p.rep.isNone)) &&
  (match p.rep with
   | none => true
   | some r => a.rep && (a.s0 || !r.step.getLsbD 0) && (a.s1 || !r.step.getLsbD 1) && (a.s2 || !r.step.getLsbD 2)) &&
  decide (p.count g ≤ 4)

/-- What layout S lets lead it, by the form of SRC9 (R64, R67, R111). -/
def Src9.accept (mac : Bool) : Src9 → Accept
  | .mem _ => { m := true, imm := true, rep := true, s0 := true, s2 := true, xq := mac, s1 := mac }
  | .ptr _ => { rep := true, s0 := true, xq := mac, s1 := mac, needX := mac }
  | .imm _ => { imm := true, rep := true, s2 := true, xq := mac, s1 := mac, needX := mac }
  | .mask _ | .acc | .cyc => { rep := true, xq := mac, s1 := mac, needX := mac }

/-- Vector instructions (R64, page 1). -/
def acceptV (vc vzero s1 : Bool) : Accept :=
  { m := true, v := true, vc := vc, vzero := vzero, rep := true, s0 := true, s1 := s1 }

/-- REP alone, no field to step. -/
def acceptRep : Accept := { rep := true }

/-- A tile exists on the larger variant (R7). -/
def Loc.wf (t : Loc) : Bool := decide (t.tile < 8) && decide (t.dist < if t.arr then 2 else 6)
/-- A district exists on the larger variant (R7). -/
def DistId.wf (d : DistId) : Bool := decide (d.dist < if d.arr then 2 else 6)

/-- PSTEP's immediate lies in the signed 32-bit range (R122). -/
def pstepOk (i : BitVec 6) (run : List (BitVec 9)) : Bool :=
  decide (-(2 ^ 31 : Int) ≤ widenS i run ∧ widenS i run < 2 ^ 31)
/-- PSPAN's immediate is below 2^27 (R122). -/
def pspanOk (i : BitVec 6) (run : List (BitVec 9)) : Bool := decide (widenU i run < 2 ^ 27)
/-- N with order acquire or acq_rel is not allowed (R249). -/
def atOk (o : BitVec 2) (nr : Bool) : Bool := !(nr && o.getLsbD 0)

/-- The instruction is one of the part's (R48, R61, R62, R64): its leading words are accepted and its fields legal. -/
def Instr.wf : Instr → Bool
  | .nop p | .neg p | .not p | .abs p | .clz p | .ctz p | .popc p | .brev p | .bswap p | .sextB p | .sextH p | .sextW p
  | .zextB p | .zextH p | .zextW p | .setf p | .kset p _ | .ksb p _ | .kcb p _ | .ktb p _ | .kget p _ | .kcntN p _
  | .kcntLo p _ | .kcntHi p _ | .kopAnd p _ _ | .kopOr p _ _ | .kopXor p _ _ | .kopAndn p _ _ | .kopMov p _ _
  | .kopNot p _ _ | .kopShl p _ _ | .kopShr p _ _ => p.ok false acceptRep
  | .ld p s | .add p s | .sub p s | .rsub p s | .cmp p s | .tst p s | .and p s | .or p s | .xor p s | .andn p s | .shl p s
  | .shr p s | .sar p s | .rol p s | .mul p s | .mulh p s | .mulhu p s | .div p s | .divu p s | .rem p s | .remu p s
  | .min p s | .max p s | .minu p s | .maxu p s => p.ok false (s.accept false)
  | .mac p s => p.ok false (s.accept true)
  | .st p o => p.ok false ((Src9.mem o).accept false)
  | .ldi p _ | .addi p _ => p.ok false { imm := true, rep := true, s2 := true }
  | .pset p _ | .padd p _ => p.ok false { rep := true, s0 := true }
  | .paddi p _ _ => p.ok false { imm := true, rep := true, s0 := true, s2 := true }
  | .pstep p _ i => p.ok false { imm := true, rep := true, s0 := true, s2 := true } && pstepOk i p.imm
  | .pspan p _ i => p.ok false { imm := true, rep := true, s0 := true, s2 := true } && pspanOk i p.imm
  | .ptype p _ _ => p.ok false { rep := true, s0 := true }
  | .bcc p _ _ | .j p _ | .call p _ => p.ok false { imm := true }
  | .monitor p _ | .binit p _ | .barv p _ | .bwait p _ => p.ok false { m := true }
  | .fenceAcq s | .fenceRel s | .fenceAcqRel s | .fenceSeq s => s != 7
  | .aadd p o _ nr | .aand p o _ nr | .aor p o _ nr | .axor p o _ nr | .amin p o _ nr | .amax p o _ nr | .aminu p o _ nr
  | .amaxu p o _ nr | .aswp p o _ nr | .afadd p o _ nr => p.ok false { m := true, rep := true, s0 := true } && atOk o nr
  | .acas p o _ _ nr => p.ok false { m := true, rep := true, s0 := true, s1 := true } && atOk o nr
  | .spf p _ | .swb p _ | .sinv p _ => p.ok false { m := true, rep := true, s0 := true }
  | .sflush p => p.ok false { m := true, rep := true }
  | .vmov p _ _ | .vabs p _ _ | .vneg p _ _ | .vcvt p _ _ | .vrcp p _ _ | .vrsq p _ _ | .vexp2 p _ _ | .vlog2 p _ _
  | .vexp p _ _ | .vsqrt p _ _ => p.ok true (acceptV false true true)
  | .vadd p _ _ _ | .vsub p _ _ _ | .vmul p _ _ _ | .vmin p _ _ _ | .vmax p _ _ _ | .vand p _ _ _ | .vor p _ _ _
  | .vxor p _ _ _ | .vshl p _ _ _ | .vshr p _ _ _ | .vsar p _ _ _ | .vcmpeq p _ _ _ | .vcmplt p _ _ _ | .vcmple p _ _ _
  | .vscale p _ _ _ | .vrcpr p _ _ _ | .vrsqr p _ _ _ | .vgath p _ _ _ => p.ok true (acceptV false true true)
  | .vfma p _ _ _ | .vfms p _ _ _ => p.ok true (acceptV true true true)
  | .vsel p _ _ _ => p.ok true { acceptV true true true with needV := true }
  | .vredSum p _ _ | .vredMax p _ _ | .vredMin p _ _ | .vredSsq p _ _ | .vredAmax p _ _ | .vredAmin p _ _ | .vdot p _ _ _
  | .vscat p _ _ _ => p.ok true (acceptV false false true)
  | .vbcast p _ | .viota p _ => p.ok true (acceptV false true false)
  | .mma p _ _ k | .mmz p _ _ k | .mmsub p _ _ k => p.ok true { rep := true, s0 := true, s1 := true } && k != 3
  | .mmst p _ k | .mmld p _ k => p.ok true { m := true, rep := true, s0 := true } && k != 3
  | .mmmask p _ k => p.ok true { rep := true, s0 := true } && k != 3
  | .cpy p _ _ _ => p.ok true { m := true, rep := true, s0 := true, s1 := true }
  | .cpym p _ _ _ => p.ok true { m := true, xk := true, needX := true, rep := true, s0 := true, s1 := true }
  | .gath p _ _ _ => p.ok true { m := true, xq := true, needX := true, rep := true, s0 := true, s1 := true }
  | .collSum p _ _ | .collGather p _ _ | .collRscat p _ _ | .collBcast p _ _ => p.ok true { m := true }
  | .qseq p _ f => p.ok true acceptRep && f != 3
  | .qseqStore p _ _ f => p.ok true { rep := true, s0 := true } && f != 3
  | .csrr p _ | .csrw p _ | .csrs p _ | .csrc p _ => p.ok true { imm := true }
  | .tlbinvVa s | .tlbinvTen s | .tlbinvAll s => decide (3 ≤ s.toNat ∧ s.toNat ≤ 5)
  | .loop _ _ | .trap _ | .svc _ | .ret | .jr | .callr | .halt | .haltRetain | .yield | .waitf _ | .waite _ | .mwait
  | .sleept _ | .sleeptT | .bara | .baraSet | .barw | .voteAnd | .voteOr | .voteMaxu | .voteMinu | .voteSum | .voteEq
  | .semp _ | .semv _ | .evsig _ | .aretry | .cpq _ | .mbpub _ | .mbget _ | .mbinfoVer | .mbinfoTime | .mbinfoWho
  | .mbinfoFlags | .esopen _ | .espos | .esposOff | .escommit _ | .esabort _ | .pgalloc _ | .pgfree _ | .qtab _ | .qscr
  | .qscrOff | .spush | .spop | .sfork | .speek _ | .msum _ | .tsrch _ | .tmass _ _ | .tdesc _ | .tfind _ | .endorse
  | .dqreqPush | .dqreqPop | .dqreqCnt | .launch _ | .rankqSelf | .rankqCoord | .rankqLoad | .eret | .wfi | .seize _
  | .seizeArm _ | .release _ | .banksw | .shld _ | .shldImg _ | .shst _ | .gennew | .gennewKeep | .genset | .dbgrd _ _
  | .dbgrdTag _ _ | .dbgwr _ _ | .killCore | .killTask | .killRestart | .seal | .jrnl _ | .kickscanOne | .kickscanAll
  | .kickscanCpl | .injarm | .injarmOff | .chkctlRd | .chkctlClr | .chkctlTest | .preempt _ | .resume _ => true
  | .engineFill t _ | .copyCommandComplete t _ | .copyCommandStop t _ | .generationSweep t _ | .coreKill ⟨t, _⟩ _ => t.wf
  | .checkerMismatch t _ => (match t with
    | .tile c => c.tile.wf
    | .dispatch _ => true)
  | .correctedError t => (match t with
    | none => true
    | some c => c.tile.wf)
  | .eccUncorrectable site => (match site with
    | .granule t _ => t.wf
    | .icache c | .coreState c => c.tile.wf
    | .sector _ | .dispatchMemory _ | .dispatchState _ => true)
  | .interchangeSignal d _ | .counterExpire d _ | .outputPulse d _ | .timerTick d _ => d.wf
  | .illegalInstruction why word _ => decide (1 ≤ why.toNat ∧ why.toNat ≤ 8) && decide (word.toNat ≤ 5)
  | .registerFill | .accessPerformed | .syncAccessServed | .mwaitTimeout | .mwaitSpurious | .sleeptWake
  | .vectorEntryComplete | .vectorFaultStop | .matrixEntryComplete | .matrixFaultStop | .collectiveComplete
  | .atomicAtHome | .atomicRefusal | .atomicResponseLost | .stashOpComplete | .squareWriteGrant | .flip
  | .squareReadGrant | .mbgetComplete | .mbinfoResponse | .squareRefusal | .mirrorReceive .. | .escrowInstall
  | .handoverArrival .. | .treeUpdate | .dqreqServe | .quantumClose | .voteComplete | .barwWake | .fpxWindowClose
  | .vectorShareWindow | .budgetExpire | .budgetGraceExpire | .trapEntry | .interruptEntry | .launchBind
  | .tileTaskEnd | .retainExpire | .migrate | .seizeMessage | .tileRelease | .rearm | .preemptSaveDone
  | .contactEdge .. | .frameReceive .. | .frameTransmit | .ptpFrame | .timensDiscipline .. | .hostKick ..
  | .hostDramRequest .. | .claim .. | .beat .. | .nameSucc .. | .ackOwner .. | .resign .. | .clearOwner ..
  | .leaseExpire | .admitTenant .. | .removeTenant .. | .dcmdSeize .. | .fwupd .. | .mreset .. | .dsigKick ..
  | .dsigMsix .. | .tenantSelect .. | .tenantEntryWrite .. | .ptbaseWrite .. | .escrowTenantChange ..
  | .slotValidSet .. | .slotValidClear .. | .capabilityTableRead .. | .fieldRingStart .. | .ewctlEnable ..
  | .registerWrite .. | .smbusSetPointer .. | .smbusRead .. | .smbusWrite .. | .injection | .spareLinkRetrain
  | .dispatchTakeover .. | .journalMirrorReceive .. | .activeAssert | .activeTie | .failover | .powerInterval ..
  | .powerOn | .powerDown | .boot .. | .moduleReset | .fetchFault .. | .preemptOrderArrival | .aging => true

end Sys2Proof
end

