-- ==== Sys2Proof/Machine/State.lean ====
section
/-! DEFINITION. The state of the module: plain data, every piece of state that the spec gives (INVENTORY.md, State). -/

namespace Sys2Proof.Machine

/-- Why the machine stops. -/
inductive Fault where
  /-- The module has no power (R425): a step of a module that POWER_DOWN has switched off. Safe: no instruction runs there. -/
  | poweredOff
  deriving DecidableEq, Repr

/-- What the model does not give a meaning to. -/
inductive Refusal where
  /-- Raised by an arm of exec whose instruction has no meaning yet. Safe. -/
  | notModelled (mnemonic : String)
  deriving DecidableEq, Repr

/-- A generation (R24, R358). -/
abbrev Gen := BitVec 10

/-- A register with its full/empty bit and its generation tag (R15, R21, R24). -/
structure Reg where
  val : Word := 0
  full : Bool := true
  tag : Gen := 1
  deriving DecidableEq, Repr

/-- The descriptor of a pointer register (R18, R34). -/
structure PDesc where
  base : Word := 0
  /-- bits 31:0 of PSPAN; bits 4:0 stay zero -/
  span : BitVec 32 := 0
  step : BitVec 32 := 0
  ty : BitVec 6 := 6
  deriving DecidableEq, Repr

/-- Privilege levels (R25). -/
inductive Priv where
  | u
  | s
  | m
  deriving DecidableEq, Repr

/-- N, Z, C, V of STATUS (R17), or one bit for each of them. -/
structure Flags where
  n : Bool := false
  z : Bool := false
  c : Bool := false
  v : Bool := false
  deriving DecidableEq, Repr

/-- A loop level (R308). -/
structure LoopLevel where
  start : Word
  stop : Word
  left : Nat
  pass : Nat
  stag : R3
  deriving DecidableEq, Repr

/-- The trap registers TCAUSE, TPC, TVAL, TSTAT (R42, R376). -/
structure TrapRegs where
  cause : Word := 0
  pc : Word := 0
  val : Word := 0
  stat : Word := 0
  deriving DecidableEq, Repr

/-- Where a context is. -/
inductive Place where
  | dispatch (standby : Bool)
  | tile (t : Loc) (ic : Bool)
  deriving DecidableEq, Repr

/-- What a context is (R287, R336, R340). -/
inductive CtxKind where
  | dispatch
  | task
  | thread (slot : Nat) (prio : Nat) (started : Nat)
  | guest
  deriving DecidableEq, Repr

/-- Which bank holds a context, or whether it is parked, spilled, waiting to start as a thread, between two tiles, or over (R15,
R301, R303, R341, R342, R347). -/
inductive Role where
  | active
  | shadow
  | parked (since : Nat)
  | spilled (slot : Nat)
  | pending
  /-- on its way to another tile (R303) or out of a save area (R347) -/
  | transit
  | off
  deriving DecidableEq, Repr

/-- The Mint context (R177). -/
structure Mint where
  /-- V, one list of 32 numbers of 32 bits for each dimension; D is its length -/
  table : List (List (BitVec 32)) := []
  scr : Bool := false
  skey : Word := 0
  deriving DecidableEq, Repr

/-- The identity under which an access is made: a strand's as it executes, or a unit's as it was sampled at issue
(R231, R354, R358, R361). -/
structure Issuer where
  uid : Nat := 0
  kind : CtxKind := .dispatch
  place : Place := .dispatch false
  tenant : Nat := 0
  /-- the launch whose rank table the context uses (R208) -/
  launch : Nat := 0
  task : Nat := 0
  rank : Nat := 0
  nrank : Nat := 0
  gen : Gen := 1
  genrd : List Gen := []
  gentrap : Bool := false
  prv : Priv := .m
  scope : R3 := 2
  /-- ESCTX: window and position when EN = 1 (R35) -/
  esc : Option (Nat × Nat) := none
  det : Bool := false
  mixtrap : Bool := false
  /-- the address of the issuing instruction -/
  pc : Word := 0
  /-- DRAM pages translated at issue: 4 KiB page of the offset to physical page (R128, R167) -/
  xlat : List (Nat × Nat) := []
  /-- a matrix entry's number in order of issue, 0 for any other, and the granules that it leases (R169) -/
  order : Nat := 0
  lease : List Nat := []
  /-- a queued vector or matrix entry: what its issue checked of its windows stops it no more (R150, R172) -/
  issued : Bool := false
  deriving DecidableEq, Repr

/-- A shape record as read (R69). -/
structure Shape where
  strm : Bool := false
  base : Word := 0
  ty : ETy := .i64
  tycode : Nat := 6
  rank : Nat := 1
  scaled : Bool := false
  sync : Bool := false
  dims : List Nat := []
  strs : List Int := []
  sbase : Word := 0
  sstride : Nat := 0
  deriving DecidableEq, Repr

/-- Which stop a report is of (R384): UNIT, with the channel for copy commands and collectives. -/
inductive RUnit where
  | vector
  | matrix
  | copy (ch : R3)
  | atomic
  | square
  | tree
  | coll (ch : R3)
  deriving DecidableEq, Repr

/-- An unreported stop (R225, R384). -/
structure Report where
  unit : RUnit
  sub : Byte
  addr : Word
  pc : Word
  disc : Nat := 0
  e1 : Word := 0
  e2 : Word := 0
  /-- destination granules left empty by a stopped command: (tile storage key / 32) -/
  grans : List Nat := []
  /-- the promised time of a stopped command -/
  promise : Option Nat := none
  /-- CYC at the stop (R382) -/
  time : Nat := 0
  /-- the number of the stopped command -/
  cmd : Option Nat := none
  deriving DecidableEq, Repr

/-- An unreported over-credit or VOTE mismatch (R258, R322): the object's address, the channel at whose synchronisations it is
reported, none for VOTE, the granules that the command left empty when it stopped, and the command's number. -/
structure BarRep where
  obj : Word
  ch : Option R3 := none
  grans : List Nat := []
  /-- the number of the command -/
  cmd : Option Nat := none
  deriving DecidableEq, Repr

/-- The flags that a result writes; none leaves the flag (R114). -/
structure FlagSet where
  n : Option Bool := none
  z : Option Bool := none
  c : Option Bool := none
  v : Option Bool := none
  deriving DecidableEq, Repr

/-- The binary operations on ACC and a source (R118, R119). -/
inductive AluOp where
  | ld | add | sub | rsub | cmp | tst | and | or | xor | andn | shl | shr | sar | rol | mul | mulh | mulhu
  | div | divu | rem | remu | min | max | minu | maxu
  deriving DecidableEq, Repr

/-- The operations of the atomics (R249). -/
inductive AtomOp where
  | add | and | or | xor | min | max | minu | maxu | swp | cas | fadd
  deriving DecidableEq, Repr

/-- A scalar element access as its address stage found it: the address and the element type. -/
structure Elem where
  ea : Word
  ty : ETy
  deriving DecidableEq, Repr

/-- A latched atomic request (R250, R253). -/
structure AtomReq where
  iss : Issuer
  op : AtomOp
  el : Elem
  v : Word
  swap : Word
  order : BitVec 2
  nr : Bool
  /-- the sequence tag of a system-scope atomic across the spare link -/
  tag : Option (BitVec 16) := none
  /-- ACC's tag at issue, for the fill -/
  sent : Nat := 0
  deriving DecidableEq, Repr

/-- The stash instructions (R254). -/
inductive StashOp where
  | spf | swb | sinv | sflush
  deriving DecidableEq, Repr

/-- Work of a context that is under way after its instruction retired (R21, R114, R228, R250). -/
inductive Job where
  /-- a result on its way to ACC, with the flags it writes and the FFLAGS it raises -/
  | fill (v : Word) (fs : FlagSet) (ff : FF)
  /-- TDESC's result on its way, with its flags, the trap enables at issue, its PC and its place in the order of issue (R110, R193) -/
  | leaf (v : Word) (ff traps : FF) (pc : Word) (order : Nat)
  /-- a load not yet performed: the operation, ACC at issue, and the elements (one, or MAC's two) -/
  | load (iss : Issuer) (op : AluOp) (acc : Word) (a : Elem ⊕ Word) (b : Option Elem)
  /-- a plain store to the DRAM window not yet performed: physical address and bytes -/
  | store (pa : Nat) (bytes : List Byte)
  /-- an atomic not yet performed at its home -/
  | atomic (r : AtomReq)
  /-- an atomic performed, its response not yet arrived (R253: across the spare link it can be lost) -/
  | atomicDone (r : AtomReq) (v : Word) (fs : FlagSet) (ff : FF)
  /-- an atomic refused at its home; the refusal not yet arrived (R252) -/
  | atomicRefused (r : AtomReq) (sub : Byte)
  /-- PGALLOC or PGFREE (R285) -/
  | page (iss : Issuer) (desc : Word) (free : Option (BitVec 32))
  /-- DBGRD's answer (R366) is a fill; SEIZE, SEIZE.ARM and RELEASE wait for the tiles named: the mask done so far -/
  | seize (arm rel : Bool) (todo done : Word) (block : Word)
  /-- PREEMPT and RESUME under way (R345, R347) -/
  | preempt (t : Loc) (area : Nat)
  | resume (area : Nat)
  /-- a DQREQ not yet served: op, value, quantum (R199, R200) -/
  | dqreq (op : Nat) (value : Word) (q : Nat)
  /-- a VOTE waiting for the others: index k, op, vote (R322) -/
  | vote (k : Nat) (op : Nat) (v : Word)
  /-- a stash instruction (R254) -/
  | stash (op : StashOp) (pa : Option Nat)
  /-- a Square request, by its number in State.square (R276) -/
  | square (req : Nat)
  deriving DecidableEq, Repr

/-- The operations of the vector queue (R138 to R149, R187). -/
inductive VOp where
  | mov | add | sub | mul | fma | fms | min | max | abs | neg | and | or | xor | shl | shr | sar
  | cmpeq | cmplt | cmple | sel | cvt | scale | redSum | redMax | redMin | redSsq | redAmax | redAmin | dot
  | rcp | rsq | rcpr | rsqr | exp2 | log2 | exp | bcast | iota | gath | scat | sqrt
  | msum | tsrch | tmass | tfind
  deriving DecidableEq, Repr

/-- An entry of a vector queue (R128). -/
structure VEntry where
  op : VOp
  d : Option Shape := none
  a : Option Shape := none
  b : Option Shape := none
  c : Option Shape := none
  /-- the governing mask, all ones for none -/
  mask : Word := allOnes
  zeroing : Bool := false
  mode : RMode := .rne
  sat : Bool := false
  ftz : Bool := false
  /-- trap enables in FFLAGS layout, zero under NOTRAP -/
  traps : FF := 0
  /-- ACC at issue (VBCAST, MSUM and its kin) -/
  acc : Word := 0
  /-- QSRD, QIDX and the Mint context as sampled (R101) -/
  qsrd : Nat := 0
  qidx : Nat := 0
  mint : Mint := {}
  /-- STHR, SLIM, VOCABN, VOCABP as sampled (R187) -/
  sthr : BitVec 32 := 0
  slim : Nat := 32
  vocabn : Nat := 0
  vocabp : Nat := 0
  /-- TMASS: the block, the number of leaves, and once its mass is formed the heap position, the mass there and the leaf's own
  mass, none of position when the climb is over (R192) -/
  block : Word := 0
  leaves : Nat := 0
  climb : Option (Option Nat × Nat × Nat) := none
  /-- the flags that a climb under way has raised (R110, R187) -/
  ff : FF := 0
  /-- VGATH and VSCAT: the checked indices of the active elements, in shape order (R149) -/
  idx : List Nat := []
  /-- the entry's number in order of issue, and among its context's unit instructions -/
  order : Nat := 0
  seq : Nat := 0
  iss : Issuer := {}
  deriving DecidableEq, Repr

/-- The operations of a matrix queue (R162 to R166). -/
inductive MOp where
  | mma | mmz | mmsub | mmst | mmld | mmmask
  deriving DecidableEq, Repr

/-- A mask store (R166); `none` when disabled. -/
structure MaskStore where
  flags : Nat
  rows : Nat
  tbase : Nat
  tlen : Nat
  /-- TREE and LAST of each row -/
  row : List (Word × BitVec 32)
  deriving DecidableEq, Repr

/-- An entry of a matrix queue (R167, R168). -/
structure MEntry where
  op : MOp
  bank : Nat
  a : Option Shape := none
  b : Option Shape := none
  mfmt : Word := 0
  mscla : Word := 0
  msclb : Word := 0
  mgeo0 : Word := 0
  mgeo1 : Word := 0
  msat : Word := 0
  msclo : Word := 0
  acc : Word := 0
  mode : RMode := .rne
  sat : Bool := false
  ftz : Bool := false
  traps : FF := 0
  qsrd : Nat := 0
  qidx : Nat := 0
  mint : Mint := {}
  vocabn : Nat := 0
  vocabp : Nat := 0
  store : Option MaskStore := none
  /-- the firmware's emulation of an absent path: operands are converted to bf16 (R176) -/
  emu : Bool := false
  order : Nat := 0
  seq : Nat := 0
  /-- the operand granules and lines leased (storage key / 32) (R169) -/
  lease : List Nat := []
  iss : Issuer := {}
  deriving DecidableEq, Repr

/-- What a wait at a boundary is under R200's quanta. -/
inductive WaitKind where
  /-- a wait that the quanta do not name -/
  | other
  /-- the participant is absent from the wait's start until its end -/
  | absent
  /-- a BARW, which says itself in which quantum the participant is present again -/
  | barw
  /-- a wait on an ACC that a DQREQ of a quantum fills -/
  | dq (q : Nat)
  /-- a wait that is not interruptible (R365) -/
  | hard
  deriving DecidableEq, Repr

/-- A context: one register bank's state (R15 to R43) and what it has under way. -/
structure Ctx where
  uid : Nat := 0
  kind : CtxKind := .dispatch
  place : Place := .dispatch false
  role : Role := .active
  bankIx : Bool := false
  tenant : Nat := 0
  launch : Nat := 0
  task : Nat := 0
  lr : Bool := false
  acc : Reg := {}
  p : Vector Reg 8 := Vector.replicate 8 {}
  k : Vector Reg 8 := Vector.replicate 8 {}
  pd : Vector PDesc 8 := Vector.replicate 8 {}
  pc : Word := 0
  flags : Flags := {}
  /-- the flags that wait for a slow access (R114) -/
  pend : Flags := {}
  prv : Priv := .m
  reflex : Bool := false
  det : Bool := false
  quantum : Nat := 0
  mixtrap : Bool := false
  fctl : Word := 0
  fflags : FF := 0
  fepol : BitVec 17 := 0
  gen : Gen := 1
  genrd : Vector Gen 3 := Vector.replicate 3 0
  gentrap : Bool := false
  defscope : R3 := 2
  esEn : Bool := false
  esWin : R3 := 0
  esPos : BitVec 6 := 0
  mfmt : Word := 0x70D0D
  mscla : Word := 0x807F
  msclb : Word := 0x807F
  mgeo0 : Word := 0x010101
  mgeo1 : Word := 0
  msat : Word := 0
  msclo : Word := 0x7F
  sthr : BitVec 32 := 0
  slim : BitVec 6 := 32
  vocabn : BitVec 32 := 0xFFFFFFFF
  vocabp : BitVec 32 := 0xFFFFFFFF
  qdim : BitVec 6 := 0
  qidx : BitVec 32 := 0
  qsrd : BitVec 6 := 0
  rank : Nat := 0
  nrank : Nat := 0
  stage : Nat := 0
  gie : Bool := false
  ien : BitVec 5 := 0
  ipend : BitVec 5 := 0
  tvec : Word := 0
  tscratch : Word := 0
  trap : TrapRegs := {}
  /-- the machine set of R378 -/
  mtrap : TrapRegs := {}
  supEntry : Option Word := none
  inHandler : Bool := false
  erec0 : Word := 0
  erec1 : Word := 0
  erec2 : Word := 0
  rbudget : Nat := 0
  /-- BUDGET is due; the grace left after it was taken (R386) -/
  budgetDue : Bool := false
  grace : Option Nat := none
  loops : List LoopLevel := []
  /-- index of the next repetition of the REP instruction at PC (R58) -/
  repi : Nat := 0
  /-- the completion targets that repetitions 0 of engine commands read from ACC, by address of the instruction (R260) -/
  engAcc : List (Word × Word) := []
  /-- BARW's arrival is made, and the phase it awaits (R321) -/
  wres : Bool := false
  wph : Bool := false
  mint : Mint := {}
  seeds : List Word := []
  /-- supervisor selectors (R267, R278, R329, R357, R417) -/
  sqsel : Word := 0
  esrsel : Word := 0
  evxsel : Word := 0
  chsel : Word := 0
  fpsel : Word := 0
  /-- the monitored granule, whether it has triggered and whether it is lost (R317) -/
  monitor : Option Nat := none
  monHit : Bool := false
  monLost : Bool := false
  /-- the instruction at PC waits; CYC of its first execution (R315, R318) -/
  stalled : Bool := false
  waitFrom : Option Nat := none
  waitKind : WaitKind := .other
  inMwait : Bool := false
  /-- a WFI has met its condition with GIE = 1: its interrupt is taken after it (R380) -/
  inWfi : Bool := false
  /-- the instruction at PC is an ESCOMMIT or ESABORT that waits (R283) -/
  inClose : Bool := false
  /-- cycles that the context has waited in MWAITs since the last spurious end of one (R318) -/
  spurious : Option Nat := none
  halted : Bool := false
  /-- the context is part of a task that PREEMPT froze (R345) -/
  frozen : Bool := false
  vq : List VEntry := []
  mq : List MEntry := []
  /-- the instruction that the firmware is to emulate, with its leases (R176) -/
  emu : Option MEntry := none
  /-- unit instructions queued so far, which number their entries -/
  unitSeq : Nat := 0
  jobs : List Job := []
  /-- the retry record of a lost atomic, and the sequence tag counter (R253) -/
  retry : Option AtomReq := none
  seqTag : BitVec 16 := 0
  /-- the home's last 16 results for the context: tag, result, Z, FFLAGS, and the refusal of a refused one (R253) -/
  homeRec : List (BitVec 16 × Word × FlagSet × FF) := []
  reports : List Report := []
  /-- pending BARRIER reports (R258, R322) -/
  barReps : List BarRep := []
  linkLost : Option (BitVec 16 × Word) := none
  /-- what FPX is due for, and the requests of completed entries: the window's number, flags, PC, order (R151); the CHECK
  stops not yet reported, by unit and PC (R392) -/
  fpx : List Word := []
  fpxReq : List (Nat × FF × Word × Nat) := []
  check : List (RUnit × Word) := []
  /-- the slot named by the most recent MBGET (R387) -/
  sqLast : Option Nat := none
  votes : Nat := 0
  colls : Nat := 0
  /-- retired instructions counted for DQREQ quanta (R200) -/
  retired : Nat := 0
  /-- the tiles this thread or task seized (R337) -/
  seized : Word := 0
  /-- the reservation base and size of the task (R291) -/
  spadBase : Nat := 0
  deriving DecidableEq, Repr

/-- Granule state: generation, full/empty, poison, the byte range of the last strong access, a barrier object's extra arrivals
(R211, R240, R257, R395). -/
structure Gran where
  tag : Gen := 0
  full : Bool := true
  poison : Bool := false
  strong : Option (Nat × Nat) := none
  /-- the granule is a barrier object with more arrivals than EXPECT: no phase completes until BINIT (R257) -/
  extra : Bool := false
  deriving DecidableEq, Repr

/-- The operations of engine commands (R259). -/
inductive EngOp where
  | cpy
  | cpym
  | gath
  | coll (op : BitVec 2)
  deriving DecidableEq, Repr

/-- The completion target of a command (R260); an object with its granule (storage key / 32). -/
inductive Target where
  | none
  | object (addr : Word) (key : Nat)
  | barrier (b : Nat)
  deriving DecidableEq, Repr

/-- A copy command (R222 to R225, R260 to R263). -/
structure Cmd where
  op : EngOp
  d : Shape
  a : Shape
  idx : Option Shape := none
  /-- CPYM's destination offsets i, ascending -/
  dests : List Nat := []
  iss : Issuer
  target : Target := .none
  /-- CYC at issue, and the promised time; none until an Interchange start -/
  issued : Nat := 0
  promise : Option Nat := none
  /-- cycles that the command takes after its start: 24 + ceil(B / rate) -/
  span : Nat := 24
  /-- started under its start source (R223) -/
  started : Bool := false
  /-- the output that starts it; none for immediate -/
  wait : Option Nat := none
  /-- fills done so far, in the order of their elements -/
  filled : Nat := 0
  /-- synchronising source granules that the command has marked empty (R260) -/
  drained : List Nat := []
  /-- credits beyond PEND were met (R258) -/
  overCredit : Bool := false
  sat : Bool := false
  /-- the destination granules and lines owned and not yet filled (storage key / 32), in the order of their fills (R241) -/
  todo : List Nat := []
  /-- the command's number, in order of issue -/
  num : Nat := 0
  /-- GATH: the rows of a that rows of d have taken, as their indices were read (R263) -/
  rows : List (Nat × Nat) := []
  /-- codes of a streaming source that have left the channel (R261) -/
  taken : Nat := 0
  deriving DecidableEq, Repr

/-- A copy channel (R222, R223, R357, R261). -/
structure Chan where
  active : Option Cmd := none
  shadow : Option Cmd := none
  src : Bool := false
  out : BitVec 4 := 0
  /-- the stream buffer: raw element codes (R261) -/
  stream : List Nat := []
  deriving DecidableEq, Repr

/-- A core's own state (R38, R299, R393, R394). -/
structure Core where
  vshare : Nat := 8
  deficit : Int := 0
  killed : Bool := false
  /-- sealed by SEAL (R396) -/
  sealed : Bool := false
  corrected : Nat := 0
  forced : Bool := false
  /-- the ranks that a kill ended on it: (launch record, rank) for KILL_RESTART (R397) -/
  ended : List (Nat × Nat) := []
  /-- granules that its stopped commands still own, with the commands' generations (R396) -/
  orphans : List (Nat × Gen) := []
  deriving DecidableEq, Repr

/-- An element of a matrix bank: 36 raw bits and the saturation bit (R155). -/
structure BCell where
  bits : BitVec 36 := 0
  sat : Bool := false
  deriving DecidableEq, Repr

/-- A matrix bank: rows of elements, missing ones zero; and its mask store (R155, R166). -/
structure Bank where
  rows : List (List BCell) := []
  store : Option MaskStore := none
  deriving DecidableEq, Repr

/-- A context image as read (R334). -/
structure Image where
  pc : Word := 0
  acc : Word := 0
  p : List Word := []
  k : List Word := []
  pstep : List (BitVec 32) := []
  ptype : List (BitVec 6) := []
  fctl : Word := 0
  defscope : R3 := 2
  sup : Bool := false
  pbase0 : Word := 0
  pspan0 : BitVec 32 := 0
  tvec : Word := 0
  seed : Option Word := none
  deriving DecidableEq, Repr

/-- An arming of a reason tile (R336). -/
structure Arming where
  launch : Nat
  tenant : Nat
  gen : Gen
  rank : Nat
  nrank : Nat
  sc : Image
  ic : Image
  deriving DecidableEq, Repr

/-- A retained tile (R304). -/
structure Retain where
  token : Word
  tenant : Nat
  gen : Gen
  since : Nat
  deriving DecidableEq, Repr

/-- The progress of a pre-emption on a tile (R345, R346). -/
structure Preempt where
  task : Nat
  area : Nat
  deriving DecidableEq, Repr

/-- A tile (R7, R155, R215, R221, R304, R336 to R342, R355, R362). -/
structure Tile where
  cores : Vector Core 2 := Vector.replicate 2 {}
  banks : Vector Bank 3 := Vector.replicate 3 {}
  chans : Vector Chan 8 := Vector.replicate 8 {}
  powered : Bool := false
  /-- the generation counter: the value handed out last, those ever handed out, those in use as the scrubber last saw them, and
  sweeps due (R362) -/
  genLast : Gen := 0
  everOut : List Gen := []
  genLive : List Gen := []
  sweeps : List Gen := []
  fillGen : Option Gen := none
  locked : Option Nat := none
  retain : Option Retain := none
  arming : Option Arming := none
  /-- the last tenant that armed the tile, and the last that used it (R365) -/
  lastArm : Option Nat := none
  lastTenant : Option Nat := none
  /-- CYC at the start of a reassignment's sweep, during which the tile is assigned to no tenant (R365) -/
  sweptFrom : Option Nat := none
  seizedBy : Option Nat := none
  /-- a release under way (R338); the re-arm of R339 -/
  releasing : Bool := false
  rearming : Bool := false
  held : Option Preempt := none
  machineEntry : Word := 0
  tlb : List (Nat × Nat × Nat × Nat) := []
  /-- the contexts with requests for FPX in the windows not yet closed, each with its window's number, floor(CYC / 64) (R151) -/
  fpWindow : List (Nat × Nat) := []
  deriving DecidableEq, Repr

/-- A launch record as read (R289). -/
structure LaunchRec where
  entry : Word := 0
  param : Word := 0
  stage : Nat := 0
  tiles : Nat := 1
  weight : Nat := 8
  prio : Nat := 0
  arr : Bool := false
  anyd : Bool := false
  dist : Nat := 0
  sup : Bool := false
  lr : Bool := false
  depth : Nat := 0
  geom : Word := 0x010101
  gen : Gen := 0
  barriers : BitVec 32 := 0
  spad : Nat := 0
  retain : Word := 0
  seedv : Word := 0
  seedops : List Byte := []
  deriving DecidableEq, Repr

/-- A queued record (R295 to R297). -/
structure Queued where
  num : Nat
  lrec : LaunchRec
  tenant : Nat
  seeds : List Word := []
  enq : Nat
  /-- cycles that AGING has stepped the record past (R296) -/
  aged : Nat := 0
  /-- a root launch made by the dispatch firmware, with its tag or record address (R293) -/
  root : Option Word := none
  /-- only this rank, for KILL_RESTART (R397) -/
  only : Option Nat := none
  /-- DSIG's mark: the contexts start with IPEND.KICK = 1 (R438) -/
  marked : Bool := false
  deriving DecidableEq, Repr

/-- A rank-table entry (R288, R303): the tile, whether it is in transit, and whether its task has ended. -/
structure RankEntry where
  tile : Loc
  transit : Bool := false
  ended : Bool := false
  /-- a kill of a core ended the rank's task; it can be started again (R397) -/
  killed : Bool := false
  deriving DecidableEq, Repr

/-- A bound launch (R287, R322, R264, R198). -/
structure Launch where
  num : Nat
  lrec : LaunchRec
  tenant : Nat
  ranks : List RankEntry
  det : Bool := false
  quantum : Nat := 0x1000
  mixtrap : Bool := false
  root : Option Word := none
  seeds : List Word := []
  /-- votes cast by strands whose contexts are gone: number, op, value (R322) -/
  cast : List (Nat × Nat × Word) := []
  deriving DecidableEq, Repr

/-- A tile task (R287, R300, R304). -/
structure Task where
  num : Nat
  launch : Nat
  rank : Nat
  tile : Loc
  gen : Gen
  sems : Vector Nat 16 := Vector.replicate 16 0
  scHalted : Bool := false
  icHalted : Bool := false
  /-- the last HALT: its retain token, CYC, and the strand's GEN (R304) -/
  token : Option Word := none
  haltAt : Nat := 0
  lastGen : Gen := 0
  /-- its strands are on their way to its tile (R303, R347) -/
  moving : Bool := false
  deriving DecidableEq, Repr

/-- A COLL waiting for its partners (R264): launch, core role, k, rank and the command's context. -/
structure Coll where
  launch : Nat
  ic : Bool
  k : Nat
  rank : Nat
  op : BitVec 2
  d : Shape
  a : Shape
  iss : Issuer
  target : Target
  sat : Bool
  /-- the trap enables of FCTL at issue (R110) -/
  traps : FF := 0
  num : Nat
  /-- the destination granules owned (storage key / 32) -/
  todo : List Nat := []
  /-- over-credits were met (R258) -/
  overCredit : Bool := false
  deriving DecidableEq, Repr

/-- A numbered barrier (R320). -/
structure Barrier where
  phase : Bool := false
  err : Bool := false
  expect : Nat := 0
  arrived : Nat := 0
  pend : Nat := 0
  /-- the launch that holds the grant -/
  grant : Option Nat := none
  /-- the highest quantum in which a member of the phase under way, and of the phase before it, arrived (R200) -/
  quantum : Nat := 0
  lastQuantum : Nat := 0
  deriving DecidableEq, Repr

/-- An Interchange's elements (R327 to R330), each word as EVXDAT lays it out. -/
structure Interchange where
  taps : Vector Word 32 := Vector.replicate 32 0
  timers : Vector Word 8 := Vector.replicate 8 0
  /-- floor(clock / PERIOD) at the timer's last tick -/
  timerQ : Vector Nat 8 := Vector.replicate 8 0
  counters : Vector Word 32 := Vector.replicate 32 0
  terms : Vector Word 32 := Vector.replicate 32 0
  outputs : Vector Word 16 := Vector.replicate 16 0
  owner : Word := 0
  /-- signals that have pulsed and not yet reached counters and latches (R328), and those that pulse in the next cycle (R324) -/
  pulses : List (BitVec 7) := []
  soon : List (BitVec 7) := []
  /-- terms that have completed and pulse in the next cycle, with the outputs that name them then (R328) -/
  done : List Nat := []
  /-- outputs due to pulse (R328) -/
  outs : List (BitVec 4) := []
  deriving DecidableEq, Repr

/-- A task queue (R198): its launch, its entries, and waiting requests (R199, R200). -/
structure TaskQueue where
  launch : Nat
  entries : List Word := []
  /-- the number of quanta that have closed (R200) -/
  closed : Nat := 0
  deriving DecidableEq, Repr

/-- A district (R295 to R298, R320, R327, R198, R355). -/
structure District where
  queue : List Queued := []
  vtime : Vector Nat 16 := Vector.replicate 16 0
  barriers : Vector Barrier 32 := Vector.replicate 32 {}
  evx : Interchange := {}
  dq : List TaskQueue := []
  tlb : List (Nat × Nat × Nat × Nat) := []
  deriving DecidableEq, Repr

/-- A tenant's table entry and registers (R196, R240, R349, R352, R412). -/
structure Tenant where
  rfx : BitVec 16 := 0
  sqen : Bool := false
  sqlast : Nat := 0
  sqfirst : Nat := 0
  escw : BitVec 8 := 0
  ptbase : Word := 0
  detmode : Word := 0
  quantum : Nat := 0x1000
  mixtrap : Bool := false
  admitted : Bool := false
  /-- the registered graph-control record (R293, R412) -/
  graph : Option Word := none
  deriving DecidableEq, Repr

/-- A version of a slot (R271). -/
structure Version where
  num : Word
  stamp : Word
  wrank : BitVec 32
  flags : BitVec 32
  payload : List Byte
  deriving DecidableEq, Repr

/-- A Square slot (R267 to R269): the buffers in use hold versions; `pins` names the reads that hold a buffer. -/
structure Slot where
  num : Nat
  valid : Bool := false
  mirror : Bool := false
  nospace : Bool := false
  tenant : Nat := 0
  size : Nat := 0
  read : Byte := 0
  writer : Byte := 0
  count : Word := 0
  latest : Option Nat := none
  bufs : List (Nat × Version) := []
  pins : List Nat := []
  /-- the publication that is filling a buffer -/
  writing : Option Nat := none
  deriving DecidableEq, Repr

/-- The kinds of Square requests (R273 to R275). -/
inductive SqKind where
  | pub (addr : Word) (count : Nat) (uf : BitVec 16)
  | get (addr : Word)
  | info (sel : BitVec 2)
  deriving DecidableEq, Repr

/-- A Square request (R270, R276). -/
structure SqReq where
  num : Nat
  uid : Nat
  slot : Nat
  kind : SqKind
  iss : Issuer
  /-- the port is granted, with the buffer chosen or pinned, and the version that a get copies or a publication makes -/
  granted : Bool := false
  buf : Option Nat := none
  got : Option Version := none
  payload : List Byte := []
  /-- the granules that an MBGET owns and that an MBPUB leases (storage key / 32) (R273, R274) -/
  own : List Nat := []
  lease : List Nat := []
  /-- the refusal's subcode, when the request is refused -/
  refused : Option Byte := none
  /-- the failing address, or 0 (R381) -/
  failAt : Word := 0
  /-- the slot's counter and MIRROR when its VALID was cleared under a publication that held a port (R268) -/
  cleared : Option (Word × Bool) := none
  deriving DecidableEq, Repr

/-- A pool entry of an escrow window (R280). -/
structure EscEntry where
  pos : Nat
  /-- the virtual line (va / 32) and the physical line it was translated to -/
  vline : Nat
  pline : Nat
  /-- the bytes written: (offset, value), rising offsets -/
  bytes : List (Nat × Byte)
  deriving DecidableEq, Repr

/-- An escrow window (R278, R279). -/
structure EscWin where
  open_ : Bool := false
  joined : Nat := 0
  tenant : Nat := 0
  quota : Nat := 0x8000
  rbase : Vector Word 4 := Vector.replicate 4 0
  rlen : Vector Nat 4 := Vector.replicate 4 0
  entries : List EscEntry := []
  deriving DecidableEq, Repr

/-- A capability region as the directory holds it (R201). -/
structure CapRegion where
  tenant : Nat
  index : Nat
  base : Nat
  len : Nat
  holder : BitVec 8
  flags : BitVec 8 := 0
  /-- a handover on its way to the new holder (R203) -/
  moving : Option (BitVec 8) := none
  deriving DecidableEq, Repr

/-- A waiter in a first-come queue: a synchronising access on a granule, or SEMP (R113, R323). -/
structure Waiter where
  uid : Nat
  /-- granule key, or task and semaphore -/
  key : Nat
  sem : Bool := false
  store : Bool := false
  deriving DecidableEq, Repr

/-- A receive class or the transmit ring of a field port (R417, R418). -/
structure Ring where
  words : Vector Word 4 := Vector.replicate 4 0
  started : Bool := false
  pos : Nat := 0
  seq : Nat := 0
  drops : Nat := 0
  deriving DecidableEq, Repr

/-- An injector of the spare link (R398, R399). -/
structure Injector where
  sel : Word := 0
  dat : Word := 0
  armed : Bool := false
  fired : Bool := false
  /-- flits sent since it was armed (R399) -/
  seen : Nat := 0
  deriving DecidableEq, Repr

/-- A dispatch core's block (R400, R404, R438). -/
structure DispCore where
  alive : Bool := true
  vshare : Nat := 8
  dsigHit : Nat := 0
  deriving DecidableEq, Repr

/-- What was saved into an opaque block: the bytes written and what they stand for (R344, R368). -/
structure Saved where
  /-- the storage keys of the block's bytes at saving, first key and bytes -/
  key : Nat
  bytes : List Byte
  tenant : Nat
  tile : Loc
  task : Nat
  ctxs : List Ctx
  banks : List Bank := []
  taskRec : Option Task := none
  /-- the SPAD image of a pre-emption: granule states and bytes -/
  spad : List (Gran × List Byte) := []
  deriving DecidableEq, Repr

/-- A vector of an MSI-X table: address, data, mask (R389, R408; log entry 116). -/
structure MsixVec where
  addr : Word := 0
  data : BitVec 32 := 0
  masked : Bool := true
  deriving DecidableEq, Repr

/-- A host function's eight vectors and its pending bits (R389, R408). -/
structure MsixFn where
  table : Vector MsixVec 8 := Vector.replicate 8 {}
  pending : BitVec 8 := 0
  deriving DecidableEq, Repr

/-- What the surroundings and the units' own timing do next (log entry 11). -/
inductive Input where
  /-- an event row, with what State.pick names for it -/
  | event (pick : Nat) (i : Instr)
  /-- the context that moves next -/
  | select (uid : Nat)
  /-- main-clock cycles pass -/
  | tick (n : Nat)
  /-- whether accesses to DRAM or another tile are long-latency from now on -/
  | slow (b : Bool)
  /-- a sector's line leaves the L2: monitors on it and the record of its last strong access are lost (R240, R317) -/
  | evict (sector : Nat)
  /-- a tile's or a district's TLB replaces an entry (R355) -/
  | forget (district : Bool) (n i : Nat)
  /-- the host writes a vector of a function's MSI-X table (R408) -/
  | msixWrite (fn : Nat) (vec : R3) (v : MsixVec)
  /-- flits leave on the link of the injector of this place in State.injectors (R399) -/
  | flits (k n : Nat)
  /-- the firmware's handler ends the emulation of an absent matrix path by the moving context (R176) -/
  | emulate
  deriving DecidableEq, Repr

/-- A trace record that is due to be written (R422). -/
structure EwRec where
  cyc : Nat
  ns : Int
  ty : Nat
  tenant : Option Nat
  coord : BitVec 8
  /-- the barrier or slot number, TCAUSE and PC -/
  num : Nat := 0
  cause : Word := 0
  pc : Word := 0
  deriving DecidableEq, Repr

/-- A record of the boot journal (R406): 4 bits for each step, the attempt's number, the clock in MHz. -/
def bootRecord (codes attempt mhz : Nat) : List Byte :=
  (List.range 8).map (fun i => BitVec.ofNat 8 (codes / 256 ^ i)) ++ (List.range 4).map (fun i => BitVec.ofNat 8 (attempt / 256 ^ i)) ++
    (List.range 4).map fun i => BitVec.ofNat 8 (mhz / 256 ^ i)

/-- The module (R7). -/
structure State where
  /-- the context that moves -/
  c : Ctx := {}
  others : List Ctx := []
  /-- the next number for a context, launch, task, request or command -/
  next : Nat := 2
  /-- all storage, in canonical form: DRAM, the tiles' storage and the dispatch cores' local memory -/
  mem : List Host.Cell := []
  /-- granule and sector states that are not the default, by key / 32, rising -/
  grans : List (Nat × Gran) := []
  tiles : List Tile := List.replicate 64 {}
  districts : List District := List.replicate 8 {}
  /-- array queues and virtual times: reason, reflex (R295, R297) -/
  arrayQ : Vector (List Queued) 2 := Vector.replicate 2 []
  arrayV : Vector (Vector Nat 16) 2 := Vector.replicate 2 (Vector.replicate 16 0)
  launches : List Launch := []
  tasks : List Task := []
  colls : List Coll := []
  waiters : List Waiter := []
  tenants : List Tenant := List.replicate 16 {}
  /-- TENANT.TID's selection of each dispatch core (R349) -/
  tid : Nat := 0
  slots : List Slot := []
  square : List SqReq := []
  escrow : List EscWin := List.replicate 8 {}
  pcap : Nat := 131072
  caps : List CapRegion := []
  /-- the units that the part has and its strap SPSEC, laid out as CAPS: what CAPS reads after a boot all of whose steps pass (R1, R7,
  R11, R414) -/
  board : Word := 0x0020_4064_6200_03F0
  /-- module control registers -/
  capsReg : Word := 0x0020_4064_6200_03F0
  devid : Word := 0xC1E5_3260_0100_0000
  cyc : Nat := 0
  /-- reference ticks since module reset, and the discipline's offset in nanoseconds once there is one (R40, R419) -/
  refTicks : Nat := 0
  /-- thirtieths of a reference tick beyond them: a main clock cycle is 1, 7/6, 7/5 or 2 ticks long (R40, R424) -/
  refFrac : Nat := 0
  timeOff : Int := 0
  /-- reference ticks at the last slew (R419) -/
  slewAt : Nat := 0
  chkcfg : Word := 3
  injsel : Word := 0
  injectors : List Injector := []
  own : Byte := 0
  succ : Byte := 0
  epoch : BitVec 16 := 0
  left : BitVec 32 := 0
  leaseCyc : Nat := 0
  jrnlMir : Bool := false
  jrnlCkpt : Nat := 0
  jrnlHead : Nat := 0
  jrnlSeq : Nat := 0
  kickNext : Nat := 0
  kicks : Word := 0
  fifo : List Word := []
  seizecfg : Word := 0
  launchTags : List Word := []
  /-- graph-control tasks that the firmware is still to start after a failover: the tenant and the record's address (R405, R441; log
  entry 123) -/
  rootsDue : List (Nat × Word) := []
  disp : Vector DispCore 2 := Vector.replicate 2 {}
  /-- the dispatch core in charge is the standby (R404) -/
  standbyLeads : Bool := false
  pwrmode : Word := 0x690001
  temp : Word := 0
  ewbase : Word := 0
  ewctl : Word := 0x0C00_FFFF_0000_3FFE
  ewhead : Nat := 0
  ewtail : Nat := 0
  ewdrop : Nat := 0
  /-- records on their way to the ring, oldest first -/
  ewq : List EwRec := []
  /-- DARG, DSTAT, and the argument of the device command under way (R410, R411) -/
  darg : Word := 0
  dstat : Word := 0
  dcmdArg : Word := 0
  /-- MSTAT of each master, by its identity; masters not listed read 0 (R410) -/
  mstat : List (Nat × Word) := []
  smbPtr : Nat := 0
  smbOut : List Byte := []
  /-- the ACTIVE pin, and CYC from which the module may assert it (R405, R414) -/
  active : Bool := false
  activeFrom : Nat := 1024
  altImage : Option (List Byte) := none
  /-- the number of the last boot attempt, the attempts since power came on, whether boot has ended, the clock step that it
  set, and the 8 records of its journal (R406, log entry 9) -/
  boots : Nat := 1
  bootTries : Nat := 1
  booted : Bool := true
  bootStep : Nat := 0
  bootJrnl : List Byte := bootRecord 0x1111_1111_1111_1111 1 1400 ++ List.replicate 112 0
  rings : List Ring := List.replicate 10 {}
  /-- MSI-X messages sent: function and vector; and each function's table and pending bits, the virtual functions' and as 16 the
  physical function's (R389, R408) -/
  msix : List (Nat × Nat) := []
  msixFns : List MsixFn := List.replicate 17 {}
  /-- versions and journal records sent across the spare link (R277, R401) -/
  mirrored : List (Nat × Version) := []
  mirrorOut : List (List Byte) := []
  /-- frames transmitted (R418): port and frame -/
  sent : List (Bool × List Byte) := []
  /-- the timestamp unit's last event frame: port and time (R416) -/
  ptp : Option (Bool × Int) := none
  saved : List Saved := []
  clockStep : Nat := 0
  powered : Bool := true
  /-- the MODEL'S OWN: what happens next, which of several an event concerns, whether accesses are slow, and the counter
  that free values are applied to (log entries 11, 12) -/
  inputs : List Input := []
  pick : Nat := 0
  slow : Bool := false
  steps : Nat := 0
  deriving DecidableEq, Repr

/-- The machine right after module reset and boot: the two dispatch cores, the primary moving (log entries 2, 3). -/
def State.reset : State :=
  { others := [{ uid := 1, place := .dispatch true, halted := true }] }

end Sys2Proof.Machine
end

