-- ==== Sys2Proof/Machine/Ops.lean ====
section
/-! DEFINITION. The shared operations: storage in canonical form, registers under their tags (R22 to R24), the monad of an
instruction's meaning, taking a trap (R376 to R378) and completing an instruction (R310). -/

namespace Sys2Proof

/-- A tile's index: reason tiles 0 to 47, reflex tiles 48 to 63 (R7). -/
def Loc.idx (t : Loc) : Nat := (if t.arr then 48 else 0) + t.dist * 8 + t.tile
/-- The tile of an index. -/
def Loc.ofIdx (i : Nat) : Loc := if i < 48 then ⟨false, i / 8, i % 8⟩ else ⟨true, (i - 48) / 8, i % 8⟩

/-- The number of words of a chain with its instruction word. -/
def Pre.len (g : Bool) (p : Pre) : Nat := p.count g + b2n p.v.isSome + 1

/-- REP's addition to a field that STEP bit `b` names (R57). -/
def Pre.stepAdd (p : Pre) (b : Nat) (i : Nat) : Nat :=
  match p.rep with
  | none => 0
  | some r => if r.step.getLsbD b then i else 0

end Sys2Proof

namespace Sys2Proof.Machine

/-! Lists of keyed data with rising keys and no default entry. -/

/-- The value at a key; `d` where none is listed. -/
def kvGet {α : Type} (d : α) : List (Nat × α) → Nat → α
  | [], _ => d
  | (a, x) :: r, k => if a = k then x else kvGet d r k

/-- The list with the value `v` at the key, the default being left out. -/
def kvSet {α : Type} [DecidableEq α] (d : α) : List (Nat × α) → Nat → α → List (Nat × α)
  | [], k, v => if v = d then [] else [(k, v)]
  | (a, x) :: r, k, v =>
    if a < k then (a, x) :: kvSet d r k v
    else if a = k then (if v = d then r else (k, v) :: r)
    else (if v = d then (a, x) :: r else (k, v) :: (a, x) :: r)

/-- Keys rise from above `lo`, and no entry is the default. -/
def kvWfFrom {α : Type} [DecidableEq α] (d : α) : Option Nat → List (Nat × α) → Bool
  | _, [] => true
  | lo, (a, x) :: r => (match lo with
      | none => true
      | some l => decide (l < a)) && decide (x ≠ d) && kvWfFrom d (some a) r

/-- The canonical form. -/
def kvWf {α : Type} [DecidableEq α] (d : α) (l : List (Nat × α)) : Bool := kvWfFrom d none l

/-- What an address that is not listed reads as: zero (R211 for the tiles' storage; log entry 10 for DRAM, 7 for a
dispatch core's local memory). -/
def memDefault : Byte := 0

/-- A byte of storage. -/
def Mem.byte (m : List Host.Cell) (k : Nat) : Byte := kvGet memDefault m k
/-- Storage with one byte written. -/
def Mem.setByte (m : List Host.Cell) (k : Nat) (b : Byte) : List Host.Cell := kvSet memDefault m k b
/-- The memory's canonical form: addresses strictly rising, no entry equal to what an unlisted address reads as. -/
def Memory.wf (m : List Host.Cell) : Bool := kvWf memDefault m

/-- `n` bytes from a key on. -/
def Mem.bytes (m : List Host.Cell) (k : Nat) : Nat → List Byte
  | 0 => []
  | n + 1 => Mem.byte m k :: Mem.bytes m (k + 1) n

/-- Storage with bytes written from a key on. -/
def Mem.write (m : List Host.Cell) (k : Nat) : List Byte → List Host.Cell
  | [] => m
  | b :: bs => Mem.write (Mem.setByte m k b) (k + 1) bs

/-- Storage with the keys from `lo` up to `hi` cleared. -/
def Mem.clear (m : List Host.Cell) (lo hi : Nat) : List Host.Cell := m.filter fun c => c.1 < lo || hi ≤ c.1

/-! Places in storage. -/

/-- A district's index: reason 0 to 5, reflex 6 and 7. -/
def distIdx (arr : Bool) (d : Nat) : Nat := if arr then 6 + d else d

/-- The storage key of a byte of a tile's storage, of DRAM, and of a dispatch core's local memory. -/
def tileKey (t : Loc) (off : Nat) : Nat := 2 ^ 60 + t.idx * 2 ^ 24 + off
def dramKey (pa : Nat) : Nat := pa
def dispKey (standby : Bool) (off : Nat) : Nat := 2 ^ 61 + b2n standby * 2 ^ 24 + off

/-- The size of a tile's storage (R7). -/
def tileSize (t : Loc) : Nat := if t.arr then 0x24_0000 else 0x18_0000

/-- A granule's or sector's state, by key / 32. -/
def State.gran (s : State) (g : Nat) : Gran := kvGet {} s.grans g
/-- The state with one granule changed. -/
def State.setGran (s : State) (g : Nat) (x : Gran) : State := { s with grans := kvSet {} s.grans g x }

/-- A tile. -/
def State.tile (s : State) (t : Loc) : Tile := s.tiles.getD t.idx {}
/-- The state with one tile changed. -/
def State.setTile (s : State) (t : Loc) (x : Tile) : State := { s with tiles := s.tiles.set t.idx x }
/-- A district. -/
def State.district (s : State) (i : Nat) : District := s.districts.getD i {}
/-- The state with one district changed. -/
def State.setDistrict (s : State) (i : Nat) (x : District) : State := { s with districts := s.districts.set i x }
/-- A tenant. -/
def State.tenant (s : State) (t : Nat) : Tenant := s.tenants.getD t {}
/-- The state with one tenant changed. -/
def State.setTenant (s : State) (t : Nat) (x : Tenant) : State := { s with tenants := s.tenants.set t x }
/-- An escrow window. -/
def State.win (s : State) (w : Nat) : EscWin := s.escrow.getD w {}
/-- The state with one escrow window changed. -/
def State.setWin (s : State) (w : Nat) (x : EscWin) : State := { s with escrow := s.escrow.set w x }

/-- Every context of the module. -/
def State.ctxs (s : State) : List Ctx := s.c :: s.others
/-- The contexts changed by `f`. -/
def State.mapCtx (s : State) (f : Ctx → Ctx) : State := { s with c := f s.c, others := s.others.map f }
/-- The context of a number. -/
def State.ctxOf (s : State) (uid : Nat) : Option Ctx := s.ctxs.find? fun c => c.uid = uid
/-- The state with the context of a number changed. -/
def State.updCtx (s : State) (uid : Nat) (f : Ctx → Ctx) : State := s.mapCtx fun c => if c.uid = uid then f c else c
/-- The context of a number becomes the one that moves. -/
def State.select (s : State) (uid : Nat) : State :=
  if s.c.uid = uid then s
  else match s.others.find? (fun c => c.uid = uid) with
    | none => s
    | some c => { s with c := c, others := s.others.filter (fun x => x.uid ≠ uid) ++ [s.c] }

/-- The launch of a number, the task of a number. -/
def State.launchOf (s : State) (n : Nat) : Option Launch := s.launches.find? fun l => l.num = n
def State.taskOf (s : State) (n : Nat) : Option Task := s.tasks.find? fun t => t.num = n
def State.updTask (s : State) (n : Nat) (f : Task → Task) : State :=
  { s with tasks := s.tasks.map fun t => if t.num = n then f t else t }
def State.updLaunch (s : State) (n : Nat) (f : Launch → Launch) : State :=
  { s with launches := s.launches.map fun l => if l.num = n then f l else l }

/-- A fresh number. -/
def State.fresh (s : State) : Nat × State := (s.next, { s with next := s.next + 1 })

/-! CAPS (R11). -/

def State.reas (s : State) : Nat := bits s.capsReg 31 28
def State.refx (s : State) : Nat := bits s.capsReg 27 24
def State.dramBytes (s : State) : Nat := bits s.capsReg 47 40 * 2 ^ 30
def State.spare (s : State) : Bool := bit s.capsReg 8
/-- The tile is present under CAPS. -/
def State.hasTile (s : State) (t : Loc) : Bool :=
  decide (t.tile < 8) && decide (t.dist < if t.arr then s.refx else s.reas)
/-- The tiles of an array, in ascending (district, tile) order. -/
def State.tilesOf (s : State) (arr : Bool) : List Loc :=
  (List.range ((if arr then s.refx else s.reas) * 8)).map fun i => ⟨arr, i / 8, i % 8⟩

/-! Contexts. -/

/-- The tile of a context. -/
def Ctx.loc (c : Ctx) : Option Loc :=
  match c.place with
  | .dispatch _ => none
  | .tile t _ => some t
/-- The context runs on a dispatch core. -/
def Ctx.isDisp (c : Ctx) : Bool :=
  match c.place with
  | .dispatch _ => true
  | .tile _ _ => false
/-- The context's core role: true for issuing. -/
def Ctx.isIc (c : Ctx) : Bool :=
  match c.place with
  | .dispatch _ => false
  | .tile _ ic => ic
/-- The kind of core that decodes for the context. -/
def Ctx.core (c : Ctx) : CoreKind :=
  match c.place with
  | .dispatch _ => .dispatch
  | .tile _ ic => if ic then .issuing else .staging
/-- The context is a seizure guest. -/
def Ctx.isGuest (c : Ctx) : Bool := c.kind = .guest
/-- The context is a reflex thread. -/
def Ctx.isThread (c : Ctx) : Bool :=
  match c.kind with
  | .thread _ _ _ => true
  | _ => false
/-- The context runs on a reflex tile. -/
def Ctx.onReflex (c : Ctx) : Bool :=
  match c.place with
  | .dispatch _ => false
  | .tile t _ => t.arr
/-- The index of the context's district. -/
def Ctx.dist (c : Ctx) : Nat :=
  match c.place with
  | .dispatch _ => 0
  | .tile t _ => distIdx t.arr t.dist

/-- PRV's code (R17). -/
def Priv.code : Priv → Nat
  | .u => 0
  | .s => 1
  | .m => 3
/-- PRV from a code; 10 is never held (R17, R379). -/
def Priv.ofCode (n : Nat) : Priv := if n = 1 then .s else if n = 3 then .m else .u
/-- At least S. -/
def Priv.isSup (p : Priv) : Bool := p ≠ .u

/-- STATUS (R17). -/
def Ctx.status (c : Ctx) : Word :=
  w64 (b2n c.isGuest * 2 ^ 15 + b2n c.reflex * 2 ^ 14 + c.loops.length * 2 ^ 12 + b2n c.det * 2 ^ 11 + b2n c.bankIx * 2 ^ 10 +
    c.prv.code * 2 ^ 8 + b2n c.flags.n * 8 + b2n c.flags.z * 4 + b2n c.flags.c * 2 + b2n c.flags.v)

/-- The context with N, Z, C, V taken from bits 3:0. -/
def Ctx.setFlags4 (c : Ctx) (w : Word) : Ctx := { c with flags := ⟨bit w 3, bit w 2, bit w 1, bit w 0⟩ }

/-- The identity of the context's accesses at a scope (R231, R361). -/
def Ctx.issuer (c : Ctx) (scope : R3) : Issuer :=
  { uid := c.uid, kind := c.kind, place := c.place, tenant := c.tenant, launch := c.launch, task := c.task, rank := c.rank
    nrank := c.nrank, gen := c.gen, genrd := c.genrd.toList.filter (fun g => g ≠ 0), gentrap := c.gentrap, prv := c.prv
    scope := scope, esc := if c.esEn then some (c.esWin.toNat, c.esPos.toNat) else none, det := c.det, mixtrap := c.mixtrap
    pc := c.pc }

/-- The scope of an instruction: PFX.M's, otherwise DEFSCOPE (R53). -/
def Ctx.scopeOf (c : Ctx) (p : Pre) : R3 :=
  match p.m with
  | some m => m.scope
  | none => c.defscope

/-! The meaning of an instruction: a state, or a reason to stop at its boundary. -/

/-- Why an instruction does not complete. -/
inductive Stop where
  /-- a trap, precise: nothing has happened (R375) -/
  | trap (cause : Byte) (val : Word) (sub : Byte)
  /-- it waits at its boundary, with no effect (R22, R315); the place in a queue that it has from its arrival -/
  | wait (w : Option Waiter) (k : WaitKind)
  /-- it stays at its boundary with an effect made (R321) -/
  | hold (s : State)
  /-- a trap at the instruction in a state where a report has been taken up (R225, R384) -/
  | after (s : State) (cause : Byte) (val : Word) (sub : Byte)
  deriving Repr

/-- An instruction's meaning. -/
abbrev M := StateT State (Except Stop)

/-- A precise trap. -/
def raise {α : Type} (cause : Byte) (val : Word) : M α := throw (.trap cause val 0)
/-- A wait at the boundary. -/
def wait {α : Type} : M α := throw (.wait none .other)
/-- A trap where the condition holds. -/
def raiseIf (b : Bool) (cause : Byte) (val : Word) : M Unit := if b then raise cause val else pure ()
/-- A wait where the condition holds. -/
def waitIf (b : Bool) : M Unit := if b then wait else pure ()
/-- A wait of which R200 says that the participant is absent. -/
def waitAbsent (b : Bool) : M Unit := if b then throw (.wait none .absent) else pure ()

/-- Trap causes (R381). -/
def cILLEGAL : Byte := 0x01
def cPRIV : Byte := 0x02
def cFEEMPTY : Byte := 0x03
def cGENFAULT : Byte := 0x04
def cXLATE : Byte := 0x05
def cACCESS : Byte := 0x06
def cALIGN : Byte := 0x07
def cSHAPE : Byte := 0x08
def cFPX : Byte := 0x09
def cPROMISE : Byte := 0x0A
def cESFULL : Byte := 0x0B
def cCAPFAULT : Byte := 0x0C
def cDETATOM : Byte := 0x0D
def cMIXED : Byte := 0x0E
def cLOOPDEPTH : Byte := 0x0F
def cSEEDSTK : Byte := 0x10
def cQTAB : Byte := 0x11
def cFMTEMU : Byte := 0x12
def cPOISON : Byte := 0x13
def cLINKLOST : Byte := 0x14
def cREFLEXDRAM : Byte := 0x15
def cCHECK : Byte := 0x16
def cENGINE : Byte := 0x17
def cTRAPI : Byte := 0x18
def cSVC : Byte := 0x19
def cMCHK : Byte := 0x1A
def cBARRIER : Byte := 0x1B
def cWINDOW : Byte := 0x1C
def cBUDGET : Byte := 0x1D

/-- The classes of R377. -/
inductive CauseClass where
  | stay
  | rise
  | machine
  deriving DecidableEq, Repr

/-- A cause's class (R381); MCHK runs no handler on its core and does not come here. -/
def causeClass (cause : Byte) : CauseClass :=
  if cause = cPRIV || cause = cSVC then .rise
  else if cause = cFMTEMU || cause = cCHECK then .machine
  else .stay

/-- TSTAT at entry (R376). -/
def tstatWord (c : Ctx) (repv : Bool) : Word :=
  w64 (b2n c.gie * 2 ^ 63 + b2n repv * 2 ^ 62 + b2n c.wres * 2 ^ 61 + b2n (c.wres && c.wph) * 2 ^ 60 +
    (if repv then c.repi % 2 ^ 42 else 0) * 2 ^ 16 + c.status.toNat % 2 ^ 16)

/-- The machine entry of the context's tile (R378). -/
def State.machineEntry (s : State) (c : Ctx) : Word :=
  match c.place with
  | .dispatch _ => 0
  | .tile t _ => (s.tile t).machineEntry

/-- TIMENS (R40): floor(ticks × 5 / 7), with the discipline's offset once there is one. -/
def State.timeNs (s : State) : Int := (s.refTicks * 5 / 7 : Nat) + s.timeOff

/-- A trace record of a TYPE with its number, TCAUSE and PC, kept when EWCTL enables it (R422, R423). -/
def State.trace (s : State) (ty : Nat) (tenant : Option Nat) (coord : Option (BitVec 8)) (num : Nat := 0) (cause : Word := 0)
    (pc : Word := 0) : State :=
  if bit s.ewctl 63 && (bit s.ewctl ty || ty = 13) && (match tenant with
    | none => true
    | some t => bit s.ewctl (32 + t))
  then
    { s with
      ewq := s.ewq ++ [{ cyc := s.cyc, ns := s.timeNs, ty := ty, tenant := tenant, coord := coord.getD 0, num := num, cause := cause, pc := pc }] }
  else s

/-- A core in COORD's bits 12:5 (R201). -/
def coreCode (t : Loc) (ic : Bool) : BitVec 8 := BitVec.ofNat 8 (b2n t.arr * 128 + t.dist * 16 + t.tile * 2 + b2n ic)

/-- The core of a place; a dispatch core has no coordinate. -/
def Place.code : Place → Option (BitVec 8)
  | .dispatch _ => none
  | .tile t ic => some (coreCode t ic)

/-- A trace record of a context at its PC. -/
def State.traceCtx (s : State) (ty : Nat) (c : Ctx) (num : Nat := 0) (cause : Word := 0) : State :=
  s.trace ty (if c.isDisp then none else some c.tenant) c.place.code num cause c.pc

/-- The lowest quantum of the context's launch in its district that has not closed (R200). -/
def State.openQuantum (s : State) (c : Ctx) : Option Nat :=
  ((s.district c.dist).dq.find? fun q => q.launch = c.launch).map fun q => q.closed

/-- A context's wait ends: a participant that was absent is present again in the lowest open quantum (R200). -/
def State.rejoined (s : State) (c : Ctx) : Ctx :=
  if c.det && c.stalled && c.waitKind = .absent then
    match s.openQuantum c with
    | some q => if c.retired / c.quantum = q then c else { c with retired := q * c.quantum }
    | none => c
  else c

/-- The moving context's wait ends (R200). -/
def State.rejoin (s : State) : State := { s with c := s.rejoined s.c }

/-- Two contexts of one tile task on one core: as a participant of its task queue that core has one count of instructions (R198, R200). -/
def Ctx.sameCore (a b : Ctx) : Bool := a.kind = .task && b.kind = .task && a.task = b.task && a.isIc == b.isIc

/-- The tile tasks that have not ended, pre-empted ones too (R345). -/
def State.liveTasks (s : State) : List Task := s.tasks ++ s.saved.filterMap fun v => v.taskRec

/-- Entry of a trap or interrupt by the context that moves (R376, R377, R378): the cause with INTR and SUB, the boundary's
TPC and TVAL, TSTAT, GIE cleared, the entry level and the entry address. On a dispatch core every entry is made at M through the
context's own TVEC (R377). -/
def takeTrap (intr : Bool) (cause sub : Byte) (val tpc : Word) (repv : Bool) (s : State) : State :=
  let tcause := w64 (b2n intr * 2 ^ 63 + sub.toNat * 256 + cause.toNat)
  let s := s.rejoin.traceCtx 7 s.c 0 tcause
  let c := s.c
  let cl := if intr then .stay else causeClass cause
  let machine := cl = .machine && !c.isDisp && c.prv ≠ .m
  let regs : TrapRegs :=
    { cause := tcause, pc := tpc, val := val, stat := tstatWord c repv }
  let toMachineSet := cl = .machine && !c.isDisp
  let rises := cl = .rise && !c.isDisp && c.prv ≠ .m
  let prv := if machine || c.isDisp then .m else if rises && c.supEntry.isSome then .s else c.prv
  let pc := if machine then s.machineEntry c else if rises then c.supEntry.getD c.tvec else c.tvec
  { s with
    c := { c with
      trap := if toMachineSet then c.trap else regs
      mtrap := if toMachineSet then regs else c.mtrap
      gie := false, prv := prv, pc := pc, inHandler := true, repi := 0, wres := false, wph := false
      stalled := false, waitFrom := none, inMwait := false, inWfi := false, inClose := false }
    waiters := s.waiters.filter fun w => w.uid ≠ c.uid }

/-! Completing an instruction. -/

/-- The end test of R310, from the innermost level outwards: the levels that remain, and where execution goes on. -/
def loopEnd (pc : Word) : List LoopLevel → List LoopLevel × Word
  | [] => ([], pc)
  | l :: ls =>
    if l.stop = pc then
      if 1 < l.left then ({ l with left := l.left - 1, pass := l.pass + 1 } :: ls, l.start)
      else loopEnd pc ls
    else (l :: ls, pc)

/-- The instruction at PC, of `len` words, has completed without a taken transfer: its boundary moves past it and the end
test is made (R310). Only levels whose body holds the instruction are examined; those are a prefix from the innermost. -/
def Ctx.advance (c : Ctx) (len : Nat) : Ctx :=
  let r := loopEnd (c.pc + w64 (2 * len)) c.loops
  { c with pc := r.2, loops := r.1, repi := 0, stalled := false, waitFrom := none, inMwait := false, inWfi := false, inClose := false, wres := false
           wph := false, retired := c.retired + 1 }

/-- The instruction has completed. -/
def retire (len : Nat) (s : State) : State :=
  let s := s.rejoin
  { s with c := s.c.advance len, waiters := s.waiters.filter fun w => w.uid ≠ s.c.uid }

/-- A wait on an ACC that a DQREQ of quantum q fills ends that quantum for the context (R200). -/
def Ctx.waitOn (c : Ctx) (k : WaitKind) : Ctx :=
  match k with
  | .dq q => { c with retired := max c.retired ((q + 1) * c.quantum) }
  | _ => c

/-- The instruction waits at its boundary (R315). -/
def stall (w : Option Waiter) (k : WaitKind) (s : State) : State :=
  { s with
    c := { s.c.waitOn k with stalled := true, waitFrom := some (s.c.waitFrom.getD s.cyc), waitKind := k }
    waiters := match w with
      | none => s.waiters
      | some w => if s.waiters.any (fun x => x = w) then s.waiters else s.waiters ++ [w] }

/-- What a stop leaves: the trap taken at the instruction, the wait, or the effect held. -/
def settle (rep : Bool) (e : Stop) (s : State) : State :=
  match e with
  | .trap cause val sub => takeTrap false cause sub val s.c.pc rep s
  | .wait w k => stall w k s
  | .after s' cause val sub => takeTrap false cause sub val s.c.pc rep s'
  | .hold s' => { s' with c := { s'.c with stalled := true, waitFrom := some (s.c.waitFrom.getD s.cyc) } }

/-- The outcome type of every meaning. -/
abbrev Out := Host.Outcome State Fault Refusal

/-- An instruction of `len` words without REP. -/
def once (len : Nat) (body : M Unit) (s : State) : Out :=
  match body s with
  | .ok (_, s') => .next (retire len s')
  | .error e => .next (settle false e s)

/-- An instruction that may carry REP: one repetition a step (R57, R58). -/
def repeated (g : Bool) (p : Pre) (body : Nat → M Unit) (s : State) : Out :=
  match p.rep with
  | none => once (p.len g) (body 0) s
  | some r =>
    if widenU r.count r.run ≤ s.c.repi then .next (retire (p.len g) s)
    else match body s.c.repi s with
      | .error e => .next (settle true e s)
      | .ok (_, s') =>
        if s.c.repi + 1 < widenU r.count r.run then
          let s' := s'.rejoin
          .next { s' with c := { s'.c with repi := s.c.repi + 1, stalled := false, waitFrom := none }
                          waiters := s'.waiters.filter fun w => w.uid ≠ s.c.uid }
        else .next (retire (p.len g) s')

/-- A transfer was taken: every level whose body holds the instruction ends (R310). -/
def Ctx.jump (c : Ctx) (t : Word) : Ctx :=
  { c with
    pc := t, loops := c.loops.filter fun l => !(decide (l.start.toNat ≤ c.pc.toNat) && decide (c.pc.toNat < l.stop.toNat))
    repi := 0, stalled := false, waitFrom := none, inMwait := false, inWfi := false, inClose := false, wres := false, wph := false, retired := c.retired + 1 }

/-- An instruction of `len` words that may transfer control: the body gives the target of a taken transfer. -/
def control (len : Nat) (body : M (Option Word)) (s : State) : Out :=
  match body s with
  | .ok (none, s') => .next (retire len s')
  | .ok (some t, s') =>
    let s' := s'.rejoin
    .next { s' with c := s'.c.jump t, waiters := s'.waiters.filter fun w => w.uid ≠ s.c.uid }
  | .error e => .next (settle false e s)

/-- A change of the context that moves. -/
def modCtx (f : Ctx → Ctx) : M Unit := modify fun s => { s with c := f s.c }

/-! Registers under their tags. -/

/-- A tagged register of the context (R15). -/
inductive RegId where
  | acc
  | p (n : R3)
  | k (n : R3)
  deriving DecidableEq, Repr

/-- The register index of R22. -/
def RegId.index : RegId → Nat
  | .acc => 0
  | .p n => 1 + n.toNat
  | .k n => 9 + n.toNat

/-- A register. -/
def Ctx.reg (c : Ctx) : RegId → Reg
  | .acc => c.acc
  | .p n => c.p[n.toNat]'n.isLt
  | .k n => c.k[n.toNat]'n.isLt

/-- The context with a register changed. -/
def Ctx.setReg (c : Ctx) (r : RegId) (x : Reg) : Ctx :=
  match r with
  | .acc => { c with acc := x }
  | .p n => { c with p := c.p.set n.toNat x n.isLt }
  | .k n => { c with k := c.k.set n.toNat x n.isLt }

/-- The value that a full register reads as (R24): none where the read traps GENFAULT. -/
def Ctx.tagged (c : Ctx) (x : Reg) : Option Word :=
  if x.tag = 0 then some 0
  else if x.tag = c.gen || c.genrd.toList.any (fun g => g = x.tag) then some x.val
  else if c.gentrap then none else some 0

/-- A wait on a register under R200: ACC may wait for a DQREQ or a VOTE. -/
def Ctx.accWait (c : Ctx) (r : RegId) : WaitKind :=
  if r ≠ .acc then .other
  else c.jobs.foldl (fun k j => match j with
    | .dqreq _ _ q => if c.det then .dq q else k
    | .vote .. => .absent
    | _ => k) .other

/-- A read of a register (R22, R24). -/
def readReg (r : RegId) : M Word := do
  let s ← get
  let x := s.c.reg r
  if !x.full then
    if s.c.fepol.getLsbD r.index then raise cFEEMPTY (w64 r.index) else throw (.wait none (s.c.accWait r))
  else match s.c.tagged x with
    | some v => pure v
    | none => raise cGENFAULT (w64 r.index)

/-- A write of a register (R23, R24): it waits for an earlier producer; then full, tagged GEN. -/
def writeReg (r : RegId) (v : Word) : M Unit := do
  let s ← get
  if !(s.c.reg r).full then throw (.wait none (s.c.accWait r))
  else set { s with c := s.c.setReg r ⟨v, true, s.c.gen⟩ }

/-- ACC, P and K reads and writes. -/
def readAcc : M Word := readReg .acc
def writeAcc (v : Word) : M Unit := writeReg .acc v
def readP (n : R3) : M Word := readReg (.p n)
def writeP (n : R3) (v : Word) : M Unit := writeReg (.p n) v
def readK (n : R3) : M Word := readReg (.k n)
def writeK (n : R3) (v : Word) : M Unit := writeReg (.k n) v

/-- The instruction's result arrives after it retires: ACC is marked empty (R21), after an earlier producer (R23). -/
def emptyAcc : M Unit := do
  let s ← get
  if !s.c.acc.full then throw (.wait none (s.c.accWait .acc))
  else set { s with c := { s.c with acc := { s.c.acc with full := false } } }

/-- Work begun by the instruction. -/
def addJob (j : Job) : M Unit := modCtx fun c => { c with jobs := c.jobs ++ [j] }

/-! Operand fields under LOOP's stagger and REP's STEP (R56, R57, R309). -/

/-- The sum of the stagger of every active level whose body holds the instruction (R309). -/
def Ctx.stagger (c : Ctx) : R3 :=
  (c.loops.filter fun l => decide (l.start.toNat ≤ c.pc.toNat) && decide (c.pc.toNat < l.stop.toNat)).foldl
    (fun acc l => acc + BitVec.ofNat 3 (l.pass * l.stag.toNat)) 0

/-- A pointer field: the encoded field, the stagger, and REP's addition; `b` is the field's STEP bit, 3 for none. -/
def Ctx.field (c : Ctx) (p : Pre) (b : Nat) (i : Nat) (f : R3) : R3 := f + c.stagger + BitVec.ofNat 3 (p.stepAdd b i)

end Sys2Proof.Machine
end

