-- ==== Sys2Proof/Machine/Flags.lean ====
section
/-! DEFINITION. Results and flags of the scalar arithmetic (R63, R117 to R121): exact integers taken to 64 bits. -/

namespace Sys2Proof.Machine

/-- Z and N of a result (R118). -/
def zn (r : Word) : FlagSet := { z := some (r == 0), n := some r.msb }

/-- An exact integer lies in the signed 64-bit range. -/
def inS64 (v : Int) : Bool := decide (-(2 ^ 63 : Int) ≤ v ∧ v < 2 ^ 63)

/-- ADD's flags (R118). -/
def addFlags (a b : Word) : FlagSet :=
  { zn (a + b) with c := some (decide (2 ^ 64 ≤ a.toNat + b.toNat)), v := some (!inS64 (a.toInt + b.toInt)) }

/-- SUB's flags (R118). -/
def subFlags (a b : Word) : FlagSet :=
  { zn (a - b) with c := some (decide (a.toNat < b.toNat)), v := some (!inS64 (a.toInt - b.toInt)) }

/-- MUL's flags (R118). -/
def mulFlags (a b : Word) : FlagSet :=
  { zn (a * b) with c := some (decide (2 ^ 64 ≤ a.toNat * b.toNat)), v := some (!inS64 (a.toInt * b.toInt)) }

/-- The shift amount: bits 5:0 (R118). -/
def shAmt (b : Word) : Nat := b.toNat % 64

/-- A shift's flags: C is bit `i` of the operand when the amount is not 0 (R118). -/
def shFlags (a r : Word) (n i : Nat) : FlagSet := { zn r with c := if n = 0 then none else some (bit a i) }

/-- The most negative value. -/
def minS64 : Word := 0x8000000000000000

/-- Signed division truncated toward zero, with R119's corners. -/
def divS (a b : Word) : Word := if b = 0 then allOnes else if a = minS64 && b = allOnes then minS64 else i64 (Int.tdiv a.toInt b.toInt)
/-- Unsigned division with R119's corner. -/
def divU (a b : Word) : Word := if b = 0 then allOnes else w64 (a.toNat / b.toNat)
/-- Signed remainder, of the dividend's sign, with R119's corners. -/
def remS (a b : Word) : Word := if b = 0 then a else if a = minS64 && b = allOnes then 0 else i64 (Int.tmod a.toInt b.toInt)
/-- Unsigned remainder with R119's corner. -/
def remU (a b : Word) : Word := if b = 0 then a else w64 (a.toNat % b.toNat)

/-- V of a signed division (R119). -/
def divV (a b : Word) : Bool := b == 0 || (a == minS64 && b == allOnes)

/-- The result written to ACC, if any, and the flags (R116, R118, R119). -/
def AluOp.eval (op : AluOp) (a b : Word) : Option Word × FlagSet :=
  let plain (r : Word) : Option Word × FlagSet := (some r, zn r)
  let n := shAmt b
  match op with
  | .ld => (some b, {})
  | .add => (some (a + b), addFlags a b)
  | .sub => (some (a - b), subFlags a b)
  | .rsub => (some (b - a), subFlags b a)
  | .cmp => (none, subFlags a b)
  | .tst => (none, zn (a &&& b))
  | .and => plain (a &&& b)
  | .or => plain (a ||| b)
  | .xor => plain (a ^^^ b)
  | .andn => plain (a &&& ~~~b)
  | .shl => (some (a <<< n), shFlags a (a <<< n) n (64 - n))
  | .shr => (some (a >>> n), shFlags a (a >>> n) n (n - 1))
  | .sar => (some (a.sshiftRight n), shFlags a (a.sshiftRight n) n (n - 1))
  | .rol => plain (a.rotateLeft n)
  | .mul => (some (a * b), mulFlags a b)
  | .mulh => plain (i64 (a.toInt * b.toInt / 2 ^ 64))
  | .mulhu => plain (w64 (a.toNat * b.toNat / 2 ^ 64))
  | .div => (some (divS a b), { zn (divS a b) with v := some (divV a b) })
  | .divu => (some (divU a b), { zn (divU a b) with v := some (b == 0) })
  | .rem => (some (remS a b), { zn (remS a b) with v := some (divV a b) })
  | .remu => (some (remU a b), { zn (remU a b) with v := some (b == 0) })
  | .min => plain (if a.toInt ≤ b.toInt then a else b)
  | .max => plain (if a.toInt ≤ b.toInt then b else a)
  | .minu => plain (if a.toNat ≤ b.toNat then a else b)
  | .maxu => plain (if a.toNat ≤ b.toNat then b else a)

/-- The operation writes ACC (R118). -/
def AluOp.writesAcc : AluOp → Bool
  | .cmp | .tst => false
  | _ => true

/-- The operation reads ACC as its left operand; LD does not (R116). -/
def AluOp.readsAcc : AluOp → Bool
  | .ld => false
  | _ => true

/-- Which flags a result writes. -/
def FlagSet.mask (f : FlagSet) : Flags := ⟨f.n.isSome, f.z.isSome, f.c.isSome, f.v.isSome⟩

/-- The flags after a result. -/
def Flags.apply (f : Flags) (g : FlagSet) : Flags := ⟨g.n.getD f.n, g.z.getD f.z, g.c.getD f.c, g.v.getD f.v⟩

/-- Which flags an operation may write, whatever its operands (R114): a shift is taken to write C. -/
def AluOp.flagMask : AluOp → Flags
  | .ld => {}
  | .add | .sub | .rsub | .cmp | .mul => ⟨true, true, true, true⟩
  | .shl | .shr | .sar => ⟨true, true, true, false⟩
  | .div | .divu | .rem | .remu => ⟨true, true, false, true⟩
  | _ => ⟨true, true, false, false⟩

/-- Two sets of flags meet. -/
def Flags.meets (a b : Flags) : Bool := (a.n && b.n) || (a.z && b.z) || (a.c && b.c) || (a.v && b.v)
/-- The union. -/
def Flags.join (a b : Flags) : Flags := ⟨a.n || b.n, a.z || b.z, a.c || b.c, a.v || b.v⟩
/-- Some flag is in the set. -/
def Flags.some' (a : Flags) : Bool := a.n || a.z || a.c || a.v

/-- Flags written by an instruction: it waits for earlier pending ones among them (R114, R23). -/
def writeFlags (g : FlagSet) : M Unit := do
  let s ← get
  waitIf (s.c.pend.meets g.mask)
  modCtx fun c => { c with flags := c.flags.apply g }

/-- The unary results (R121): value and flags. -/
inductive UnOp where
  | neg | not | abs | clz | ctz | popc | brev | bswap | sextB | sextH | sextW | zextB | zextH | zextW | setf
  deriving DecidableEq, Repr

/-- Number of one bits among the lowest `n`. -/
def popCount (x : Word) : Nat → Nat
  | 0 => 0
  | n + 1 => b2n (x.getLsbD n) + popCount x n

/-- Leading zeros of the lowest `n` bits. -/
def clzGo (x : Word) : Nat → Nat
  | 0 => 0
  | n + 1 => if x.getLsbD n then 0 else clzGo x n + 1

/-- The lowest one bit, counting from `k`, `n` bits left; 64 when none. -/
def ctzGo (x : Word) : Nat → Nat → Nat
  | _, 0 => 64
  | k, n + 1 => if x.getLsbD k then k else ctzGo x (k + 1) n

/-- Index of the highest one bit, 64 for 0 (R125). -/
def hiBit (x : Word) : Nat := if x = 0 then 64 else 63 - clzGo x 64

/-- The bits in reverse order. -/
def revBits (x : Word) : Word := w64 ((List.range 64).foldl (fun a i => a * 2 + b2n (x.getLsbD i)) 0)

/-- The bytes in reverse order. -/
def revBytes (x : Word) : Word := w64 (leNat (leBytes 8 x.toNat).reverse)

/-- `sext` of the low `n` bits. -/
def sextLow (x : Word) (n : Nat) : Word := i64 (sextNat n (x.toNat % 2 ^ n))

/-- Result and flags (R121). -/
def UnOp.eval (op : UnOp) (a : Word) : Word × FlagSet :=
  let plain (r : Word) : Word × FlagSet := (r, zn r)
  match op with
  | .neg => (0 - a, subFlags 0 a)
  | .not => plain (~~~a)
  | .abs => let r := if a.msb then 0 - a else a; (r, { zn r with v := some (a == minS64) })
  | .clz => plain (w64 (clzGo a 64))
  | .ctz => plain (w64 (ctzGo a 0 64))
  | .popc => plain (w64 (popCount a 64))
  | .brev => plain (revBits a)
  | .bswap => plain (revBytes a)
  | .sextB => plain (sextLow a 8)
  | .sextH => plain (sextLow a 16)
  | .sextW => plain (sextLow a 32)
  | .zextB => plain (w64 (a.toNat % 2 ^ 8))
  | .zextH => plain (w64 (a.toNat % 2 ^ 16))
  | .zextW => plain (w64 (a.toNat % 2 ^ 32))
  | .setf => (a, { zn a with c := some false, v := some false })

/-- The conditions of R63 on the flags; FE is ACC's full/empty bit. -/
def condHolds (code : Nat) (f : Flags) (full : Bool) : Bool :=
  match code with
  | 0 => f.z
  | 1 => !f.z
  | 2 => f.n != f.v
  | 3 => f.n == f.v
  | 4 => f.c
  | 5 => !f.c
  | 6 => f.n
  | 7 => !f.n
  | 8 => f.v
  | 9 => !f.v
  | 10 => !f.z && f.n == f.v
  | 11 => f.z || f.n != f.v
  | 12 => !f.c && !f.z
  | 13 => f.c || f.z
  | 14 => true
  | _ => full

/-- The flags that a condition tests (R63, R114). -/
def condFlags (code : Nat) : Flags :=
  match code with
  | 0 | 1 => { z := true }
  | 2 | 3 => { n := true, v := true }
  | 4 | 5 => { c := true }
  | 6 | 7 => { n := true }
  | 8 | 9 => { v := true }
  | 10 | 11 => { z := true, n := true, v := true }
  | 12 | 13 => { c := true, z := true }
  | _ => {}

end Sys2Proof.Machine
end

