-- ==== Sys2Proof/Machine/Access.lean ====
section
/-! DEFINITION. Where an address leads (R206 to R215, R352 to R355, R400), what an access reads and writes there (R228, R280,
R281, R358, R359, R395), and what makes it wait or fail (R112, R202, R241). -/

namespace Sys2Proof.Machine

/-- The way of an access. -/
inductive Acc where
  | fetch
  | read
  | write
  | rmw
  deriving DecidableEq, Repr

/-- Why an access cannot be performed: a cause, or it must wait. -/
inductive Fail where
  | cause (c : Byte)
  | hold
  deriving DecidableEq, Repr

/-- A byte's place as an access finds it. -/
structure Res where
  key : Nat
  /-- the granule has tags -/
  gran : Bool := false
  /-- the access is made under a fill generation alone (R215) -/
  fill : Option Gen := none
  /-- it leaves the tile, so it can be long-latency (R21, R114) -/
  far : Bool := false
  dram : Bool := false
  /-- the tile's killed core is sealed: messages are answered with an error (R396) -/
  dead : Bool := false
  /-- the translation used: tenant, first page, pages, entry -/
  tlb : Option (Nat × Nat × Nat × Nat) := none
  deriving DecidableEq, Repr

def rankBase : Nat := 0x1000_0000_0000
def dramBase : Nat := 0x4000_0000_0000
def dramEnd : Nat := 0x8000_0000_0000

/-! Translation (R352 to R356). -/

/-- The 8-byte number at a physical address. -/
def State.phys64 (s : State) (pa : Nat) : Nat := leNat (Mem.bytes s.mem pa 8)

/-- A reserved bit of a page-table entry is set (R353). -/
def pteReserved (e : Nat) : Bool := e / 2 ^ 52 % 2 ^ 12 != 0 || e / 2 ^ 8 % 16 != 0 || e.testBit 1
/-- PA of an entry, as a page number. -/
def ptePage (e : Nat) : Nat := e / 2 ^ 12 % 2 ^ 40
/-- V = 1 and no reserved bit set. -/
def pteOk (e : Nat) : Bool := e.testBit 0 && !pteReserved e

/-- A leaf of `n` pages that maps page `page`: first page, pages, entry. -/
def pteLeaf (e page n : Nat) : Option (Nat × Nat × Nat) :=
  if ptePage e % n = 0 then some (page / n * n, n, e) else none

/-- The walk of R353 for a page of the DRAM window: none where R354 gives XLATE. The C bit of a non-leaf entry is ignored
(log entry 13). -/
def State.walk (s : State) (root page : Nat) : Option (Nat × Nat × Nat) :=
  let e3 := s.phys64 (root * 4096 + page / 2 ^ 27 % 128 * 8)
  if !pteOk e3 || e3.testBit 6 then none
  else
    let e2 := s.phys64 (ptePage e3 * 4096 + page / 2 ^ 18 % 512 * 8)
    if !pteOk e2 || e2.testBit 6 then none
    else
      let e1 := s.phys64 (ptePage e2 * 4096 + page / 2 ^ 9 % 512 * 8)
      if !pteOk e1 then none
      else if e1.testBit 6 then (if e1.testBit 7 then none else pteLeaf e1 page 512)
      else
        let i := page % 512
        let g := s.phys64 (ptePage e1 * 4096 + i / 16 * 16 * 8)
        if pteOk g && g.testBit 6 && g.testBit 7 then pteLeaf g page 16
        else
          let e0 := s.phys64 (ptePage e1 * 4096 + i * 8)
          if !pteOk e0 || !e0.testBit 6 || e0.testBit 7 then none else pteLeaf e0 page 1

/-- A TLB entry holds the page for the tenant (R355). -/
def tlbHit (ten page : Nat) (e : Nat × Nat × Nat × Nat) : Bool :=
  e.1 = ten && e.2.1 ≤ page && page < e.2.1 + e.2.2.1

/-- The translation of a page: the tile's TLB, the district's, or the walk (R355). -/
def State.translate (s : State) (t : Loc) (ten page : Nat) : Option (Nat × Nat × Nat × Nat) :=
  let pt := (s.tenant ten).ptbase
  if !bit pt 0 then none
  else match (s.tile t).tlb.find? (tlbHit ten page) with
    | some e => some e
    | none => match (s.district (distIdx t.arr t.dist)).tlb.find? (tlbHit ten page) with
      | some e => some e
      | none => (s.walk (bits pt 51 12) page).map fun r => (ten, r)

/-- A TLB of `n` entries with an entry held; the oldest leaves (log entry 14). -/
def tlbPut (n : Nat) (l : List (Nat × Nat × Nat × Nat)) (e : Nat × Nat × Nat × Nat) : List (Nat × Nat × Nat × Nat) :=
  if l.any (fun x => x = e) then l else if n ≤ l.length then l.drop 1 ++ [e] else l ++ [e]

/-- The entry is held in the tile's and the district's TLB. -/
def State.noteTlb (s : State) (t : Loc) (e : Nat × Nat × Nat × Nat) : State :=
  let s := s.setTile t { s.tile t with tlb := tlbPut 512 (s.tile t).tlb e }
  let d := distIdx t.arr t.dist
  s.setDistrict d { s.district d with tlb := tlbPut 8192 (s.district d).tlb e }

/-- R354's permissions. -/
def permits (e : Nat) (user : Bool) (a : Acc) : Bool :=
  (match a with
   | .fetch => e.testBit 5
   | .read => e.testBit 3
   | .write => e.testBit 4
   | .rmw => e.testBit 3 && e.testBit 4) && (!user || e.testBit 2)

/-! Windows. -/

/-- The issuer is a seizure guest. -/
def Issuer.guest (i : Issuer) : Bool := i.kind = .guest
/-- The issuer's tile. -/
def Issuer.loc (i : Issuer) : Option Loc :=
  match i.place with
  | .dispatch _ => none
  | .tile t _ => some t
/-- The issuer works on a reflex tile. -/
def Issuer.onReflex (i : Issuer) : Bool :=
  match i.place with
  | .dispatch _ => false
  | .tile t _ => t.arr

/-- The local window's size (R207); a dispatch core's instruction memory (R400). -/
def localSize (i : Issuer) : Nat :=
  match i.place with
  | .dispatch _ => 0x8_0000
  | .tile t _ => if t.arr then 0x24_0000 else if i.guest then 0x4_0000 else 0x14_0000
/-- The storage behind offset 0 (R207). -/
def localBase (i : Issuer) : Nat := if i.guest && !i.onReflex then 0x14_0000 else 0

/-- The spill slot s of a core (R342). -/
def spillOff (ic : Bool) (slot : Nat) : Nat := 0x20_0000 + 0x1_C000 * b2n ic + 0x4000 * slot

/-- The offset lies in a spill slot in use (R342). -/
def State.inSpill (s : State) (t : Loc) (off : Nat) : Bool :=
  s.ctxs.any fun c => match c.role, c.place with
    | .spilled k, .tile t' ic => t' = t && decide (spillOff ic k ≤ off) && decide (off < spillOff ic k + 0x4000)
    | _, _ => false

/-- A place in a tile's storage. -/
def atTile (i : Issuer) (t : Loc) (off : Nat) : Res :=
  { key := tileKey t off, gran := true, far := i.loc ≠ some t }

/-- The local window (R207, R400). -/
def State.resLocal (s : State) (i : Issuer) (va : Nat) (a : Acc) : Except Fail Res :=
  match i.place with
  | .dispatch b =>
    if va < 0x8_0000 then .ok { key := dispKey b va }
    else if 0x10_0000 ≤ va && va < 0x20_0080 then
      (if a = .read then .ok { key := dispKey false va } else .error (.cause cACCESS))
    else .error (.cause cXLATE)
  | .tile t _ =>
    if localSize i ≤ va then .error (.cause cXLATE)
    else if t.arr && s.inSpill t va && !i.issued then .error (.cause cACCESS)
    else .ok (atTile i t (localBase i + va))

/-- The part of a tile that the rank window exposes (R208). -/
def exposed (t : Loc) : Nat := if t.arr then 0x20_0000 else 0x14_0000

/-- A place in another tile's storage. Messages to a killed core wait until SEAL and are answered with an error from then on
(R396). -/
def State.remote (s : State) (i : Issuer) (t : Loc) (off : Nat) : Except Fail Res :=
  let dead := (s.tile t).cores.toList.filter fun c => c.killed
  if dead = [] then .ok (atTile i t off)
  else if dead.any fun c => !c.sealed then .error .hold
  else .ok { atTile i t off with dead := true }

/-- The reflex tile of a fill rank (R214). -/
def fillTile (r : Nat) : Loc := ⟨true, (r - 0xFF00) / 8, (r - 0xFF00) % 8⟩

/-- A fill rank (R214, R215). The lock does not stop a queued entry; where the tile has left its tenant since the issue, its messages
are answered with an error (R150, R172; log entry 127). -/
def State.resFill (s : State) (i : Issuer) (r off : Nat) : Except Fail Res :=
  let t := fillTile r
  let ti := s.tile t
  let admitted := s.hasTile t && match i.place with
    | .dispatch _ => true
    | .tile h _ => !h.arr && (s.tenant i.tenant).rfx.getLsbD (8 * t.dist + t.tile)
  if i.issued && (!admitted || ti.sweptFrom.isSome) then .ok { atTile i t off with dead := true }
  else if !admitted || exposed t ≤ off then .error (.cause cXLATE)
  else if ti.sweptFrom.isSome then .error (if i.loc.isNone then .hold else .cause cXLATE)
  else if ti.locked.isSome && !i.issued then .error (.cause cACCESS)
  else (s.remote i t off).map fun r => { r with fill := some (ti.fillGen.getD 0) }

/-- The rank window (R208). -/
def State.resRank (s : State) (i : Issuer) (va : Nat) : Except Fail Res :=
  let r := (va - rankBase) / 2 ^ 21
  let off := (va - rankBase) % 2 ^ 21
  if r < i.nrank then
    match (s.launchOf i.launch).bind fun l => l.ranks[r]? with
    | none => .error (.cause cXLATE)
    | some e =>
      if exposed e.tile ≤ off then .error (.cause cXLATE)
      else if e.transit then .error .hold
      else s.remote i e.tile off
  else if 0xFF00 ≤ r && r < 0xFF10 then s.resFill i r off
  else .error (.cause cXLATE)

/-- The DRAM window: XLATE, then REFLEXDRAM, then ACCESS (R112, R354); a dispatch core's offsets are physical (R355). -/
def State.resDram (s : State) (i : Issuer) (va : Nat) (a : Acc) : Except Fail Res :=
  let o := va - dramBase
  match i.place with
  | .dispatch _ => if s.dramBytes ≤ o then .error (.cause cACCESS) else .ok { key := dramKey o, far := true, dram := true }
  | .tile t _ =>
    match i.xlat.find? fun x => x.1 = o / 4096 with
    | some x => .ok { key := dramKey (x.2 * 4096 + o % 4096), far := true, dram := true }
    | none => match s.translate t i.tenant (o / 4096) with
      | none => .error (.cause cXLATE)
      | some e =>
        let pa := (ptePage e.2.2.2 + (o / 4096 - e.2.1)) * 4096 + o % 4096
        if t.arr then .error (.cause cREFLEXDRAM)
        else if !permits e.2.2.2 (i.prv = .u) a || s.dramBytes ≤ pa then .error (.cause cACCESS)
        else .ok { key := dramKey pa, far := true, dram := true, tlb := some e }

/-- Where the byte at an address is, for an issuer and a way of access (R206); fetches reach only what R209 lets them. -/
def State.resolve (s : State) (i : Issuer) (va : Nat) (a : Acc) : Except Fail Res :=
  if va < rankBase then s.resLocal i va a
  else if va < rankBase + 2 ^ 37 then (if a = .fetch then .error (.cause cACCESS) else s.resRank i va)
  else if dramBase ≤ va && va < dramEnd then
    (if a = .fetch && (i.onReflex || i.guest || i.loc.isNone) then .error (.cause cACCESS) else s.resDram i va a)
  else .error (.cause cXLATE)

/-- The state with the translation that an access used held in the TLBs. -/
def State.noteRes (s : State) (i : Issuer) (r : Res) : State :=
  match i.loc, r.tlb with
  | some t, some e => s.noteTlb t e
  | _, _ => s

/-! Generations (R358, R359). -/

/-- The generation that a write takes (R215, R361). -/
def Res.wgen (r : Res) (i : Issuer) : Gen := r.fill.getD i.gen

/-- What a granule's tag lets an issuer read (R358): the stored bytes, zero, or GENFAULT under TRAP. -/
inductive Seen where
  | data
  | zero
  | stale
  deriving DecidableEq, Repr

def seen (i : Issuer) (r : Res) (tag : Gen) : Seen :=
  if tag = 0 then .zero
  else match r.fill with
    | some f => if f = tag then .data else .stale
    | none => if tag = i.gen || i.genrd.any (fun g => g = tag) then .data else .stale

/-- A read of the granule traps GENFAULT. -/
def State.genFaults (s : State) (i : Issuer) (r : Res) : Bool :=
  r.gran && i.gentrap && seen i r (s.gran (r.key / 32)).tag = .stale

/-- A read of the place finds poisoned data (R395), or is answered with an error message (R396). -/
def State.poisoned (s : State) (r : Res) : Bool := (s.gran (r.key / 32)).poison || r.dead

/-- The key of the boot journal in a dispatch core's local window (R400); it lies in always-on storage (R406). -/
def bootKey : Nat := dispKey false 0x20_0000

/-- The stored byte as the issuer reads it. -/
def State.peek (s : State) (i : Issuer) (r : Res) (k : Nat) : Byte :=
  if bootKey ≤ k && k < bootKey + 128 then s.bootJrnl.getD (k - bootKey) 0
  else if r.gran && seen i r (s.gran (k / 32)).tag ≠ .data then 0 else Mem.byte s.mem k

/-- The granule re-tagged for a write or a change of its bit (R359). -/
def State.retag (s : State) (g : Nat) (v : Gen) : State :=
  if (s.gran g).tag = v then s
  else { s.setGran g { s.gran g with tag := v, extra := false } with mem := Mem.clear s.mem (g * 32) (g * 32 + 32) }

/-- Monitors of other agents on the granule are triggered (R317); `own` is the context that acts, none for another agent. -/
def State.trigger (s : State) (g : Nat) (own : Option Nat) : State :=
  s.mapCtx fun c => if c.monitor = some g && !c.monLost && own ≠ some c.uid then { c with monHit := true } else c

/-- The granule's bit set by an agent under a generation. -/
def State.setFull (s : State) (g : Nat) (v : Gen) (own : Option Nat) (b : Bool) : State :=
  let s := s.retag g v
  let s := if (s.gran g).full = b then s else s.trigger g own
  s.setGran g { s.gran g with full := b }

/-- Bytes written within one granule: re-tag, store, clear the poison, trigger monitors (R359, R395, R317). -/
def State.put (s : State) (i : Issuer) (r : Res) (own : Option Nat) (bs : List Byte) : State :=
  if r.dead then s else
  let g := r.key / 32
  let s := if r.gran then s.retag g (r.wgen i) else s
  let s := if (s.gran g).poison then s.setGran g { s.gran g with poison := false } else s
  { s.trigger g own with mem := Mem.write s.mem r.key bs }

/-! Escrow (R278 to R281). -/

/-- A region of a window lies wholly in the DRAM window and is in use. -/
def regionHas (base : Word) (len va : Nat) : Bool :=
  len != 0 && decide (dramBase ≤ base.toNat) && decide (base.toNat + 32 * len ≤ dramEnd) && decide (base.toNat ≤ va) &&
    decide (va < base.toNat + 32 * len)

/-- The address is covered by the window. -/
def EscWin.covers (w : EscWin) (va : Nat) : Bool :=
  (w.rbase.toList.zip w.rlen.toList).any fun r => regionHas r.1 r.2 va

/-- The window under which the address is redirected for the issuer (R280). -/
def State.redirects (s : State) (i : Issuer) (va : Nat) : Option (Nat × Nat) :=
  match i.esc with
  | none => none
  | some (w, pos) => if (s.win w).covers va then some (w, pos) else none

/-- Entries in use by all windows (R278). -/
def State.poolUsed (s : State) : Nat := (s.escrow.map fun w => w.entries.length).sum

/-- The window has an entry at a tag. -/
def EscWin.has (w : EscWin) (pos line : Nat) : Bool := w.entries.any fun e => e.pos = pos && e.vline = line

/-- One more entry exceeds the quota or the pool (R280). -/
def State.escFull (s : State) (w : Nat) : Bool :=
  (s.win w).quota ≤ (s.win w).entries.length || s.pcap ≤ s.poolUsed

/-- An entry is reserved at a tag for the physical line, unless it is there. -/
def State.escReserve (s : State) (w pos line pline : Nat) : State :=
  let x := s.win w
  if x.has pos line then s
  else s.setWin w { x with entries := x.entries ++ [{ pos := pos, vline := line, pline := pline, bytes := [] }] }

/-- A byte written into an entry. -/
def EscEntry.put (e : EscEntry) (off : Nat) (b : Byte) : EscEntry :=
  { e with bytes := e.bytes.filter (fun x => x.1 < off) ++ [(off, b)] ++ e.bytes.filter (fun x => off < x.1) }

/-- A byte written at a tag that is reserved. -/
def State.escPut (s : State) (w pos va : Nat) (b : Byte) : State :=
  let x := s.win w
  s.setWin w { x with entries := x.entries.map fun e =>
    if e.pos = pos && e.vline = va / 32 then e.put (va % 32) b else e }

/-- The byte that the pool gives at a position (R281). -/
def EscWin.look (w : EscWin) (pos va : Nat) : Option Byte :=
  (w.entries.foldl (fun (best : Option (Nat × Byte)) e =>
    if e.vline = va / 32 && e.pos ≤ pos then
      match e.bytes.find? (fun x => x.1 = va % 32) with
      | none => best
      | some x => match best with
        | none => some (e.pos, x.2)
        | some y => if y.1 ≤ e.pos then some (e.pos, x.2) else best
    else best) none).map fun x => x.2

/-! Reading. -/

/-- The value of a byte in a context's own stores not yet performed, the latest (R112). -/
def ownStore (jobs : List Job) (pa : Nat) : Option Byte :=
  jobs.foldl (fun acc j => match j with
    | .store p bs => if p ≤ pa && pa < p + bs.length then bs[pa - p]? else acc
    | _ => acc) none

/-- A byte that an issuer reads without its storage: the pool's (R281), or that of its own latest store (R228). -/
def State.given (s : State) (i : Issuer) (r : Res) (va k : Nat) : Option Byte :=
  ((s.redirects i va).bind fun w => (s.win w.1).look w.2 va).orElse fun _ =>
    if r.dram then (s.ctxOf i.uid).bind fun c => ownStore c.jobs k else none

/-- A byte as an issuer reads it: the pool, its own stores, storage under generations (R228, R281, R358). -/
def State.readByte (s : State) (i : Issuer) (r : Res) (va k : Nat) : Byte := (s.given i r va k).getD (s.peek i r k)

/-- Why a read of `n` bytes fails at its home: a stale granule under GENPOL.TRAP (R358), poison (R395); bytes that are all given
without the storage do not (R281). -/
def State.readFault (s : State) (i : Issuer) (r : Res) (va n : Nat) : Option Byte :=
  if (List.range n).all fun j => (s.given i r (va + j) (r.key + j)).isSome then none
  else if s.genFaults i r then some cGENFAULT
  else if s.poisoned r then some cPOISON
  else none

/-- `n` bytes from an address on that lie in one granule. -/
def State.readBytes (s : State) (i : Issuer) (r : Res) (va n : Nat) : List Byte :=
  (List.range n).map fun j => s.readByte i r (va + j) (r.key + j)

/-! What makes an access wait. -/

/-- The commands of every engine (R222). -/
def State.cmds (s : State) : List Cmd :=
  s.tiles.flatMap fun t => t.chans.toList.flatMap fun c => c.active.toList ++ c.shadow.toList

/-- The granule is a command's completion object (R258). -/
def Target.isObj (t : Target) (g : Nat) : Bool :=
  match t with
  | .object _ k => k = g
  | _ => false

/-- An engine owns the granule or line for writing data into it (R241, R274, R396). -/
def State.ownedData (s : State) (g : Nat) : Bool :=
  s.cmds.any (fun c => c.todo.contains g) || s.colls.any (fun c => c.todo.contains g) ||
    s.square.any (fun q => q.own.contains g) ||
    s.tiles.any (fun t => t.cores.toList.any fun c => c.orphans.any fun o => o.1 = g)

/-- The granule is the completion object of a command under way (R258). -/
def State.ownedObj (s : State) (g : Nat) : Bool :=
  s.cmds.any (fun c => c.target.isObj g) || s.colls.any (fun c => c.target.isObj g)

/-- The entries of a context that may hold leases: those queued, and the one that the firmware emulates (R169, R176). -/
def Ctx.leasing (c : Ctx) : List MEntry := c.mq ++ c.emu.toList

/-- An operand lease that `p` picks by its context and number holds the granule (R169, R273). -/
def State.leasedBy (s : State) (p : Nat → Nat → Bool) (g : Nat) : Bool :=
  s.ctxs.any (fun c => c.leasing.any fun e => p c.uid e.order && e.lease.contains g) ||
    s.square.any fun q => p q.uid q.num && q.lease.contains g

/-- An operand lease holds the granule (R169, R273). -/
def State.leased (s : State) (g : Nat) : Bool := s.leasedBy (fun _ _ => true) g

/-- An earlier command, or a killed core's, still owns a granule (R241, R396). -/
def State.ownedBefore (s : State) (g num : Nat) : Bool :=
  s.cmds.any (fun c => decide (c.num < num) && c.todo.contains g) || s.colls.any (fun c => decide (c.num < num) && c.todo.contains g) ||
    s.square.any (fun q => decide (q.num < num) && q.own.contains g) ||
    s.tiles.any fun t => t.cores.toList.any fun c => c.orphans.any fun o => o.1 = g

/-- The granule is the completion object of an earlier command under way (R258). -/
def State.objBefore (s : State) (g num : Nat) : Bool :=
  s.cmds.any (fun c => decide (c.num < num) && c.target.isObj g) || s.colls.any (fun c => decide (c.num < num) && c.target.isObj g)

/-- An access to the granule waits at its home. -/
def State.busy (s : State) (g : Nat) (write : Bool) : Bool :=
  s.ownedData g || s.ownedObj g || (write && s.leased g)

/-- A unit's access waits at the granule's home. A matrix instruction reads what it leases although a command issued after it owns
the granule or names it as its object; an MMST does not wait for the leases of its own context (R168, R169, log entry 112). -/
def State.busyTo (s : State) (i : Issuer) (g : Nat) (write : Bool) : Bool :=
  (if i.lease.contains g then s.ownedBefore g i.order || s.objBefore g i.order else s.ownedData g || s.ownedObj g) ||
    (write && s.leasedBy (fun uid _ => i.order = 0 || uid ≠ i.uid) g)

/-- Two keys have one home for the purpose of R230 and R232: one tile, or one DRAM line. -/
def sameHome (a b : Nat) : Bool :=
  if a < 2 ^ 60 || b < 2 ^ 60 then a / 32 = b / 32 else a / 2 ^ 24 = b / 2 ^ 24

/-- The keys of a job's accesses that are not yet performed. -/
def State.jobKeys (s : State) (j : Job) : List Nat :=
  let k (i : Issuer) (e : Elem) : List Nat := match s.resolve i e.ea.toNat .read with
    | .ok r => [r.key]
    | .error _ => []
  match j with
  | .load i _ _ (.inl a) none => k i a
  | .load i _ _ (.inl a) (some b) => k i a ++ k i b
  | .load i _ _ (.inr _) (some b) => k i b
  | .atomic r => k r.iss r.el
  | _ => []

/-- An earlier access of the context to the same home is not yet performed (R230, R232). -/
def State.pendingAt (s : State) (c : Ctx) (key : Nat) : Bool :=
  c.jobs.any fun j => (s.jobKeys j).any fun k => sameHome k key

/-- A job is a store that waits for an engine or a lease (R169, R241). -/
def State.heldStore (s : State) (j : Job) : Bool :=
  match j with
  | .store pa _ => s.busy (pa / 32) true
  | _ => false

/-- A store of the context waits for an engine or a lease. -/
def State.storesHeld (s : State) (c : Ctx) : Bool := c.jobs.any s.heldStore

/-- The context's stores not yet performed are performed, in order, those apart that wait for an engine or a lease. -/
def State.drain (s : State) (uid : Nat) : State :=
  match s.ctxOf uid with
  | none => s
  | some c =>
    let s := c.jobs.foldl (fun s j => match j with
      | .store pa bs => if s.heldStore j then s else s.put { c.issuer 0 with uid := uid } { key := pa, dram := true } (some uid) bs
      | _ => s) s
    s.updCtx uid fun c => { c with jobs := c.jobs.filter fun j => match j with
      | .store _ _ => s.heldStore j
      | _ => true }

/-! Capabilities (R201, R202). -/

/-- The core of a code. -/
def coreOf (b : BitVec 8) : CoreName := ⟨⟨bit b 7, bits b 6 4, bits b 3 1⟩, bit b 0⟩

/-- The outcome of R202 for a write of a byte. -/
def State.capFail (s : State) (i : Issuer) (va : Nat) : Option Fail :=
  if !i.det then none
  else match s.caps.find? fun c => c.tenant = i.tenant && c.base ≤ va && va < c.base + 32 * c.len with
    | none => none
    | some c =>
      if bit c.flags 7 then some (.cause cCAPFAULT)
      else if some c.holder = i.place.code then (if c.moving.isSome then some .hold else none)
      else some (.cause cCAPFAULT)

/-! Strong accesses (R234, R240). -/

/-- A strong access of `n` bytes at an offset overlaps the last one without being equal to it (R240). -/
def Gran.mixes (g : Gran) (off n : Nat) : Bool :=
  match g.strong with
  | none => false
  | some (o, m) => off < o + m && o < off + n && !(o = off && m = n)

/-- The record of the last strong access (R240). -/
def State.noteStrong (s : State) (key n : Nat) : State :=
  s.setGran (key / 32) { s.gran (key / 32) with strong := some (key % 32, n) }

end Sys2Proof.Machine
end

