-- ==== Sys2Proof/Machine/Shapes.lean ====
section
/-! DEFINITION. Shape records: where their elements and scale bytes lie, what their checks find (R69 to R71, R131, R133). -/

namespace Sys2Proof.Machine

/-- The extent of dimension k; 1 at or above RANK (R131). -/
def Shape.dim (s : Shape) (k : Nat) : Nat := s.dims.getD k 1
/-- The stride of dimension k. -/
def Shape.str (s : Shape) (k : Nat) : Int := s.strs.getD k 0
/-- The number of elements. -/
def Shape.count (s : Shape) : Nat := s.dim 0 * s.dim 1 * s.dim 2 * s.dim 3
/-- The number of rows: the extents above dimension 0. -/
def Shape.rows (s : Shape) : Nat := s.dim 1 * s.dim 2 * s.dim 3

/-- An index (j0, j1, j2, j3). -/
structure Ix where
  j0 : Nat
  j1 : Nat := 0
  j2 : Nat := 0
  j3 : Nat := 0
  deriving DecidableEq, Repr

/-- The index at a shape-order ordinal, j0 fastest (R131). -/
def Shape.ix (s : Shape) (n : Nat) : Ix :=
  ⟨n % s.dim 0, n / s.dim 0 % s.dim 1, n / (s.dim 0 * s.dim 1) % s.dim 2, n / (s.dim 0 * s.dim 1 * s.dim 2)⟩

/-- The ordinal of an index (R148). -/
def Shape.ord (s : Shape) (j : Ix) : Nat := j.j0 + s.dim 0 * (j.j1 + s.dim 1 * (j.j2 + s.dim 2 * j.j3))

/-- An index of the iteration read at a source: 0 where the source's extent is 1 (R131). -/
def Shape.at (s : Shape) (j : Ix) : Ix :=
  ⟨if s.dim 0 = 1 then 0 else j.j0, if s.dim 1 = 1 then 0 else j.j1, if s.dim 2 = 1 then 0 else j.j2,
   if s.dim 3 = 1 then 0 else j.j3⟩

/-- The linear element offset (R70). -/
def Shape.off (s : Shape) (j : Ix) : Int := j.j0 * s.str 0 + j.j1 * s.str 1 + j.j2 * s.str 2 + j.j3 * s.str 3

/-- The first byte of an element, or of its lns6 group (R70). -/
def Shape.addr (s : Shape) (j : Ix) : Int :=
  if s.ty = .lns6 then s.base.toNat + 3 * (s.off j / 4) else s.base.toNat + s.off j * s.ty.bytes

/-- The position of an lns6 element in its group. -/
def Shape.sub (s : Shape) (j : Ix) : Nat := (s.off j % 4).toNat

/-- The addresses of the bytes that hold part of an element (R70). -/
def Shape.bytesOf (s : Shape) (j : Ix) : List Nat :=
  let a := (s.addr j).toNat
  if s.ty = .lns6 then
    match s.sub j with
    | 0 => [a]
    | 1 => [a, a + 1]
    | 2 => [a + 1, a + 2]
    | _ => [a + 2]
  else (List.range s.ty.bytes).map fun i => a + i

/-- The address of an element's scale byte (R70). -/
def Shape.scaleAddr (s : Shape) (j : Ix) : Nat :=
  s.sbase.toNat + j.j0 / 128 + (j.j1 + s.dim 1 * (j.j2 + s.dim 2 * j.j3)) * s.sstride

/-- Every index in shape order. -/
def Shape.ixs (s : Shape) : List Ix := (List.range s.count).map s.ix

/-- The addresses of the scale bytes, one for each 128 elements of each row. -/
def Shape.scaleAddrs (s : Shape) : List Nat :=
  if s.scaled then
    (List.range (s.rows * cdiv (s.dim 0) 128)).map fun n =>
      s.sbase.toNat + n % cdiv (s.dim 0) 128 + n / cdiv (s.dim 0) 128 * s.sstride
  else []

/-- The lowest and highest element byte (R70, R71). -/
def Shape.span (s : Shape) : Int × Int :=
  let ext (f : Int → Int → Int) : Int := (List.range 4).foldl (fun a k => a + f 0 (((s.dim k : Int) - 1) * s.str k)) 0
  let lo := ext min
  let hi := ext max
  if s.ty = .lns6 then (s.base.toNat + 3 * (lo / 4) + max 0 (lo % 4 - 1), s.base.toNat + 3 * (hi / 4) + min 2 (hi % 4))
  else (s.base.toNat + lo * s.ty.bytes, s.base.toNat + hi * s.ty.bytes + s.ty.bytes - 1)

/-- The lowest and highest scale byte. -/
def Shape.scaleSpan (s : Shape) : Int × Int :=
  (s.sbase.toNat, s.sbase.toNat + (s.dim 0 - 1) / 128 + (s.rows - 1) * s.sstride)

/-- The lowest and highest byte of the record's range, scale bytes included (R71). -/
def Shape.range (s : Shape) : Int × Int :=
  if s.scaled then (min s.span.1 s.scaleSpan.1, max s.span.2 s.scaleSpan.2) else s.span

/-- The ranges of a record: its elements', which a streaming record does not have, and its scale bytes' (R133). -/
def Shape.ranges (s : Shape) : List (Int × Int) := (if s.strm then [] else [s.span]) ++ if s.scaled then [s.scaleSpan] else []

/-- Which window of R71 a range lies in: the local window, the slot of one rank, or the DRAM window. -/
inductive Win where
  | own
  | rank (r : Nat)
  | dram
  deriving DecidableEq, Repr

/-- The window that holds a whole range for an issuer, if one does (R71 WHY 4). A rank must be below NRANK, or a fill rank. -/
def State.window (s : State) (i : Issuer) (lo hi : Int) : Option Win :=
  if lo < 0 || hi < lo then none
  else if hi < localSize i then some .own
  else if (rankBase : Int) ≤ lo && hi < rankBase + 2 ^ 37 then
    let r := (lo.toNat - rankBase) / 2 ^ 21
    if (hi.toNat - rankBase) / 2 ^ 21 = r then
      if r < i.nrank then
        match (s.launchOf i.launch).bind fun l => l.ranks[r]? with
        | none => none
        | some e => if (hi.toNat - rankBase) % 2 ^ 21 < exposed e.tile then some (.rank r) else none
      else if 0xFF00 ≤ r && r < 0xFF10 && s.hasTile (fillTile r) then some (.rank r)
      else none
    else none
  else if (dramBase : Int) ≤ lo && hi < dramEnd then some .dram
  else none

/-- The window of a record that its checks passed. -/
def State.winOf (s : State) (i : Issuer) (sh : Shape) : Option Win := s.window i sh.range.1 sh.range.2

/-- A record's fields, or the first WHY among 1, 2, 3, 6, 7, 5 that it breaks (R69, R71). A streaming record's bits 62:16 and
strides that are not zero count as reserved fields; STRj for j at or above RANK is ignored there as elsewhere (log entry 15). -/
def parseShape (bs : List Byte) : Except Nat Shape :=
  let w0 := leNat (bs.take 8)
  let num (o n : Nat) : Nat := leNat ((bs.drop o).take n)
  let tc := num 8 1
  let rank := num 9 1
  let fl := num 10 2
  let strm := decide (2 ^ 63 ≤ w0)
  let dims := (List.range rank).map fun k => num (0x10 + 4 * k) 4
  let strs := (List.range rank).map fun k => (BitVec.ofNat 32 (num (0x20 + 4 * k) 4)).toInt
  match ETy.ofCode tc with
  | none => .error 1
  | some ty =>
    if rank = 0 || 4 < rank then .error 2
    else if dims.contains 0 then .error 3
    else if fl / 4 != 0 || num 12 4 != 0 || num 0x3C 4 != 0 || (strm && (w0 % 2 ^ 63 / 2 ^ 16 != 0 || strs.any (· != 0))) then
      .error 6
    else if !strm && ty = .lns6 && (strs.getD 0 0 != 1 || (strs.drop 1).any (fun x => x % 4 != 0)) then .error 7
    else if !strm && ty.bytes != 0 && w0 % ty.bytes != 0 then .error 5
    else .ok { strm := strm, base := w64 (w0 % 2 ^ 63), ty := ty, tycode := tc, rank := rank, scaled := fl.testBit 1
               sync := fl.testBit 0, dims := dims, strs := strs, sbase := w64 (num 0x30 8), sstride := num 0x38 4 }

/-- WHY 4 of a record whose other checks passed (R71). -/
def State.badWindow (s : State) (i : Issuer) (sh : Shape) : Bool :=
  if sh.strm then sh.scaled && (s.window i sh.scaleSpan.1 sh.scaleSpan.2).isNone
  else (s.winOf i sh).isNone

/-- SHAPE's TVAL (R71). -/
def shapeVal (opnd why : Nat) : Word := w64 (opnd * 256 + why)

/-- Two records are identical in R133's sense: equal TYPE, BASE, dimensions and strides; strides above RANK do not exist, so two
records of different RANK differ in their strides only where both have one. -/
def Shape.same (a b : Shape) : Bool :=
  a.tycode = b.tycode && a.base = b.base && a.strm = b.strm &&
    (List.range 4).all fun k => a.dim k = b.dim k && (decide (min a.rank b.rank ≤ k) || a.str k = b.str k)

/-- The keys of a list of addresses, as far as they resolve. -/
def State.keysOf (s : State) (i : Issuer) (l : List Nat) : List Nat :=
  l.filterMap fun a => match s.resolve i a .read with
    | .ok r => some r.key
    | .error _ => none

/-- The addresses of every byte of a record's elements and scales. -/
def Shape.addrs (sh : Shape) : List Nat := if sh.strm then sh.scaleAddrs else sh.ixs.flatMap sh.bytesOf ++ sh.scaleAddrs

/-- The address lies in the record's range. -/
def Shape.near (sh : Shape) (lo hi : Nat) : Bool :=
  !sh.strm && decide (sh.range.1 ≤ hi) && decide ((lo : Int) ≤ sh.range.2)

/-- A record's bytes meet the keys from `k` on, `n` of them. -/
def State.touches (s : State) (i : Issuer) (sh : Shape) (k n : Nat) : Bool :=
  (s.keysOf i sh.addrs).any fun x => decide (k ≤ x) && decide (x < k + n)

/-- The records of a vector entry, in the order d, a, b, c. -/
def VEntry.shapes (e : VEntry) : List Shape := e.d.toList ++ e.a.toList ++ e.b.toList ++ e.c.toList

/-- The record that a matrix entry reads or writes in memory after issue without a lease: MMST's and MMLD's (R171). -/
def MEntry.moves (e : MEntry) : List Shape :=
  match e.op with
  | .mmst | .mmld => e.a.toList
  | _ => []

/-- An access of the context to the keys waits for its own earlier vector and matrix work (R130, R171); scale bytes count with the
elements (DESIGN CHOICE, log entry 114: R130 names operand elements). -/
def State.unitHazard (s : State) (c : Ctx) (k n : Nat) : Bool :=
  c.vq.any (fun e => e.shapes.any fun sh => s.touches e.iss sh k n) ||
    c.mq.any (fun e => e.moves.any fun sh => s.touches e.iss sh k n)

end Sys2Proof.Machine
end

