-- ==== Sys2Proof/Machine/Operands.lean ====
section
/-! DEFINITION. A strand's own accesses: address formation and stepping (R19), plain accesses (R112), synchronising accesses
(R113, R360), the source operand of layout S (R60, R111), and results that arrive late (R21, R114). -/

namespace Sys2Proof.Machine

/-! Plain accesses. -/

/-- The address found for the strand, its translation held in the TLBs. -/
def access (i : Issuer) (va : Word) (a : Acc) : M Res := do
  let s ← get
  match s.resolve i va.toNat a with
  | .error (.cause c) => raise c va
  | .error .hold => wait
  | .ok r => set (s.noteRes i r); pure r

/-- An acquire of the context is not yet performed, and every later access is performed after it: an atomic of acquire order
(R233), a page request (R285), an MBGET (R244), a VOTE or a TMASS (R245). -/
def State.acquires (s : State) (c : Ctx) : Bool :=
  c.vq.any (fun e => e.op = .tmass) || c.jobs.any fun j => match j with
    | .atomic r => bit r.order 0
    | .page .. | .vote .. => true
    | .square q => s.square.any fun x => x.num = q && (match x.kind with
      | .get _ => true
      | _ => false)
    | _ => false

/-- The waits of an access at its home: the context's own units (R130, R171), earlier accesses of its own (R230, R232), an
acquire (R233), engine ownership and leases (R241, R169). -/
def atHome (r : Res) (n : Nat) (write : Bool) : M Unit := do
  let s ← get
  waitIf (s.acquires s.c || s.unitHazard s.c r.key n || s.pendingAt s.c r.key || s.busy (r.key / 32) write)

/-- The traps of a read of `n` bytes at its home (R112). -/
def readTraps (i : Issuer) (r : Res) (va : Word) (n : Nat) : M Unit := do
  let s ← get
  match s.readFault i r va.toNat n with
  | some c => raise c va
  | none => pure ()

/-- The place of a plain load of `n` bytes within one granule, every trap and wait passed (R112). -/
def loadAt (i : Issuer) (va : Word) (n : Nat) : M Res := do
  let r ← access i va .read
  atHome r n false
  readTraps i r va n
  pure r

/-- A plain load within one granule. -/
def loadBytes (i : Issuer) (va : Word) (n : Nat) : M (List Byte) := do
  let r ← loadAt i va n
  let s ← get
  pure (s.readBytes i r va.toNat n)

/-- A plain load of `n` granules from a 32-byte boundary on. -/
def loadGranules (i : Issuer) (va : Word) : Nat → M (List Byte)
  | 0 => pure []
  | n + 1 => do
    let b ← loadBytes i va 32
    let r ← loadGranules i (va + 32) n
    pure (b ++ r)

/-- R202 at a strand's store. -/
def capCheck (i : Issuer) (va : Word) : M Unit := do
  let s ← get
  match s.capFail i va.toNat with
  | none => pure ()
  | some (.cause c) => raise c va
  | some .hold => waitAbsent true

/-- Bytes of a covered line put into the pool, ESFULL where no entry can be had (R280). -/
def redirect (w pos : Nat) (r : Res) (va : Word) (bs : List Byte) : M Unit := do
  let s ← get
  raiseIf (!(s.win w).has pos (va.toNat / 32) && s.escFull w) cESFULL va
  let s := s.escReserve w pos (va.toNat / 32) (r.key / 32)
  set ((List.range bs.length).foldl (fun s j => s.escPut w pos (va.toNat + j) (bs.getD j 0)) s)

/-- A store of the context to the same DRAM line is not yet performed: a later one is performed after it (R228, R232). -/
def Ctx.storing (c : Ctx) (key : Nat) : Bool := c.jobs.any fun j => match j with
  | .store pa _ => sameHome pa key
  | _ => false

/-- A plain store within one granule (R112, R359): redirected (R280), or performed at its home, at once or later (R228). -/
def storeBytes (i : Issuer) (va : Word) (bs : List Byte) : M Unit := do
  let r ← access i va .write
  capCheck i va
  atHome r bs.length true
  let s ← get
  match s.redirects i va.toNat with
  | some (w, pos) => redirect w pos r va bs
  | none =>
    if r.dram && (s.slow || s.c.storing r.key) then addJob (.store r.key bs)
    else set (s.put i r (some i.uid) bs)

/-! Reports of the context's units at a synchronisation (R225, R384). -/

/-- UNIT of R384. -/
def RUnit.code : RUnit → Nat
  | .vector => 1
  | .matrix => 2
  | .copy _ => 3
  | .atomic => 4
  | .square => 5
  | .tree => 6
  | .coll _ => 7

/-- CHAN of R384. -/
def RUnit.chan : RUnit → Nat
  | .copy ch | .coll ch => ch.toNat
  | _ => 0

/-- EREC0 of a report (R384). -/
def Report.erec0 (r : Report) : Word :=
  w64 (r.unit.code * 2 ^ 60 + r.unit.chan * 2 ^ 57 + r.disc % 32 * 2 ^ 52 + r.pc.toNat % 2 ^ 48)

/-- The context with a report taken up: the record written, the report gone (R384). -/
def Ctx.takeReport (c : Ctx) (r : Report) : Ctx :=
  { c with erec0 := r.erec0, erec1 := r.e1, erec2 := r.e2, reports := c.reports.erase r }

/-- ENGINE taken at the instruction (R225). -/
def raiseEngine {α : Type} (r : Report) : M α := do
  let s ← get
  throw (.after { s with c := s.c.takeReport r } cENGINE r.addr r.sub)

/-- BARRIER taken at the instruction for an over-credit (R258). -/
def raiseBarrier {α : Type} (b : BarRep) : M α := do
  let s ← get
  throw (.after { s with c := { s.c with barReps := s.c.barReps.erase b } } cBARRIER b.obj 0)

/-- The over-credit of a command can be reported: the stop of the same command is no longer unreported (R258). -/
def Ctx.canReport (c : Ctx) (b : BarRep) : Bool := b.cmd.isNone || c.reports.all fun r => r.cmd ≠ b.cmd

/-- The report that names an empty granule (R225), and the over-credit of a command that left the granule empty (R258). -/
def Ctx.reportOf (c : Ctx) (g : Nat) : Option Report := c.reports.find? fun r => r.grans.contains g
def Ctx.barrierOf (c : Ctx) (g : Nat) : Option BarRep := c.barReps.find? fun b => b.grans.contains g && c.canReport b

/-- What a synchronising access to a granule reports, if the granule is empty: ENGINE first, then BARRIER (R225, R258). -/
def reportGranule (g : Nat) : M Unit := do
  let s ← get
  if (s.gran g).full then pure ()
  else match s.c.reportOf g with
    | some rep => raiseEngine rep
    | none => match s.c.barrierOf g with
      | some b => raiseBarrier b
      | none => pure ()

/-! Synchronising accesses (R113, R246, R360). -/

/-- The waiter's context runs: a context that is swapped out, parked or frozen is not served. -/
def State.serves (s : State) (w : Waiter) : Bool :=
  (s.ctxOf w.uid).any fun c => c.role = .active && !c.halted && !c.frozen

/-- No earlier waiter of the same kind stands before the context on a granule (R113). -/
def State.myTurn (s : State) (g : Nat) (store : Bool) : Bool :=
  match s.waiters.find? fun w => !w.sem && w.key = g && w.store = store && s.serves w with
  | none => true
  | some w => w.uid = s.c.uid

/-- The tag that a change of the full/empty bit leaves (R359); storage without tags keeps what it has. -/
def State.tagFor (s : State) (i : Issuer) (r : Res) : Gen := if r.gran then r.wgen i else (s.gran (r.key / 32)).tag

/-- The checks that both synchronising forms share, up to the wait on the bit: it awaits `full`. -/
def syncWait (i : Issuer) (va : Word) (n : Nat) (full : Bool) : M Res := do
  let r ← access i va (if full then .read else .write)
  let s ← get
  raiseIf (r.dram || (s.redirects i va.toNat).isSome) cACCESS va
  if !full then capCheck i va
  waitIf (s.acquires s.c || s.unitHazard s.c r.key n || s.pendingAt s.c r.key)
  reportGranule (r.key / 32)
  let is := (s.gran (r.key / 32)).full || s.poisoned r
  if is = full && s.myTurn (r.key / 32) (!full) && !s.busy (r.key / 32) (!full) then pure r
  else throw (.wait (some { uid := s.c.uid, key := r.key / 32, store := !full }) .absent)

/-- MIXED under MIXTRAP (R240). -/
def mixCheck (i : Issuer) (r : Res) (va : Word) (n : Nat) : M Unit := do
  let s ← get
  raiseIf (i.mixtrap && (s.gran (r.key / 32)).mixes (r.key % 32) n) cMIXED va

/-- A synchronising load: the place, the bytes, the granule emptied (R113, R360). -/
def syncLoad (i : Issuer) (va : Word) (n : Nat) : M (Res × List Byte) := do
  let r ← syncWait i va n true
  let s ← get
  raiseIf (s.genFaults i r) cGENFAULT va
  mixCheck i r va n
  raiseIf (s.poisoned r) cPOISON va
  set ((s.setFull (r.key / 32) (s.tagFor i r) (some i.uid) false).noteStrong r.key n)
  pure (r, s.readBytes i r va.toNat n)

/-- The context's stores are performed; it waits for those that an engine or a lease holds. -/
def drainOwn : M Unit := do
  let s ← get
  waitIf (s.storesHeld s.c)
  set (s.drain s.c.uid)

/-- An access of the moving context that is not a store, an acquire among them, has still to be performed (R233). -/
def State.accessLeft (s : State) : Bool :=
  s.acquires s.c || s.c.jobs.any fun j => match j with
    | .load .. | .atomic _ | .page .. => true
    | _ => false

/-- Every earlier access of the context is performed before a release: stores at once, the rest by waiting (R233, R245). -/
def releaseOwn : M Unit := do
  let s ← get
  waitIf s.accessLeft
  drainOwn

/-- A synchronising store: the bytes written, the granule filled (R113, R360). -/
def syncStore (i : Issuer) (va : Word) (bs : List Byte) : M Unit := do
  let r ← syncWait i va bs.length false
  mixCheck i r va bs.length
  releaseOwn
  let s ← get
  let s := s.put i r (some i.uid) bs
  set ((s.setFull (r.key / 32) (s.tagFor i r) (some i.uid) true).noteStrong r.key bs.length)

/-! Addresses through pointers (R19, R122). -/

/-- The ring rule: P and an offset under PBASE and PSPAN (R19). -/
def ringAdd (d : PDesc) (p : Word) (s : Int) : Word :=
  if d.span = 0 then p + i64 s
  else d.base + i64 (((p.toNat : Int) - d.base.toNat + s) % (d.span.toNat : Int))

/-- The descriptor of a pointer. -/
def Ctx.desc (c : Ctx) (n : R3) : PDesc := c.pd[n.toNat]'n.isLt

/-- The pointer's value as an address base (R19, x = 0, no step). -/
def baseAddr (n : R3) : M Word := do
  let v ← readP n
  let s ← get
  pure (ringAdd (s.c.desc n) v 0)

/-- The element type of a pointer used as a scalar operand (R19). -/
def scalarType (n : R3) : M ETy := do
  let s ← get
  match ETy.ofCode (s.c.desc n).ty.toNat with
  | none => raise cSHAPE (shapeVal 5 1)
  | some t => if t.scalarOk then pure t else raise cSHAPE (shapeVal 5 9)

/-- A code extended to 64 bits (R111): signed types by sign, the others by zeros. -/
def ETy.extend (t : ETy) (code : Nat) : Word :=
  if t.isSigned then Sys2Proof.i64 (sextNat t.width (code % 2 ^ t.width)) else w64 (code % 2 ^ t.width)

/-- A pointer operand with its address: the register number, its value, the type and the address (R19). -/
structure Opnd where
  n : R3
  v : Word
  ty : ETy
  ea : Word
  deriving DecidableEq, Repr

/-- R19 up to ALIGN for an element offset. -/
def opnd (n : R3) (x : Nat) : M Opnd := do
  let v ← readP n
  let t ← scalarType n
  let s ← get
  let ea := ringAdd (s.c.desc n) v (x * t.bytes)
  raiseIf (ea.toNat % t.bytes != 0) cALIGN ea
  pure ⟨n, v, t, ea⟩

/-- The step of a form (R19). -/
def stepBy (f : StepForm) (d : PDesc) : Int :=
  match f with
  | .up => d.step.toInt
  | .down => -d.step.toInt
  | .plain | .sync => 0

/-- The pointer stepped after its access (R19). -/
def stepPtr (o : Opnd) (f : StepForm) : M Unit := do
  let s ← get
  let d := s.c.desc o.n
  if stepBy f d = 0 then pure () else writeP o.n (ringAdd d o.v (stepBy f d))

/-! The source operand (R60, R111). -/

/-- A source as issue finds it: a value, an element that a long-latency load will read, or a value that a synchronising load has
read at a home out of the tile and that is on its way (R21, R114). -/
inductive SrcVal where
  | now (v : Word)
  | later (e : Elem)
  | sent (v : Word)
  deriving DecidableEq, Repr

/-- The place can be long-latency, and the surroundings say that it is (R21, log entry 11). -/
def State.late (s : State) (r : Res) : Bool := s.slow && r.far

/-- The element offset of a memory form (R50, R57): REP's addition is exact, so the offset can pass 7 (log entry 108). -/
def memX (p : Pre) (x : R3) (i : Nat) : Nat :=
  match p.rep with
  | none => widenU x p.imm
  | some _ => x.toNat + p.stepAdd 2 i

/-- A plain element read at an operand's address. -/
def readElem (iss : Issuer) (o : Opnd) : M SrcVal := do
  let r ← loadAt iss o.ea o.ty.bytes
  let s ← get
  if s.late r then pure (.later ⟨o.ea, o.ty⟩)
  else pure (.now (o.ty.extend (leNat (s.readBytes iss r o.ea.toNat o.ty.bytes))))

/-- An element that a synchronising load reads: the value, on its way where its home lies out of the tile (R113, R114). -/
def syncElem (iss : Issuer) (o : Opnd) : M SrcVal := do
  let b ← syncLoad iss o.ea o.ty.bytes
  let s ← get
  let v := o.ty.extend (leNat b.2)
  pure (if s.late b.1 then .sent v else .now v)

/-- A memory form as a source (R111 to R113). -/
def memSrc (p : Pre) (i : Nat) (m : MemOpd) : M SrcVal := do
  let s ← get
  let iss := s.c.issuer (s.c.scopeOf p)
  let o ← opnd (s.c.field p 0 i m.n) (memX p m.x i)
  match m.form with
  | .sync => syncElem iss o
  | f => do
    let v ← readElem iss o
    stepPtr o f
    pure v

/-- A source operand (R111). -/
def source (p : Pre) (i : Nat) : Src9 → M SrcVal
  | .mem m => memSrc p i m
  | .ptr n => do
    let s ← get
    let v ← readP (s.c.field p 0 i n)
    pure (.now v)
  | .mask n => do
    let v ← readK n
    pure (.now v)
  | .imm f => pure (.now (match p.rep with
    | none => i64 (widenS f p.imm)
    | some _ => i64 (sextNat 6 f.toNat + p.stepAdd 2 i)))
  | .acc => do
    let v ← readAcc
    pure (.now v)
  | .cyc => do
    let s ← get
    pure (.now (w64 s.cyc))

/-- A result written to ACC and the flags at retire (R116, R118). -/
def writeResult (r : Option Word × FlagSet) : M Unit := do
  writeFlags r.2
  match r.1 with
  | none => pure ()
  | some v => writeAcc v

/-- A result that arrives later: ACC empty, its flags pending (R114). -/
def deferResult (acc : Bool) (fl : Flags) (j : Job) : M Unit := do
  let s ← get
  waitIf (s.c.pend.meets fl)
  if acc then emptyAcc
  modCtx fun c => { c with pend := c.pend.join fl }
  addJob j

/-- The job of a load that is performed after its instruction has retired: its accesses keep the pages to which they were translated at
issue (R112, R356). -/
def State.loadJob (s : State) (i : Issuer) (op : AluOp) (acc : Word) (a : Elem ⊕ Word) (b : Option Elem) : Job :=
  let page (e : Elem) : Option (Nat × Nat) := match s.resolve i e.ea.toNat .read with
    | .ok r => if r.dram then some ((e.ea.toNat - dramBase) / 4096, r.key / 4096) else none
    | .error _ => none
  .load { i with xlat := (a.getLeft?.toList ++ b.toList).filterMap page } op acc a b

/-- A load's result arrives late. -/
def deferLoad (i : Issuer) (op : AluOp) (acc : Word) (a : Elem ⊕ Word) (b : Option Elem) : M Unit := do
  let s ← get
  deferResult op.writesAcc op.flagMask (s.loadJob i op acc a b)

/-- The left operand. -/
def leftAcc (op : AluOp) : M Word := if op.readsAcc then readAcc else pure 0

/-- An instruction of layout S on ACC and its source (R111, R116, R118, R119). `ld acc` writes what it has read, full and tagged GEN, also
where that was stale or another generation's (DESIGN CHOICE, log entry 126: R116 says that it leaves ACC unchanged). ACC is read before the source operand, so its wait,
FEEMPTY and GENFAULT come before the operand's traps: the spec states that order for ST only (R116), and for the others it is
the model's choice (log entry 109). -/
def alu (op : AluOp) (p : Pre) (src : Src9) (i : Nat) : M Unit := do
  let s ← get
  let a ← leftAcc op
  let v ← source p i src
  match v with
  | .now b => writeResult (op.eval a b)
  | .later e => deferLoad (s.c.issuer (s.c.scopeOf p)) op a (.inl e) none
  | .sent v => deferLoad (s.c.issuer (s.c.scopeOf p)) op a (.inr v) none

end Sys2Proof.Machine
end

