-- ==== Sys2Proof/Machine/Banks.lean ====
section
/-! DEFINITION. Who holds a core: generations of a tile (R362), bank swaps (R26), parked contexts (R301), reflex threads
(R340 to R342), the end of a strand (R311), and what ends with it. -/

namespace Sys2Proof.Machine

/-! Generations (R362). -/

/-- The context is held by the tile: active, shadow, parked, spilled or about to start. -/
def Ctx.onTile (c : Ctx) (t : Loc) : Bool := c.loc = some t && c.role ≠ .off
/-- The context is held by the core. -/
def Ctx.onCore (c : Ctx) (t : Loc) (ic : Bool) : Bool := c.place = .tile t ic && c.role ≠ .off
/-- The context executes: active, not at an end, not frozen by PREEMPT. -/
def Ctx.runs (c : Ctx) : Bool := c.role = .active && !c.halted && !c.frozen

/-- A context holds the value in GEN or GENRD. -/
def Ctx.holdsGen (c : Ctx) (v : Gen) : Bool := c.gen = v || c.genrd.toList.contains v

/-- The context keeps its generations in use on a tile (R362): a halted strand's is the tile's until its task ends, a frozen one's
until its save is done; one that SHST has written out is no context of the tile. -/
def Ctx.keepsGens (c : Ctx) (t : Loc) : Bool := c.loc = some t && (c.role ≠ .off || c.halted || c.frozen)

/-- A value is in use on a tile, a sweep of it apart (R362). -/
def State.genHeld (s : State) (t : Loc) (v : Gen) : Bool :=
  let ti := s.tile t
  s.ctxs.any (fun c => c.keepsGens t && c.holdsGen v) || ti.retain.any (fun r => r.gen = v) || ti.arming.any (fun a => a.gen = v) ||
    ti.fillGen = some v

/-- The values in use on a tile, sweeps apart, in no order. -/
def State.gensHeld (s : State) (t : Loc) : List Gen :=
  let ti := s.tile t
  ((s.ctxs.filter fun c => c.keepsGens t).flatMap (fun c => c.gen :: c.genrd.toList) ++ (ti.retain.map fun r => r.gen).toList ++
    (ti.arming.map fun a => a.gen).toList ++ ti.fillGen.toList).eraseDups

/-- A value is in use on a tile (R362). -/
def State.genInUse (s : State) (t : Loc) (v : Gen) : Bool := s.genHeld t v || (s.tile t).sweeps.contains v

/-- The value after another in cyclic order, from 1 to 1023. -/
def nextGen (v : Gen) : Gen := if v = 1023 then 1 else v + 1

/-- The first value not in use from `v` on, `n` left to look at. -/
def State.freeGen (s : State) (t : Loc) : Nat → Gen → Option Gen
  | 0, _ => none
  | n + 1, v => if s.genInUse t v then s.freeGen t n (nextGen v) else some v

/-- The counter hands out a value; none while it waits for the scrubber (R362). -/
def State.takeGen (s : State) (t : Loc) : Option (Gen × State) :=
  (s.freeGen t 1023 (nextGen (s.tile t).genLast)).map fun v =>
    (v, s.setTile t { s.tile t with genLast := v, everOut := v :: (s.tile t).everOut.erase v })

/-- The counter can hand out a number of values, from `v` on, with `n` left to look at. -/
def State.hasGens (s : State) (t : Loc) : Nat → Gen → Nat → Bool
  | _, _, 0 => true
  | 0, _, _ + 1 => false
  | n + 1, v, k + 1 => s.hasGens t n (nextGen v) (if s.genInUse t v then k + 1 else k)

/-- The scrubber looks at a tile after a value has come into use or left it: values that have stopped being in use and were ever
handed out are queued for their sweeps (R362). -/
def State.recheck (s : State) (t : Loc) : State :=
  let ti := s.tile t
  let held := s.gensHeld t
  let gone := ti.genLive.filter fun v => !held.contains v && ti.everOut.contains v && !ti.sweeps.contains v
  s.setTile t { ti with genLive := held, sweeps := ti.sweeps ++ gone }

/-- The tile's granule numbers: first and one past the last. -/
def granRange (t : Loc) : Nat × Nat := (tileKey t 0 / 32, tileKey t (tileSize t) / 32)

/-- Storage of the granules from `lo` up to `hi` that `p` picks is made generation 0, full and zero. -/
def State.wipe (s : State) (lo hi : Nat) (p : Gran → Bool) : State :=
  let hit (g : Nat) : Bool := decide (lo ≤ g) && decide (g < hi) && p (s.gran g)
  let s' := (s.grans.filter fun x => hit x.1 && !x.2.full).foldl (fun s x => s.trigger x.1 none) s
  { s' with mem := s.mem.filter (fun c => !hit (c.1 / 32)), grans := s.grans.filter fun x => !hit x.1 }

/-- Registers tagged v re-tagged 0. -/
def Ctx.sweepRegs (c : Ctx) (p : Gen → Bool) : Ctx :=
  let f (r : Reg) : Reg := if p r.tag then { r with tag := 0 } else r
  { c with acc := f c.acc, p := c.p.map f, k := c.k.map f }

/-- Every register re-tagged 0, made full and zeroed (R365). -/
def Ctx.zeroRegs (c : Ctx) : Ctx :=
  let z : Reg := ⟨0, true, 0⟩
  { c with acc := z, p := Vector.replicate 8 z, k := Vector.replicate 8 z }

/-- The sweep of a value on a tile (R362). -/
def State.sweep (s : State) (t : Loc) (v : Gen) : State :=
  let s := s.wipe (granRange t).1 (granRange t).2 fun g => g.tag = v
  s.mapCtx fun c => if c.onTile t then c.sweepRegs (fun g => g = v) else c

/-! Leaving and entering the banks. -/

/-- The monitor of a context that parks, migrates or is written out is lost (R317). -/
def Ctx.loseMonitor (c : Ctx) : Ctx := { c with monLost := c.monitor.isSome }

/-- Cycles since the first execution of the instruction at the context's boundary (R318). -/
def Ctx.waited (c : Ctx) (cyc : Nat) : Nat := cyc - c.waitFrom.getD cyc

/-- The lowest code of R318's table that holds for a timeout, codes 3 and 4 apart. -/
def Ctx.mwaitCode (c : Ctx) (cyc : Nat) (t : Word) : Option Nat :=
  if c.monHit then some 0
  else if c.monitor.isNone || c.monLost then some 1
  else if t.toNat ≤ c.waited cyc then some 2
  else none

/-- An MWAIT ends with a code (R318). -/
def Ctx.endMwait (c : Ctx) (code : Nat) : Ctx :=
  { (c.advance 1) with acc := ⟨w64 code, true, c.gen⟩, monitor := none, monHit := false, monLost := false }

/-- A waiting MWAIT ends for a reason of code 3 or 4: the lowest code that holds is written (R318). -/
def Ctx.mwaitEnd (c : Ctx) (cyc code : Nat) : Ctx := c.endMwait ((c.mwaitCode cyc ((c.tagged c.acc).getD 0)).getD code)

/-- What a bank swap makes of the outgoing context: an MWAIT ends with code 3, its core present again; another wait goes on (R200, R315,
R318, R380). -/
def State.swapOut (s : State) (c : Ctx) : Ctx :=
  let c := if c.inMwait then (s.rejoined c).mwaitEnd s.cyc 3 else c
  { c with role := .shadow, inWfi := false }

/-- The contexts of a core. -/
def State.coreCtxs (s : State) (t : Loc) (ic : Bool) : List Ctx := s.ctxs.filter fun c => c.onCore t ic
/-- The context in the active bank of a core. -/
def State.activeOf (s : State) (t : Loc) (ic : Bool) : Option Ctx := (s.coreCtxs t ic).find? fun c => c.role = .active
/-- The context in the shadow bank of a core. -/
def State.shadowOf (s : State) (t : Loc) (ic : Bool) : Option Ctx := (s.coreCtxs t ic).find? fun c => c.role = .shadow

/-- The index of the bank that the core's active context does not use. -/
def State.freeBank (s : State) (t : Loc) (ic : Bool) : Bool := !((s.activeOf t ic).map fun c => c.bankIx).getD true

/-- A context that has left its bank has lost its place among the waiters on a granule: that wait begins afresh when it runs again (R113,
R22). A bank swap keeps its place on a semaphore (R315); what freezes its task or seizes its tile does not. -/
def State.strayWaits (s : State) (swap : Bool) : State :=
  { s with waiters := s.waiters.filter fun w => (swap && w.sem) || (s.ctxOf w.uid).any fun c => c.role = .active }

/-- A context that takes over its core has the core's count of instructions (R198, R200). -/
def State.takesCount (s : State) (c : Ctx) : Ctx :=
  if c.det then { c with retired := ((s.ctxs.filter fun x => x.sameCore c).map fun x => x.retired).foldl max c.retired } else c

/-- The contexts of a core's two banks change places (R26). -/
def State.swapBanks (s : State) (t : Loc) (ic : Bool) : State :=
  let u := s.mapCtx fun c => if c.onCore t ic && c.role = .active then s.swapOut c else c
  (match s.shadowOf t ic with
   | none => u
   | some h => u.updCtx h.uid fun c => { u.takesCount c with role := .active }).strayWaits true

/-- A context that holds the state added to the others. -/
def State.addCtx (s : State) (c : Ctx) : State := { s with others := s.others ++ [c] }

/-- The contexts that `p` picks leave the machine; another context moves next when the moving one leaves. -/
def State.dropCtx (s : State) (p : Ctx → Bool) : State :=
  let keep := s.others.filter fun c => !p c
  let s := { s with waiters := s.waiters.filter fun w => !s.ctxs.any fun c => c.uid = w.uid && p c }
  if p s.c then
    match keep with
    | [] => { s with c := { s.c with role := .off, halted := true }, others := [] }
    | c :: r => { s with c := c, others := r }
  else { s with others := keep }

/-- The context of a core role that has been parked longest (R301). -/
def State.longestParked (s : State) (t : Loc) (ic : Bool) : Option Ctx :=
  (s.coreCtxs t ic).foldl (fun best c => match c.role, best with
    | .parked a, some b => (match b.role with
      | .parked x => if a < x then some c else best
      | _ => some c)
    | .parked _, none => some c
    | _, _ => best) none

/-- The context enters the active bank of an index. -/
def State.enter (s : State) (uid : Nat) (bank : Bool) : State :=
  s.updCtx uid fun c => { s.takesCount c with role := .active, bankIx := bank }

/-! Reflex threads (R340 to R342). -/

/-- PRIO and start of a thread; tile task contexts have none. -/
def Ctx.threadRank (c : Ctx) : Option (Nat × Nat) :=
  match c.kind with
  | .thread _ p st => some (p, st)
  | _ => none

/-- The first context outranks the second (R341). -/
def Ctx.outranks (a b : Ctx) : Bool :=
  match a.threadRank, b.threadRank with
  | some (p, st), some (q, su) => decide (q < p) || (p == q && decide (st < su))
  | some _, none => true
  | none, _ => false

/-- The slot of a thread. -/
def Ctx.threadSlot (c : Ctx) : Nat :=
  match c.kind with
  | .thread k _ _ => k
  | _ => 0

/-- Among the contexts that wait on a reflex core, the first runs before the second (R341). -/
def waitsBefore (a b : Ctx) : Bool :=
  match a.threadRank, b.threadRank with
  | some (p, st), some (q, su) =>
    if p ≠ q then decide (q < p)
    else if a.role = .pending then b.role = .pending && decide (a.threadSlot < b.threadSlot)
    else b.role = .pending || decide (st < su)
  | some _, none => true
  | none, some _ => false
  | none, none => a.role = .shadow

/-- The highest-ranked context in the shadow bank, spilled or pending (R341). -/
def State.bestWaiting (s : State) (t : Loc) (ic : Bool) : Option Ctx :=
  (s.coreCtxs t ic).foldl (fun best c =>
    let w := match c.role with
      | .shadow | .spilled _ | .pending => true
      | _ => false
    if !w then best
    else match best with
      | none => some c
      | some b => if waitsBefore c b then some c else best) none

/-- A pending thread counts as started from now on. -/
def Ctx.startNow (c : Ctx) (cyc : Nat) : Ctx :=
  match c.kind, c.role with
  | .thread k p _, .pending => { c with kind := .thread k p cyc }
  | _, _ => c

/-- The core takes its next context after its active one has left the bank of an index (R301, R341). -/
def State.nextOnCore (s : State) (t : Loc) (ic bank : Bool) : State :=
  match (if t.arr then s.bestWaiting t ic else none) with
  | some c =>
    let b := if c.role = .shadow then c.bankIx else bank
    (s.updCtx c.uid fun c => c.startNow s.cyc).enter c.uid b
  | none => match s.longestParked t ic with
    | some c => s.enter c.uid bank
    | none => s

/-- The spill slots in use on a core. -/
def State.slotsUsed (s : State) (t : Loc) (ic : Bool) : List Nat :=
  (s.coreCtxs t ic).filterMap fun c => match c.role with
    | .spilled k => some k
    | _ => none

/-- The lowest free spill slot (R342). -/
def State.freeSlot (s : State) (t : Loc) (ic : Bool) : Option Nat :=
  (List.range 7).find? fun k => !(s.slotsUsed t ic).contains k

/-- Opaque bytes of a number (R344, R368; log entry 12). -/
def opaqueAt (key n : Nat) : List Byte := (List.range n).map fun i => Config.savedByte key i

/-- Opaque bytes that depend on when they are written. -/
def State.opaqueBytes (s : State) (n : Nat) : List Byte := opaqueAt s.steps n

/-- Bytes stored over granules under a generation, from a key on; 32 at a time. -/
def State.putAll (s : State) (i : Issuer) (key : Nat) (bs : List Byte) : Nat → State
  | 0 => s
  | n + 1 => if bs = [] then s
    else (s.put i { key := key, gran := decide (2 ^ 60 ≤ key) && decide (key < 2 ^ 61) } none (bs.take (32 - key % 32))).putAll i
      (key + (32 - key % 32)) (bs.drop (32 - key % 32)) n

/-- A held context is spilled to a slot: the slot's bytes are opaque, its contents are kept with the context (R342). -/
def State.spill (s : State) (t : Loc) (ic : Bool) (c : Ctx) (k : Nat) : State :=
  let n := 0x1500 + 128 * c.mint.table.length
  let s := s.putAll (c.issuer 0) (tileKey t (spillOff ic k)) (s.opaqueBytes n) (n / 32 + 2)
  { s.updCtx c.uid (fun c => { c with role := .spilled k, inWfi := false }) with steps := s.steps + 1 }

/-- A triggered thread, already among the contexts as pending, takes its place on its core (R341). -/
def State.placeThread (s : State) (t : Loc) (ic : Bool) (uid : Nat) : State :=
  match s.ctxOf uid with
  | none => s
  | some n =>
    let go (s : State) (b : Bool) : State := (s.updCtx uid fun c => c.startNow s.cyc).enter uid b
    match s.activeOf t ic with
    | none => go s false
    | some a =>
      if !(n.startNow s.cyc).outranks a then s
      else match s.shadowOf t ic with
        | none => (go (s.updCtx a.uid s.swapOut) (!a.bankIx)).strayWaits true
        | some h => match s.freeSlot t ic with
          | none => s
          | some k =>
            let low := if a.outranks h then h else a
            let s := (s.updCtx a.uid s.swapOut).spill t ic { low with role := .shadow } k
            (go s low.bankIx).strayWaits true

/-! Context images (R334). -/

/-- An image from its 256 bytes; none where a reserved byte is not zero. -/
def parseImage (bs : List Byte) : Option Image :=
  let num (o n : Nat) : Nat := leNat ((bs.drop o).take n)
  let words (o n : Nat) : List Word := (List.range n).map fun i => w64 (num (o + 8 * i) 8)
  if num 0xBB 1 / 2 ≠ 0 || num 0xBC 4 ≠ 0 || 1 < num 0xE0 1 || num 0xE1 31 ≠ 0 then none
  else some
    { pc := w64 (num 0 8 / 2 * 2), acc := w64 (num 8 8), p := words 0x10 8, k := words 0x50 8
      pstep := (List.range 8).map fun i => BitVec.ofNat 32 (num (0x90 + 4 * i) 4)
      ptype := (List.range 8).map fun i => BitVec.ofNat 6 (num (0xB0 + i) 1)
      fctl := w64 (num 0xB8 2), defscope := BitVec.ofNat 3 (num 0xBA 1), sup := bit (BitVec.ofNat 8 (num 0xBB 1)) 0
      pbase0 := w64 (num 0xC0 8), pspan0 := BitVec.ofNat 32 (num 0xC8 8), tvec := w64 (num 0xD0 8 / 2 * 2)
      seed := if num 0xE0 1 = 1 then some (w64 (num 0xD8 8)) else none }

/-- The writable bits of FCTL; an RM of 110 or 111 keeps the old one (R30). -/
def fctlWrite (old v : Word) : Word :=
  let rm := if 6 ≤ bits v 2 0 then bits old 2 0 else bits v 2 0
  w64 (bits v 13 12 * 2 ^ 12 + bits v 8 4 * 2 ^ 4 + rm)

/-- PSPAN's stored value (R34). -/
def spanWrite (v : BitVec 32) : BitVec 32 := BitVec.ofNat 32 (v.toNat / 32 * 32)

/-- The registers that an image names, full and tagged GEN, over reset values (R334). -/
def Ctx.loadImage (c : Ctx) (im : Image) : Ctx :=
  let reg (v : Word) : Reg := ⟨v, true, c.gen⟩
  { c with
    acc := reg im.acc, p := Vector.ofFn fun i => reg (im.p.getD i.val 0), k := Vector.ofFn fun i => reg (im.k.getD i.val 0)
    pd := Vector.ofFn fun i =>
      { base := if i.val = 0 then im.pbase0 else 0, span := if i.val = 0 then spanWrite im.pspan0 else 0
        step := im.pstep.getD i.val 0, ty := im.ptype.getD i.val 6 }
    fctl := fctlWrite 0 im.fctl, defscope := if im.defscope = 7 then 2 else im.defscope, tvec := im.tvec
    seeds := im.seed.toList }

/-- Bytes of a tile's local storage as the hardware reads them under a context's generations: a stale granule gives zeros (R215,
R361). -/
def State.readLocal (s : State) (i : Issuer) (t : Loc) (off n : Nat) : List Byte :=
  (List.range n).map fun j => s.peek i (atTile i t (off + j)) (tileKey t (off + j))

/-- A fresh context that shares a tile task's identity with another context of the task. -/
def Ctx.ofTask (c : Ctx) (uid : Nat) : Ctx :=
  let r (v : Word) : Reg := ⟨v, true, c.gen⟩
  { uid := uid, kind := .task, place := c.place, tenant := c.tenant, launch := c.launch, task := c.task, lr := c.lr
    reflex := c.reflex, det := c.det, quantum := c.quantum, mixtrap := c.mixtrap, gen := c.gen, genrd := c.genrd
    rank := c.rank, nrank := c.nrank, stage := c.stage, spadBase := c.spadBase, prv := .u
    acc := r 0, p := Vector.replicate 8 (r 0), k := Vector.replicate 8 (r 0) }

/-- The tile task of lowest rank bound to a tile (R340). -/
def State.lowestTask (s : State) (t : Loc) : Option Task :=
  (s.tasks.filter fun k => k.tile = t).foldl (fun best k => match best with
    | none => some k
    | some b => if k.rank < b.rank then some k else best) none

/-- A thread of the entry runs, is spilled or is pending. -/
def State.entryBusy (s : State) (t : Loc) (slot : Nat) : Bool :=
  s.ctxs.any fun c => c.onTile t && (match c.kind with
    | .thread k _ _ => k = slot
    | _ => false)

/-- Two descriptors of every strand of a task: one of its contexts, its halted ones too. -/
def State.ctxOfTask (s : State) (n : Nat) : Option Ctx := s.ctxs.find? fun c => c.task = n && c.kind = .task

/-- A core of the tile is killed: out of service until module reset (R394). -/
def State.coreKilled (s : State) (t : Loc) (ic : Bool) : Bool := ((s.tile t).cores[b2n ic]'(by cases ic <;> decide)).killed
/-- Both cores of the tile are in service (R394). -/
def State.inService (s : State) (t : Loc) : Bool := !s.coreKilled t false && !s.coreKilled t true

/-- An output pulse selects a reflex entry (R340, R341): the entry and its image are read under the task's GEN and GENRD, and
the thread takes its place; on a killed core none starts (R394). -/
def State.startEntry (s : State) (t : Loc) (slot : Nat) : State :=
  match (s.lowestTask t).bind fun k => s.ctxOfTask k.num with
  | none => s.trace 8 none (some (coreCode t false))
  | some own =>
    let i := own.issuer 0
    let e := s.readLocal i t (0x1F_FE00 + 32 * slot) 32
    let num (o n : Nat) : Nat := leNat ((e.drop o).take n)
    let ctl := num 8 4
    let ok := ctl.testBit 31 && ctl % 2 ^ 31 / 2 ^ 9 == 0 && ctl % 2 ^ 8 / 2 ^ 4 == 0 && num 0x0C 4 == 0 && num 0x18 8 == 0
    let off := num 0 4
    if ok && s.entryBusy t slot then s.trace 8 (some own.tenant) (some (coreCode t false))
    else if !ok || 0x24_0000 < off + 256 || off % 64 ≠ 0 || s.coreKilled t (ctl.testBit 8) then s
    else match parseImage (s.readLocal i t off 256) with
      | none => s
      | some im =>
        let ic := ctl.testBit 8
        let base := own.ofTask s.next
        let c : Ctx := { (base.loadImage im) with
          kind := .thread slot (ctl % 16) s.cyc, place := .tile t ic, role := .pending
          pc := w64 (num 0x10 8 / 2 * 2), rbudget := num 4 4, prv := if im.sup then .s else .u }
        let s := { s with next := s.next + 1 }
        (s.addCtx c).placeThread t ic c.uid

/-! The end of a strand. -/

/-- The context has an engine command under way. -/
def State.hasCmd (s : State) (uid : Nat) : Bool := s.cmds.any (fun c => c.iss.uid = uid) || s.colls.any fun c => c.iss.uid = uid

/-- The tiles of a seizure mask (R333). -/
def maskTiles (m : Word) : List Loc := ((List.range 48).filter fun i => bit m i).map Loc.ofIdx

/-- The seized tiles of a thread that ends are to be released (R338). -/
def State.releaseAll (s : State) (c : Ctx) : State :=
  (maskTiles c.seized).foldl (fun s t => if (s.tile t).seizedBy = some c.launch then s.setTile t { s.tile t with releasing := true } else s) s

/-- A context leaves an escrow window that it joined (R286); the window keeps its entries (R279). -/
def State.leaveEscrow (s : State) (c : Ctx) : State :=
  if !c.esEn then s
  else
    let w := s.win c.esWin.toNat
    s.setWin c.esWin.toNat { w with joined := w.joined - 1 }

/-- The context has work under way that outlives its strand (R311): accesses, requests to other units and to the hardware. -/
def Ctx.lingers (c : Ctx) : Bool := c.jobs.any fun j => match j with
  | .fill .. | .leaf .. => false
  | _ => true

/-- The threads that have ended and have nothing under way any more are gone. -/
def State.reap (s : State) : State :=
  if s.ctxs.any (fun c => c.isThread && c.role = .off && !c.lingers) then s.dropCtx fun c => c.isThread && c.role = .off && !c.lingers
  else s

/-- The strand of a context has ended: it leaves its bank and its window, and its core takes the next context (R311, R301,
R341). A thread is gone, its seized tiles to be released (R338); a guest's core waits for the release. -/
def State.endStrand (s : State) (uid : Nat) (token : Option Word) : State :=
  match s.ctxOf uid with
  | none => s
  | some c =>
    let s := s.leaveEscrow c
    let s := { s with waiters := s.waiters.filter fun w => w.uid ≠ uid }
    let s := s.updCtx uid fun c => { c with
      halted := true, role := .off, loops := [], monitor := none, monHit := false, monLost := false, esEn := false, esWin := 0
      esPos := 0, stalled := false, waitFrom := none, inMwait := false, inWfi := false, inClose := false }
    match c.place with
    | .dispatch _ => s
    | .tile t ic =>
      match c.kind with
      | .guest =>
        if s.ctxs.any (fun x => x.loc = some t && x.kind = .guest && !x.halted) then s
        else s.setTile t { s.tile t with releasing := true }
      | .thread .. =>
        let s := s.releaseAll c
        let s := if c.role = .active then s.nextOnCore t ic c.bankIx else s
        s.reap.recheck t
      | _ =>
        let s := s.updTask c.task fun k =>
          { k with scHalted := k.scHalted || !ic, icHalted := k.icHalted || ic, token := token, haltAt := s.cyc, lastGen := c.gen }
        if c.role = .active then s.nextOnCore t ic c.bankIx else s

end Sys2Proof.Machine
end

