-- ==== Sys2Proof/Machine/Mint.lean ====
section
/-! DEFINITION. The Mint (R177 to R183) and the seed stack (R184 to R186). The top of the stack is the head of the list. -/

namespace Sys2Proof.Machine

/-- The mixing function (R184). -/
def mix (z i : Word) : Word :=
  let h := z + (i + 1) * 0x9E3779B97F4A7C15#64
  let h := (h ^^^ (h >>> 30)) * 0xBF58476D1CE4E5B9#64
  let h := (h ^^^ (h >>> 27)) * 0x94D049BB133111EB#64
  h ^^^ (h >>> 31)

/-- x of R179: the exclusive or of the direction numbers that the bits of g pick. -/
def pointGo (g : BitVec 32) : Nat → List (BitVec 32) → BitVec 32
  | _, [] => 0
  | k, v :: vs => (if g.getLsbD k then v else 0) ^^^ pointGo g (k + 1) vs

/-- `stream(t)` of R180. -/
def mintStream (key : Word) (d t : Nat) : Bool := (mix key (w64 (64 * d + 1 + t / 64))).getLsbD (t % 64)

/-- The parity of x[31:b+1] and row_d(b) (R179, R180). -/
def rowParity (key : Word) (d b : Nat) (x : BitVec 32) : Bool :=
  (List.range (31 - b)).foldl (fun a i =>
    a != (x.getLsbD (b + 1 + i) && mintStream key d ((30 - b) * (31 - b) / 2 + i))) false

/-- The scrambled point (R179). -/
def scramble (key : Word) (d : Nat) (x : BitVec 32) : BitVec 32 :=
  let sd := mix key (w64 (64 * d))
  BitVec.ofNat 32 ((List.range 32).foldl (fun a b =>
    a + b2n ((x.getLsbD b != sd.getLsbD b) != rowParity key d b x) * 2 ^ b) 0)

/-- The point of dimension d at an index, taken modulo 2^32 (R179). -/
def Mint.point (m : Mint) (d idx : Nat) : BitVec 32 :=
  let n := BitVec.ofNat 32 idx
  let x := pointGo (n ^^^ (n >>> 1)) 0 (m.table.getD d [])
  if m.scr then scramble m.skey d x else x

/-- A point in a format: n32, f32 or bf16 (R181). -/
def mintFormat (f : BitVec 2) (y : BitVec 32) : Nat :=
  match f.toNat with
  | 0 => y.toNat
  | 1 => (ETy.f32.conv {} (Val.ofDy false ⟨(y.toNat / 2 ^ 8 : Nat), -24⟩)).1
  | _ => (ETy.bf16.conv {} (Val.ofDy false ⟨(y.toNat / 2 ^ 24 : Nat), -8⟩)).1

/-- The draw of a stochastic rounding at an index: bits 31:8 of the point of dimension QSRD (R101). -/
def Mint.draw (m : Mint) (qsrd idx : Nat) : Nat := (m.point qsrd idx).toNat / 2 ^ 8

/-- The QTAB checks of R178 for a dimension. -/
def qtabCheck (m : Mint) (dim : Nat) : M Unit := do
  raiseIf (m.table = []) cQTAB 1
  raiseIf (decide (m.table.length ≤ dim)) cQTAB 2

/-- QDIM or QIDX advanced by a draw (R183). -/
def Ctx.drawn (c : Ctx) (da : Bool) : Ctx := if da then { c with qdim := c.qdim + 1 } else { c with qidx := c.qidx + 1 }

/-- QSEQ into ACC (R183). -/
def qseqOp (da : Bool) (f : BitVec 2) : M Unit := do
  let s ← get
  qtabCheck s.c.mint s.c.qdim.toNat
  emptyAcc
  addJob (.fill (w64 (mintFormat f (s.c.mint.point s.c.qdim.toNat s.c.qidx.toNat))) {} 0)
  modCtx fun c => c.drawn da

/-- QSEQ's store form (R183). -/
def qseqStoreOp (p : Pre) (n : R3) (da : Bool) (f : BitVec 2) (i : Nat) : M Unit := do
  let s ← get
  qtabCheck s.c.mint s.c.qdim.toNat
  let m := s.c.field p 0 i n
  let v ← readP m
  let w := if f = 2 then 2 else 4
  let ea := ringAdd (s.c.desc m) v 0
  raiseIf (ea.toNat % w != 0) cALIGN ea
  storeBytes (s.c.issuer s.c.defscope) ea (leBytes w (mintFormat f (s.c.mint.point s.c.qdim.toNat s.c.qidx.toNat)))
  stepPtr ⟨m, v, .n32, ea⟩ .up
  modCtx fun c => c.drawn da

/-- The direction table that a block holds (R183). -/
def tableOf (d : Nat) (bs : List Byte) : List (List (BitVec 32)) :=
  (List.range d).map fun i => (List.range 32).map fun k => BitVec.ofNat 32 (leNat ((bs.drop (128 * i + 4 * k)).take 4))

/-- QTAB (R183). -/
def qtabOp (n : R3) : M Unit := do
  let a ← readAcc
  let s ← get
  let m := n + s.c.stagger
  let ea ← baseAddr m
  raiseIf (a = 0 || 64 < a.toNat) cQTAB 3
  let d := a.toNat
  let i := s.c.issuer s.c.defscope
  raiseIf (ea.toNat % 64 != 0 || localSize i < ea.toNat + d * 128) cQTAB 4
  let bs ← loadGranules i ea (4 * d)
  modCtx fun c => { c with mint := { table := tableOf d bs, scr := false, skey := c.mint.skey } }

/-- SEEDSTK's TVAL (R186). -/
def seedVal (depth op : Nat) : Word := w64 (depth * 256 + op)

/-- SPUSH's effect on a stack; none when it overflows. -/
def seedPush (st : List Word) (v : Word) : Option (List Word) := if 16 ≤ st.length then none else some (v :: st)

/-- SFORK's effect on a stack. -/
def seedFork (st : List Word) (i : Word) : Option (List Word) :=
  match st with
  | [] => none
  | t :: _ => if 16 ≤ st.length then none else some (mix t i :: st)

/-- A stack written, or SEEDSTK (R186). -/
def setSeeds (op : Nat) (st : Option (List Word)) : M Unit := do
  let s ← get
  match st with
  | none => raise cSEEDSTK (seedVal s.c.seeds.length op)
  | some l => modCtx fun c => { c with seeds := l }

/-- SPUSH (R186). -/
def spushOp : M Unit := do
  let a ← readAcc
  let s ← get
  setSeeds 1 (seedPush s.c.seeds a)

/-- SPOP (R186). -/
def spopOp : M Unit := do
  let s ← get
  match s.c.seeds with
  | [] => raise cSEEDSTK (seedVal 0 2)
  | t :: r => do
    modCtx fun c => { c with seeds := r }
    writeAcc t

/-- SFORK (R186). -/
def sforkOp : M Unit := do
  let a ← readAcc
  let s ← get
  setSeeds 3 (seedFork s.c.seeds a)

/-- SPEEK (R186). -/
def speekOp (n : BitVec 4) : M Unit := do
  let s ← get
  match s.c.seeds[n.toNat]? with
  | none => raise cSEEDSTK (seedVal s.c.seeds.length 4)
  | some v => writeAcc v

/-- QSCR (R183). -/
def qscrOp : M Unit := do
  let s ← get
  match s.c.seeds with
  | [] => raise cSEEDSTK (seedVal 0 5)
  | t :: _ => modCtx fun c => { c with mint := { c.mint with skey := t, scr := true } }

/-- QSEQ (R183). -/
def execQseq (p : Pre) (da : Bool) (f : BitVec 2) (s : State) : Out := repeated true p (fun _ => qseqOp da f) s
/-- QSEQ, store form (R183). -/
def execQseqStore (p : Pre) (n : R3) (da : Bool) (f : BitVec 2) (s : State) : Out := repeated true p (qseqStoreOp p n da f) s
/-- QTAB (R183). -/
def execQtab (n : R3) (s : State) : Out := once 2 (qtabOp n) s
/-- QSCR (R183). -/
def execQscr (s : State) : Out := once 2 qscrOp s
/-- QSCR_OFF (R183). -/
def execQscrOff (s : State) : Out := once 2 (modCtx fun c => { c with mint := { c.mint with scr := false } }) s
/-- SPUSH (R186). -/
def execSpush (s : State) : Out := once 2 spushOp s
/-- SPOP (R186). -/
def execSpop (s : State) : Out := once 2 spopOp s
/-- SFORK (R186). -/
def execSfork (s : State) : Out := once 2 sforkOp s
/-- SPEEK (R186). -/
def execSpeek (n : BitVec 4) (s : State) : Out := once 2 (speekOp n) s

end Sys2Proof.Machine
end

