-- ==== Sys2Proof/Machine/Sched.lean ====
section
/-! DEFINITION. Launch records and queues (R289 to R297), binding (R291, R292, R298, R363), the end of tile tasks and launches
(R304, R402), migration (R303). -/

namespace Sys2Proof.Machine

/-! The record (R289, R290). -/

/-- A launch record from its 64 bytes. -/
def parseLaunch (bs : List Byte) : LaunchRec :=
  let num (o n : Nat) : Nat := leNat ((bs.drop o).take n)
  let w := num 0x14 4
  { entry := w64 (num 0 8), param := w64 (num 8 8), stage := num 0x12 2, tiles := num 0x10 2, weight := w / 2 ^ 28
    prio := w / 2 ^ 24 % 8, arr := w.testBit 23, anyd := w.testBit 22, dist := w / 2 ^ 19 % 8, sup := w.testBit 18
    lr := w.testBit 17, depth := w / 2 ^ 14 % 4, geom := w64 (num 0x18 3), gen := BitVec.ofNat 10 (num 0x1C 2)
    barriers := BitVec.ofNat 32 (num 0x20 4), spad := num 0x24 4, retain := w64 (num 0x28 8), seedv := w64 (num 0x30 8)
    seedops := (bs.drop 0x38).take 8 }

/-- The offset of the first byte that breaks WHY 5 (R290). -/
def recordReserved (bs : List Byte) : Option Nat :=
  let b (o : Nat) : Nat := (bs.getD o 0).toNat
  let fixed : List (Nat × Bool) :=
    [(0x14, b 0x14 != 0), (0x15, b 0x15 % 64 != 0), (0x16, b 0x16 % 2 != 0), (0x17, (b 0x17).testBit 3), (0x1B, b 0x1B != 0),
     (0x1D, b 0x1D / 4 != 0), (0x1E, b 0x1E != 0), (0x1F, b 0x1F != 0)]
  let ended := (List.range 8).map fun i => (List.range i).any fun j => b (0x38 + j) / 64 == 0
  let ops := (List.range 8).map fun i =>
    (0x38 + i, (ended.getD i false && b (0x38 + i) != 0) || (b (0x38 + i) / 64 != 3 && b (0x38 + i) % 64 != 0))
  ((fixed ++ ops).find? fun x => x.2).map fun x => x.1

/-- The local window of an array's tile tasks (R207). -/
def localOf (arr : Bool) : Nat := if arr then 0x24_0000 else 0x14_0000

/-- The first check of R290 that a record fails: WHY and the value. -/
def badLaunch (s : State) (bs : List Byte) (r : LaunchRec) (prv : Priv) (right : Bool) : Option (Nat × Nat) :=
  let t := if r.anyd then (if r.arr then s.refx else s.reas) * 8 else 8
  if !r.anyd && (if r.arr then s.refx else s.reas) ≤ r.dist then some (0, r.dist)
  else if bit r.entry 0 then some (1, r.entry.toNat % 2 ^ 56)
  else if r.tiles = 0 || (r.depth + 1) * t < r.tiles then some (2, r.tiles)
  else if r.prio = 7 && prv ≠ .m then some (3, 7)
  else if prv = .u && r.sup then some (3, 1)
  else if prv = .u && r.lr then some (3, 1)
  else if prv = .u && r.gen ≠ 0 then some (3, r.gen.toNat)
  else if r.weight = 0 then some (4, 0)
  else match recordReserved bs with
    | some o => some (5, o)
    | none =>
      if r.spad % 32 ≠ 0 || localOf r.arr < (r.depth + 1) * r.spad then some (6, r.spad)
      else if !right then some (7, 0)
      else none

/-- The record's seed operations applied to a stack (R185, R289); the stack at the operation that fails otherwise, whose depth SEEDSTK
reports (DESIGN CHOICE, log entry 126: R186 names no strand's stack). -/
def seedOps (v : Word) : List Byte → List Word → Except (List Word) (List Word)
  | [], st => .ok st
  | b :: bs, st =>
    let go (x : Option (List Word)) : Except (List Word) (List Word) := match x with
      | none => .error st
      | some l => seedOps v bs l
    match b.toNat / 64 with
    | 0 => .ok st
    | 1 => go (seedPush st v)
    | 2 => go (match st with
      | [] => none
      | _ :: r => some r)
    | _ => go (seedFork st (w64 (b.toNat % 64)))

/-! Queues (R295 to R297). -/

/-- The queue of a record: its district's, or its array's. -/
def State.queueOf (s : State) (r : LaunchRec) : List Queued :=
  if r.anyd then s.arrayQ[b2n r.arr]'(by cases r.arr <;> decide) else (s.district (distIdx r.arr r.dist)).queue

/-- V_t of a tenant in a record's queue. -/
def State.vtime (s : State) (r : LaunchRec) (t : Nat) : Nat :=
  if r.anyd then ((s.arrayV[b2n r.arr]'(by cases r.arr <;> decide)).toList).getD t 0
  else ((s.district (distIdx r.arr r.dist)).vtime.toList).getD t 0

/-- A list's element changed, in a vector. -/
def vset {α : Type} {n : Nat} (v : Vector α n) (i : Nat) (x : α) : Vector α n := if h : i < n then v.set i x h else v

/-- The state with V_t of a record's queue changed. -/
def State.setVtime (s : State) (r : LaunchRec) (t v : Nat) : State :=
  if r.anyd then { s with arrayV := vset s.arrayV (b2n r.arr) (vset (s.arrayV[b2n r.arr]'(by cases r.arr <;> decide)) t v) }
  else
    let d := distIdx r.arr r.dist
    s.setDistrict d { s.district d with vtime := vset (s.district d).vtime t v }

/-- The state with a record's queue changed. -/
def State.setQueue (s : State) (r : LaunchRec) (q : List Queued) : State :=
  if r.anyd then { s with arrayQ := vset s.arrayQ (b2n r.arr) q }
  else
    let d := distIdx r.arr r.dist
    s.setDistrict d { s.district d with queue := q }

/-- The least of a list of numbers. -/
def minOf : List Nat → Option Nat
  | [] => none
  | x :: xs => some (xs.foldl min x)

/-- A record enters its queue; a tenant that had none queued there has its V_t raised (R297). -/
def State.enqueue (s : State) (q : Queued) : State :=
  let l := s.queueOf q.lrec
  let s' :=
    if l.any (fun x => x.tenant = q.tenant) then s
    else match minOf (l.map fun x => s.vtime q.lrec x.tenant) with
      | none => s
      | some m => s.setVtime q.lrec q.tenant (max (s.vtime q.lrec q.tenant) m)
  s'.setQueue q.lrec (l ++ [q])

/-- Every queued record. -/
def State.allQueued (s : State) : List Queued := s.districts.flatMap (fun d => d.queue) ++ s.arrayQ.toList.flatten

/-- The effective priority (R296), as far as AGING has taken it. -/
def Queued.prio (q : Queued) : Nat := if q.lrec.prio = 7 then 7 else min (q.lrec.prio + q.aged) 6

/-- AGING is due: 2^20 more cycles have passed since the record entered its queue (R296). -/
def Queued.due (q : Queued) (cyc : Nat) : Bool := decide (q.aged < (cyc - q.enq) / 2 ^ 20)

/-- The first record is older than the second. -/
def Queued.older (a b : Queued) : Bool := decide (a.enq < b.enq) || (a.enq == b.enq && decide (a.num < b.num))

/-- The lowest V_t that a tenant has over its records of a list, each in the queue that holds it (R296; log entry 110). -/
def State.lowV (s : State) (l : List Queued) (t : Nat) : Nat :=
  (minOf ((l.filter fun q => q.tenant = t).map fun q => s.vtime q.lrec t)).getD 0

/-- Of records of one effective priority, the first is selected before the second (R296, R297): the tenant with the lowest V_t,
the lower number on a tie, and of one tenant's the oldest. -/
def State.before (s : State) (l : List Queued) (a b : Queued) : Bool :=
  let va := s.lowV l a.tenant
  let vb := s.lowV l b.tenant
  if a.tenant = b.tenant then a.older b
  else if va ≠ vb then decide (va < vb)
  else decide (a.tenant < b.tenant)

/-- The array of a district's index. -/
def distArr (d : Nat) : Bool := decide (6 ≤ d)

/-- The record that a district's scheduler selects from its own queue and its array's (R296). -/
def State.selected (s : State) (d : Nat) : Option Queued :=
  let own := (s.district d).queue
  let arr := s.arrayQ[b2n (distArr d)]'(by cases distArr d <;> decide)
  let top := (own ++ arr).foldl (fun m q => max m q.prio) 0
  let l := (own ++ arr).filter fun q => q.prio = top
  l.foldl (fun best q => match best with
    | none => some q
    | some b => if s.before l q b then some q else best) none

/-! Binding (R291, R292, R295, R298). -/

/-- The tile is retained for the record's successor (R304). -/
def State.retainedFor (s : State) (t : Loc) (q : Queued) : Bool :=
  match (s.tile t).retain with
  | none => false
  | some r => r.token = q.lrec.retain && r.tenant = q.tenant && q.lrec.retain ≠ 0 && decide (s.cyc < r.since + 2 ^ 20)

/-- A named generation does not keep the tile from the record (R363); a fresh one never does (R295). -/
def State.genAllows (s : State) (t : Loc) (q : Queued) : Bool :=
  let g := q.lrec.gen
  let ti := s.tile t
  if g = 0 then true
  else !ti.sweeps.contains g && !ti.arming.any (fun a => a.gen = g) &&
    !s.ctxs.any (fun c => c.onTile t && c.holdsGen g && c.tenant ≠ q.tenant) &&
    !ti.retain.any (fun r => r.gen = g && r.tenant ≠ q.tenant) &&
    !(ti.fillGen = some g && !((s.tenant q.tenant).rfx.getLsbD (8 * t.dist + t.tile)))

/-- The tile can be bound for the record: free (R295), or retained for it (R304). -/
def State.bindable (s : State) (t : Loc) (q : Queued) : Bool :=
  let ti := s.tile t
  s.hasTile t && !s.tasks.any (fun k => k.tile = t) && !ti.cores.any (fun c => c.killed) && ti.held.isNone &&
    (ti.retain.isNone || s.retainedFor t q) && ti.locked.isNone && s.genAllows t q

/-- A complete save in an area, unchanged (R344, R347). -/
def State.goodSave (s : State) (area : Nat) : Option (Saved × Task × Launch) :=
  (s.saved.reverse.find? fun v => v.taskRec.isSome && v.key = area && Mem.bytes s.mem area v.bytes.length = v.bytes).bind fun v =>
    v.taskRec.bind fun k => (s.launchOf k.launch).map fun l => (v, k, l)

/-- A free tile of the launch's array for a saved task, chosen at priority 7 (R347): the first in order whose district does not reserve it
for a record of that priority; every generation of its strands must be one that the tile can hold (R363, log entry 118). -/
def State.resumeTile (s : State) (v : Saved) (l : Launch) : Option Loc :=
  let gs := (v.ctxs.flatMap fun c => c.gen :: c.genrd.toList).eraseDups
  let q (g : Gen) : Queued := { num := l.num, lrec := { l.lrec with gen := g, retain := 0, prio := 7 }, tenant := l.tenant, enq := 0 }
  (s.tilesOf l.lrec.arr).find? fun t =>
    !(s.selected (distIdx t.arr t.dist)).any (fun x => x.prio = 7) && gs.all fun g => s.bindable t (q g)

/-- The tiles for which a RESUME stands before every record of lower priority (R347). -/
def State.resumeTiles (s : State) : List Loc :=
  s.ctxs.flatMap fun c => c.jobs.filterMap fun j => match j with
    | .resume area => (s.goodSave area).bind fun x => if (s.taskOf x.2.1.num).isSome then none else s.resumeTile x.1 x.2.2
    | _ => none

/-- The number of tiles a record needs (R298). -/
def Queued.need (q : Queued) : Nat := if q.only.isSome then 1 else cdiv q.lrec.tiles (q.lrec.depth + 1)

/-- The tiles that a selected record takes, if there are enough: those retained for it first, then free ones, each in ascending
order, from the districts whose scheduler selects it, none that a RESUME is to have (R298, R304, R347). -/
def State.tilesFor (s : State) (q : Queued) : Option (List Loc) :=
  let mine (t : Loc) : Bool := (s.selected (distIdx t.arr t.dist)).any fun x => x.num = q.num && x.only = q.only
  let kept := if q.prio = 7 then [] else s.resumeTiles
  let all := (s.tilesOf q.lrec.arr).filter fun t => mine t && s.bindable t q && !kept.contains t
  let l := (all.filter fun t => s.retainedFor t q) ++ all.filter fun t => !s.retainedFor t q
  if q.need ≤ l.length then some (l.take q.need) else none

/-- The granted barriers are free in the districts of the tiles (R298). -/
def State.barriersFree (s : State) (q : Queued) (ts : List Loc) : Bool :=
  q.only.isSome || (List.range 32).all fun b => !q.lrec.barriers.getLsbD b || ts.all fun t =>
    ((s.district (distIdx t.arr t.dist)).barriers.toList.getD b {}).grant.isNone

/-- The contexts of a tile task at its start (R291). -/
def startCtx (s : State) (l : Launch) (k : Task) (ic : Bool) (uid : Nat) (role : Role) (rd0 : Gen) (kick : Bool) : Ctx :=
  let rec' := l.lrec
  let r (v : Word) : Reg := ⟨v, true, k.gen⟩
  let base := k.rank % (rec'.depth + 1) * rec'.spad
  let f (i : Nat) : Nat := max 1 (bits rec'.geom (8 * i + 7) (8 * i))
  { uid := uid, kind := .task, place := .tile k.tile ic, role := role, tenant := l.tenant, launch := l.num, task := k.num
    lr := rec'.lr, acc := r rec'.param, p := (Vector.replicate 8 (r 0)).set 0 (r (w64 base)) (by decide)
    k := Vector.replicate 8 (r 0), pc := rec'.entry, prv := if rec'.sup then .s else .u, reflex := k.tile.arr, det := l.det
    quantum := l.quantum, mixtrap := l.mixtrap, gen := k.gen, genrd := (Vector.replicate 3 0).set 0 rd0 (by decide)
    mgeo0 := w64 (f 2 * 65536 + f 1 * 256 + f 0)
    mgeo1 := w64 (k.rank / (f 0 * f 1) % f 2 * 65536 + k.rank / f 0 % f 1 * 256 + k.rank % f 0)
    rank := k.rank, nrank := rec'.tiles, stage := rec'.stage, ipend := if kick then 16 else 0, seeds := l.seeds
    spadBase := base
    bankIx := match (s.activeOf k.tile ic, role) with
      | (some a, .shadow) => !a.bankIx
      | _ => false }

/-- A matrix bank as a clear leaves it (R155). -/
def Bank.cleared : Bank := {}

/-- Channel configuration returned to reset (R357). -/
def resetChans (v : Vector Chan 8) (p : Nat → Bool) : Vector Chan 8 :=
  v.mapIdx fun i c => if p i then { c with src := false, out := 0 } else c

/-- The banks of a reason tile power up: zeros, generation 0, full (R211), channels 0 to 5 at reset (R357). -/
def State.powerUp (s : State) (t : Loc) : State :=
  let s := if t.arr then s else s.wipe (tileKey t 0 / 32) (tileKey t 0x14_0000 / 32) fun _ => true
  s.setTile t { s.tile t with powered := true, chans := resetChans (s.tile t).chans fun i => t.arr || decide (i < 6) }

/-- Matrix banks cleared at a binding (R155). -/
def clearBanks (t : Loc) (v : Vector Bank 3) : Vector Bank 3 := v.mapIdx fun i b => if t.arr || decide (i < 2) then .cleared else b

/-- A tile made ready for its first task of a launch (R155, R211, R213, R304). -/
def State.readyTile (s : State) (t : Loc) (l : Launch) (retained : Bool) : State :=
  let s := if retained then s else s.powerUp t
  let ti := s.tile t
  s.setTile t { ti with banks := clearBanks t ti.banks, locked := if t.arr then some l.num else none, powered := true }

/-- The counters of the tiles can hand out the fresh generations that a record's tasks take; until then its binding waits for
the scrubber (R291, R362). -/
def State.gensReady (s : State) (q : Queued) (ts : List Loc) : Bool :=
  q.lrec.gen ≠ 0 || (ts.zipIdx.all fun x =>
    let ranks := if q.only.isSome then 1 else min (q.lrec.depth + 1) (q.lrec.tiles - x.2 * (q.lrec.depth + 1))
    s.hasGens x.1 1023 (nextGen (s.tile x.1).genLast) ranks)

/-- One rank bound to a tile (R291): the task, its generation and its two contexts. The counter has a value: `gensReady`. -/
def State.bindRank (s : State) (l : Launch) (t : Loc) (rank : Nat) (rd0 : Gen) (kick : Bool) : State :=
  let g := if l.lrec.gen = 0 then s.takeGen t
    else some (l.lrec.gen, s.setTile t { s.tile t with everOut := l.lrec.gen :: (s.tile t).everOut.erase l.lrec.gen })
  match g with
  | none => s
  | some (g, s) =>
    let k : Task := { num := s.next, launch := l.num, rank := rank, tile := t, gen := g }
    let role (ic : Bool) : Role :=
      if (s.coreCtxs t ic).any (fun c => c.kind = .task) then .parked s.cyc
      else if (s.activeOf t ic).isSome then .shadow else .active
    let sc := startCtx s l k false (s.next + 1) (role false) rd0 kick
    let ic := startCtx s l k true (s.next + 2) (role true) rd0 kick
    { (s.addCtx sc).addCtx ic with next := s.next + 3, tasks := s.tasks ++ [k] }

/-- RD0 of the tasks bound to a tile: the predecessor's generation (R304), the fill generation of a tile assigned to the tenant
(R215), or 0. -/
def State.rd0 (s : State) (t : Loc) (q : Queued) : Gen :=
  let ti := s.tile t
  if s.retainedFor t q then (ti.retain.map fun r => r.gen).getD 0
  else if t.arr && (s.tenant q.tenant).rfx.getLsbD (8 * t.dist + t.tile) then ti.fillGen.getD 0 else 0

/-- A tile bound for the ranks given. A predecessor's generation is in use throughout, first as the retained tile's, then as RD0 of the
tasks, so that no task takes it afresh (R362, R365). -/
def State.bindTile (s : State) (l : Launch) (q : Queued) (t : Loc) (ranks : List Nat) : State :=
  let rd := s.rd0 t q
  let s := s.readyTile t l (s.retainedFor t q)
  let s := ranks.foldl (fun s r => s.bindRank l t r rd q.marked) s
  (s.setTile t { s.tile t with retain := none }).recheck t

/-- The barriers granted to a launch set up in the districts of its tasks (R320). -/
def State.grantBarriers (s : State) (l : Launch) : State :=
  (List.range 8).foldl (fun s d =>
    let n := (s.tasks.filter fun k => k.launch = l.num && distIdx k.tile.arr k.tile.dist = d).length
    if n = 0 then s
    else
      let f (b : Nat) (x : Barrier) : Barrier := if l.lrec.barriers.getLsbD b then { expect := 2 * n, grant := some l.num } else x
      s.setDistrict d { s.district d with barriers := (s.district d).barriers.mapIdx f }) s

/-- A record leaves its queue. -/
def State.unqueue (s : State) (q : Queued) : State := s.setQueue q.lrec ((s.queueOf q.lrec).filter fun x => !(x.num = q.num && x.only = q.only))

/-- A whole launch bound to its tiles (R298). -/
def State.bindLaunch (s : State) (q : Queued) (ts : List Loc) : State :=
  let te := s.tenant q.tenant
  let tileOf (r : Nat) : Loc := ts.getD (r / (q.lrec.depth + 1)) {}
  let l : Launch :=
    { num := q.num, lrec := q.lrec, tenant := q.tenant, det := bit te.detmode 0, quantum := te.quantum, mixtrap := te.mixtrap
      root := q.root, seeds := q.seeds, ranks := (List.range q.lrec.tiles).map fun r => { tile := tileOf r } }
  let s := (s.unqueue q).setVtime q.lrec q.tenant (s.vtime q.lrec q.tenant + ts.length * (4096 / q.lrec.weight))
  let s := { s with launches := s.launches ++ [l] }
  let s := ts.foldl (fun s t => s.bindTile l q t ((List.range q.lrec.tiles).filter fun r => tileOf r = t)) s
  s.grantBarriers l

/-- One rank of a bound launch bound anew (R397). -/
def State.bindOnly (s : State) (q : Queued) (rank : Nat) (t : Loc) : State :=
  match s.launchOf q.num with
  | none => s.unqueue q
  | some l =>
    let s := (s.unqueue q).setVtime q.lrec q.tenant (s.vtime q.lrec q.tenant + 4096 / q.lrec.weight)
    let s := s.updLaunch l.num fun l => { l with ranks := l.ranks.set rank { tile := t } }
    s.bindTile l q t [rank]

/-- LAUNCH_BIND of a record (R298): none while it is not selected, or its tiles or barriers are not there, or AGING is due. -/
def State.bind (s : State) (q : Queued) : Option State :=
  if s.allQueued.any (fun x => x.due s.cyc) then none
  else match s.tilesFor q with
    | none => none
    | some ts =>
      if !s.barriersFree q ts || !s.gensReady q ts then none
      else match q.only with
        | none => some (s.bindLaunch q ts)
        | some r => some (s.bindOnly q r (ts.getD 0 {}))

/-! The end of tasks and launches (R304). -/

/-- An entry of the completion FIFO is accepted, or held behind it (R402). -/
def State.fifoPush (s : State) (w : Word) : State := { s with fifo := s.fifo ++ [w] }
/-- The FIFO has room (R402). -/
def State.fifoRoom (s : State) : Bool := decide (s.fifo.length < 512)

/-- TYPE 1 (R402). -/
def rootEntry (tenant : Nat) (pa : Word) : Word := w64 (1 * 2 ^ 60 + tenant % 16 * 2 ^ 56 + pa.toNat % 2 ^ 48)
/-- TYPE 2 and 3 (R402). -/
def coreEntry (ty tenant : Nat) (core : BitVec 8) (cause : Byte) : Word :=
  w64 (ty * 2 ^ 60 + tenant % 16 * 2 ^ 56 + core.toNat * 2 ^ 48 + cause.toNat * 2 ^ 40)

/-- A reason tile's banks power down: poison goes, monitors on them are lost (R304, R317, R395). -/
def State.powerOff (s : State) (t : Loc) : State :=
  if t.arr then s
  else
    let lo := tileKey t 0 / 32
    let hi := tileKey t 0x14_0000 / 32
    let s := s.wipe lo hi fun _ => true
    let s := s.mapCtx fun c => if c.monitor.any (fun g => decide (lo ≤ g) && decide (g < hi)) then c.loseMonitor else c
    s.setTile t { s.tile t with powered := false }

/-- The votes that a task's strands have cast and that are not answered stay with the launch (R322). -/
def State.keepVotes (s : State) (k : Task) : State :=
  let votes := (s.ctxs.filter fun c => c.task = k.num && c.kind = .task).flatMap fun c => c.jobs.filterMap fun j => match j with
    | .vote n op v => some (n, op, v)
    | _ => none
  s.updLaunch k.launch fun l => { l with cast := l.cast ++ votes }

/-- A task leaves its tile: its contexts are gone; the tile powers down, is retained or unlocked when it was the last. -/
def State.leaveTile (s : State) (k : Task) (tenant : Nat) (token : Option Word) : State :=
  let s := s.keepVotes k
  let s := s.dropCtx fun c => c.task = k.num && c.kind = .task && c.loc = some k.tile
  let s := { s with tasks := s.tasks.filter fun x => x.num ≠ k.num, waiters := s.waiters.filter fun w => !(w.sem && w.key / 16 = k.num) }
  let t := k.tile
  let last := !s.tasks.any fun x => x.tile = t
  let s :=
    if !last then s
    else match (if t.arr then none else token) with
      | some w => s.setTile t { s.tile t with retain := some { token := w, tenant := tenant, gen := k.lastGen, since := k.haltAt } }
      | none => s.powerOff t
  let s :=
    if t.arr && !s.tasks.any (fun x => x.tile = t && x.launch = k.launch) then s.setTile t { s.tile t with locked := none } else s
  let d := distIdx t.arr t.dist
  let s :=
    if s.liveTasks.any (fun x => x.launch = k.launch && distIdx x.tile.arr x.tile.dist = d) then s
    else s.setDistrict d { s.district d with dq := (s.district d).dq.filter fun x => x.launch ≠ k.launch }
  s.recheck t

/-- The launch is over: its barriers are free again, its root completion is reported (R298, R402). -/
def State.endLaunch (s : State) (l : Launch) : State :=
  let free (b : Barrier) : Barrier := if b.grant = some l.num then { b with grant := none } else b
  let s := { s with
    launches := s.launches.filter fun x => x.num ≠ l.num
    colls := s.colls.filter fun x => x.launch ≠ l.num
    districts := s.districts.map fun d => { d with barriers := d.barriers.map free } }
  match l.root with
  | none => s
  | some pa => s.fifoPush (rootEntry l.tenant pa)

/-- The rank's entry is marked ended; the launch ends with its last rank. -/
def State.endRank (s : State) (launch rank : Nat) : State :=
  let s := s.updLaunch launch fun l =>
    { l with ranks := l.ranks.mapIdx fun i e => if i = rank then { e with ended := true } else e }
  match s.launchOf launch with
  | none => s
  | some l => if l.ranks.all fun e => e.ended then s.endLaunch l else s

/-- Work of the context that is not yet performed: accesses and engine commands (R245); a vote that it has cast is none. -/
def State.unperformed (s : State) (c : Ctx) : Bool :=
  s.hasCmd c.uid || c.jobs.any fun j => match j with
    | .fill .. | .leaf .. | .vote .. => false
    | _ => true

/-- TILE_TASK_END of a task (R304, R245, R402). -/
def State.endTask (s : State) (k : Task) : Option State :=
  match s.launchOf k.launch with
  | none => none
  | some l =>
    let lastRank := (l.ranks.mapIdx fun i e => e.ended || i = k.rank).all id
    if !(k.scHalted && k.icHalted) || s.ctxs.any (fun c => c.task = k.num && c.kind = .task && s.unperformed c) ||
        (lastRank && l.root.isSome && !s.fifoRoom) || (s.tile k.tile).held.isSome then none
    else some ((s.leaveTile k l.tenant k.token).endRank k.launch k.rank)

/-! Parking and migration (R301 to R303). -/

/-- LOADi of a tile (R302): ready contexts, active and not waiting, plus parked. -/
def State.load (s : State) (t : Loc) : Nat :=
  (s.ctxs.filter fun c => c.loc = some t && (match c.role with
    | .active => c.runs && !c.stalled
    | .parked _ => true
    | _ => false)).length

/-- DLOAD of a district (R302). -/
def State.dload (s : State) (arr : Bool) (d : Nat) : Word :=
  w64 ((List.range 8).foldl (fun a i => a + min (s.load ⟨arr, d, i⟩) 255 * 2 ^ (8 * i)) 0)

/-- The state is compact (R303): every register but those listed holds its reset value. -/
def Ctx.compact (c : Ctx) : Bool :=
  let d : Ctx := {}
  c.loops = [] && c.seeds = [] && c.mint = {} && !c.esEn && c.esWin = 0 && c.esPos = 0 && c.acc.full && c.p.all (fun r => r.full) &&
    c.k.all (fun r => r.full) && c.vq = [] && c.mq = [] && c.jobs = [] && c.reports = [] && c.barReps = [] &&
    (c.pd.toList.filter fun x => x.base ≠ 0 || x.span ≠ 0).length ≤ 1 && c.mfmt = d.mfmt && c.mscla = d.mscla &&
    c.msclb = d.msclb && c.msat = d.msat && c.msclo = d.msclo && c.sthr = d.sthr && c.slim = d.slim && c.vocabn = d.vocabn &&
    c.vocabp = d.vocabp && c.qdim = 0 && c.qidx = 0 && c.qsrd = 0 && c.mgeo0 = 0x010101 && c.mgeo1 = 0 && c.trap = {} &&
    c.mtrap = {} && c.tscratch = 0 && c.erec0 = 0 && c.erec1 = 0 && c.erec2 = 0 && c.sqsel = 0 && c.esrsel = 0 &&
    c.evxsel = 0 && c.chsel = 0 && c.fpsel = 0 && c.linkLost.isNone && c.fpxReq = [] && c.fpx = [] && c.check = [] &&
    c.retry.isNone && c.supEntry.isNone && !c.inHandler

/-- The task's contexts. -/
def State.taskCtxs (s : State) (k : Task) : List Ctx := s.ctxs.filter fun c => c.task = k.num && c.kind = .task

/-- The task may migrate (R303, R197). -/
def State.canMigrate (s : State) (k : Task) : Bool :=
  let cs := s.taskCtxs k
  !k.tile.arr && !k.moving && cs.length = 2 && cs.all (fun c => c.compact && !s.hasCmd c.uid && !c.det && !c.halted && (match c.role with
    | .parked t => decide (t + 2 ^ 14 ≤ s.cyc)
    | _ => false)) && k.sems.all (fun n => n = 0) && (s.launchOf k.launch).any (fun l => l.lrec.spad = 0)

/-- The tile can take the task: free and not reserved for a selected record (R298), or with tasks of its launch and room under DEPTH
(R303); every generation of its strands must
be one that the tile can hold (R363, log entry 118). -/
def State.takes (s : State) (t : Loc) (k : Task) (l : Launch) : Bool :=
  let on := s.tasks.filter fun x => x.tile = t
  let gs := ((s.taskCtxs k).flatMap fun c => c.gen :: c.genrd.toList).eraseDups
  let q (g : Gen) : Queued := { num := l.num, lrec := { l.lrec with gen := g, retain := 0 }, tenant := l.tenant, enq := 0 }
  gs.all fun g =>
    if on = [] then s.bindable t (q g) && (s.selected (distIdx t.arr t.dist)).isNone
    else on.all (fun x => x.launch = l.num) && decide (on.length ≤ l.lrec.depth) && s.genAllows t (q g)

/-- The tile that the task moves to (R303). -/
def State.migrateTo (s : State) (k : Task) (l : Launch) : Option Loc :=
  let ts := ((List.range 8).map fun i => ({ k.tile with tile := i } : Loc)).filter fun t =>
    t ≠ k.tile && s.takes t k l && decide (s.load t + 2 ≤ s.load k.tile)
  ts.foldl (fun best t => match best with
    | none => some t
    | some b => if s.load t < s.load b then some t else best) none

/-- The generations in use on a tile count as handed out there: those that arrive with a context (R362, R363). -/
def State.noteGens (s : State) (t : Loc) : State :=
  let ti := s.tile t
  s.setTile t { ti with everOut := ti.everOut ++ (s.gensHeld t).filter fun v => v ≠ 0 && !ti.everOut.contains v }

/-- The strands of a task that have been on their way land on its tile, parked; its rank is no longer in transit (R303, R347). -/
def State.land (s : State) (k : Task) : State :=
  let t := k.tile
  let s := s.mapCtx fun c => if c.task = k.num && c.kind = .task && c.role = .transit then { c with role := .parked s.cyc } else c
  let s := s.updTask k.num fun x => { x with moving := false }
  let s := s.updLaunch k.launch fun l => { l with ranks := l.ranks.mapIdx fun i e => if i = k.rank then { e with transit := false } else e }
  let s := if (s.activeOf t false).isNone then s.nextOnCore t false false else s
  let s := if (s.activeOf t true).isNone then s.nextOnCore t true false else s
  (s.noteGens t).recheck t

/-- MIGRATE (R303): the strands of a task are sent to another tile, and its rank is in transit; then they land there. -/
def State.migrate (s : State) (k : Task) : Option State :=
  match s.launchOf k.launch with
  | none => none
  | some l =>
    if k.moving then some (s.land k)
    else if !s.canMigrate k then none
    else match s.migrateTo k l with
      | none => none
      | some t =>
        let fresh := !s.tasks.any fun x => x.tile = t
        let s := if fresh then s.readyTile t l false else s
        let s := s.mapCtx fun c =>
          if c.task = k.num && c.kind = .task then { c.loseMonitor with place := .tile t c.isIc, role := .transit } else c
        let s := s.updTask k.num fun x => { x with tile := t, moving := true }
        let s := s.updLaunch l.num fun l => { l with ranks := l.ranks.set k.rank { tile := t, transit := true } }
        let s := if s.tasks.any (fun x => x.tile = k.tile) then s else s.powerOff k.tile
        some (s.recheck k.tile)

/-- YIELD's exchange (R301, R312): the context parks when a parked context of its core role waits. -/
def State.yieldCtx (s : State) : State :=
  match s.c.place, s.c.kind with
  | .tile t ic, .task => match s.longestParked t ic with
    | none => s
    | some n =>
      let b := s.c.bankIx
      ({ s with c := { s.c.loseMonitor with role := .parked s.cyc } }).enter n.uid b
  | _, _ => s

end Sys2Proof.Machine
end

