-- ==== Sys2Proof/Decode.lean ====
section
/-! DEFINITION. The decoder: 16-bit words to an instruction, in the order of checks of R45 and R49 (03_encoding), and
after it the encoder. -/

namespace Sys2Proof

/-- What decoding finds. -/
inductive Decoded where
  /-- an instruction and the number of its words -/
  | ok (i : Instr) (n : Nat)
  /-- ILLEGAL with WHY, WORD and BITS (R49) -/
  | bad (why : BitVec 4) (word : BitVec 3) (w : Half)
  /-- the words end before the instruction does -/
  | short
  deriving DecidableEq, Repr

/-- The operand fields of the prefix words met so far (R48). -/
structure Chain where
  g : Option (BitVec 9) := none
  m : Option (BitVec 9) := none
  x : Option (BitVec 9) := none
  v : Option (BitVec 9 × Half) := none
  run : List (BitVec 9) := []
  rep : Option (BitVec 9) := none
  deriving DecidableEq, Repr

/-- The number of prefixes (R48). -/
def Chain.count (c : Chain) : Nat :=
  b2n c.g.isSome + b2n c.m.isSome + b2n c.x.isSome + b2n c.v.isSome + c.run.length + b2n c.rep.isSome

/-- The number of words. -/
def Chain.words (c : Chain) : Nat := c.count + b2n c.v.isSome

/-- How far along the order of R48 the chain is. -/
def Chain.rank (c : Chain) : Nat :=
  if c.rep.isSome then 6 else if !c.run.isEmpty then 5 else if c.v.isSome then 4 else if c.x.isSome then 3
  else if c.m.isSome then 2 else if c.g.isSome then 1 else 0

/-- A prefix of rank `r` may follow (R48). -/
def Chain.may (c : Chain) (r : Nat) : Bool := decide (c.count < 4) && (decide (c.rank < r) || (r == 5 && c.rank == 5))

/-- The page that the instruction word is read on (R44, R51). -/
def Chain.page (c : Chain) : BitVec 2 :=
  match c.g with
  | none => 0
  | some f => f.extractLsb' 0 2

/-- The assigned opcodes of a page (R64, R65). -/
def assigned (page : BitVec 2) (op : Nat) : Bool :=
  if page = 0 then
    (1 ≤ op && op ≤ 0x2C) || (0x30 ≤ op && op ≤ 0x3A) || (0x40 ≤ op && op ≤ 0x4E) || (0x50 ≤ op && op ≤ 0x5F)
  else if page = 1 then 1 ≤ op && op ≤ 0x24
  else if page = 2 then
    (1 ≤ op && op ≤ 5) || (8 ≤ op && op ≤ 0x0C) || (0x10 ≤ op && op ≤ 0x12) || (0x18 ≤ op && op ≤ 0x1D) ||
    (0x20 ≤ op && op ≤ 0x22) || (0x24 ≤ op && op ≤ 0x2C) || (0x30 ≤ op && op ≤ 0x31) || (0x38 ≤ op && op ≤ 0x39)
  else 1 ≤ op && op ≤ 0x18

/-- What scanning the words finds. -/
inductive Scan where
  /-- the chain and the instruction word -/
  | ok (c : Chain) (w : Half)
  /-- WHY 1 or 3 at a word (R45) -/
  | bad (why : BitVec 4) (word : Nat) (w : Half)
  | short
  deriving DecidableEq, Repr

/-- The words in order up to the instruction word, stopped by WHY 1 and WHY 3 (R45, R48, R65). -/
def scan (c : Chain) : List Half → Scan
  | [] => .short
  | w :: ws =>
    match (opc w).toNat with
    | 0x78 => if c.may 5 then scan { c with run := c.run ++ [opd w] } ws else .bad 3 c.words w
    | 0x79 => if c.may 1 then scan { c with g := some (opd w) } ws else .bad 3 c.words w
    | 0x7A => if c.may 3 then scan { c with x := some (opd w) } ws else .bad 3 c.words w
    | 0x7B => if c.may 2 then scan { c with m := some (opd w) } ws else .bad 3 c.words w
    | 0x7C =>
      if c.may 4 then
        match ws with
        | [] => .short
        | w2 :: ws' => scan { c with v := some (opd w, w2) } ws'
      else .bad 3 c.words w
    | 0x7E => if c.may 6 then scan { c with rep := some (opd w) } ws else .bad 3 c.words w
    | op => if assigned c.page op then .ok c w else .bad 1 c.words w

/-- The unit that the instruction acts on is absent on this core (R66, R156, R390). -/
def unitAbsent (k : CoreKind) (page : BitVec 2) (w : Half) : Bool :=
  let op := (opc w).toNat
  match k with
  | .dispatch =>
    if page = 0 then op == 0x37 || op == 0x38 || (0x45 ≤ op && op ≤ 0x4A) || (op == 0x44 && !(opd w).getLsbD 3)
    else if page = 1 then true
    else if page = 2 then
      (1 ≤ op && op ≤ 5) || (8 ≤ op && op ≤ 0x0C) || (0x18 ≤ op && op ≤ 0x1B) || (0x20 ≤ op && op ≤ 0x22) ||
      (0x28 ≤ op && op ≤ 0x2C) || op == 0x30 || op == 0x31 || op == 0x39
    else op == 0x0C || op == 0x0D
  | .staging => (page = 2 && (1 ≤ op && op ≤ 5)) || (page = 3 && (0x11 ≤ op && op ≤ 0x16))
  | .issuing => page = 3 && (0x11 ≤ op && op ≤ 0x16)

/-- A form of SRC9 (R60); `none` where R61 calls the value illegal. -/
def src9 (f : BitVec 9) : Option Src9 :=
  match (fHi f).toNat with
  | 0 => some (.mem ⟨.plain, fMid f, fLo f⟩)
  | 1 => some (.mem ⟨.up, fMid f, fLo f⟩)
  | 2 => some (.mem ⟨.down, fMid f, fLo f⟩)
  | 3 => some (.mem ⟨.sync, fMid f, fLo f⟩)
  | 4 => if fLo f = 0 then some (.ptr (fMid f)) else none
  | 5 => if fLo f = 0 then some (.mask (fMid f)) else none
  | 6 => some (.imm (fImm6 f))
  | _ => if fMid f = 0 then (match (fLo f).toNat with
      | 0 => some .acc
      | 1 => some .cyc
      | _ => none) else none

/-- What SRC9's form lets lead a word of layout S, whether or not R61 lets the value stand (R67). -/
def acceptSrc (mac : Bool) (f : BitVec 9) : Accept :=
  match (fHi f).toNat with
  | 0 | 1 | 2 | 3 => { m := true, imm := true, rep := true, s0 := true, s2 := true, xq := mac, s1 := mac }
  | 4 => { rep := true, s0 := true, xq := mac, s1 := mac, needX := mac }
  | 6 => { imm := true, rep := true, s2 := true, xq := mac, s1 := mac, needX := mac }
  | _ => { rep := true, xq := mac, s1 := mac, needX := mac }

/-- The prefixes that an opcode accepts on page 0 (R64). -/
def accept0 (op : Nat) (f : BitVec 9) : Accept :=
  if op = 0x01 || op = 0x1D || (0x26 ≤ op && op ≤ 0x2C) then { rep := true }
  else if 2 ≤ op && op ≤ 0x1B then acceptSrc false f
  else if op = 0x1C then acceptSrc true f
  else if op = 0x1E || op = 0x1F then { imm := true, rep := true, s2 := true }
  else if op = 0x20 || op = 0x21 || op = 0x25 then { rep := true, s0 := true }
  else if 0x22 ≤ op && op ≤ 0x24 then { imm := true, rep := true, s0 := true, s2 := true }
  else if 0x30 ≤ op && op ≤ 0x32 then { imm := true }
  else if op = 0x42 || (0x4C ≤ op && op ≤ 0x4E) then { m := true }
  else if op = 0x59 then { m := true, rep := true, s0 := true, s1 := true }
  else if 0x50 ≤ op && op ≤ 0x5A then { m := true, rep := true, s0 := true }
  else if 0x5C ≤ op && op ≤ 0x5E then { m := true, rep := true, s0 := true }
  else if op = 0x5F then { m := true, rep := true }
  else {}

/-- The prefixes that an opcode accepts on page 1 (R64, R55, R132). -/
def accept1 (op : Nat) : Accept :=
  if op = 0x05 || op = 0x06 then acceptV true true true
  else if op = 0x14 then { acceptV true true true with needV := true }
  else if op = 0x17 || op = 0x18 || op = 0x23 then acceptV false false true
  else if op = 0x20 || op = 0x21 then acceptV false true false
  else acceptV false true true

/-- The prefixes that an opcode accepts on page 2 (R64, R161, R183). -/
def accept2 (op : Nat) (f : BitVec 9) : Accept :=
  if op = 0x01 || op = 0x05 then { rep := true, s0 := true, s1 := true }
  else if op = 0x02 || op = 0x03 then { m := true, rep := true, s0 := true }
  else if op = 0x04 then { rep := true, s0 := true }
  else if op = 0x08 then { m := true, rep := true, s0 := true, s1 := true }
  else if op = 0x09 then { m := true, xk := true, needX := true, rep := true, s0 := true, s1 := true }
  else if op = 0x0A then { m := true, xq := true, needX := true, rep := true, s0 := true, s1 := true }
  else if op = 0x0B then { m := true }
  else if op = 0x20 then { rep := true, s0 := f.getLsbD 5 }
  else {}

/-- The prefixes that an instruction word accepts (R64). -/
def acceptOf (page : BitVec 2) (w : Half) : Accept :=
  let op := (opc w).toNat
  if page = 0 then accept0 op (opd w)
  else if page = 1 then accept1 op
  else if page = 2 then accept2 op (opd w)
  else if 1 ≤ op && op ≤ 4 then { imm := true } else {}

/-- PFX.M's fields. -/
def pfxM (f : BitVec 9) : PfxM := ⟨f.getLsbD 5, f.extractLsb' 3 2, fLo f⟩
/-- PFX.X's fields. -/
def pfxX (f : BitVec 9) : PfxX := ⟨fHi f, fMid f, fLo f⟩
/-- PFX.V's fields. -/
def pfxV (f : BitVec 9) (w : Half) : PfxV :=
  ⟨fHi f, f.getLsbD 5, f.extractLsb' 2 3, w.extractLsb' 13 3, w.getLsbD 12, w.getLsbD 11, w.getLsbD 10⟩

/-- The chain's leading words as an instruction carries them. -/
def Chain.pre (c : Chain) : Pre :=
  { m := c.m.map pfxM
    x := c.x.map pfxX
    v := c.v.map fun vw => pfxV vw.1 vw.2
    imm := if c.rep.isNone then c.run else []
    rep := c.rep.map fun f => ⟨c.run, f.extractLsb' 3 6, fLo f⟩ }

/-- The word index of PFX.M, PFX.X, PFX.V, of the run and of REP. -/
def Chain.atM (c : Chain) : Nat := b2n c.g.isSome
def Chain.atX (c : Chain) : Nat := c.atM + b2n c.m.isSome
def Chain.atV (c : Chain) : Nat := c.atX + b2n c.x.isSome
def Chain.atRun (c : Chain) : Nat := c.atV + 2 * b2n c.v.isSome
def Chain.atRep (c : Chain) : Nat := c.atRun + c.run.length

/-- A prefix word from its opcode and operand field. -/
def pfxWord (op : BitVec 7) (f : BitVec 9) : Half := op ++ f

/-- WHY 4: the first prefix that the instruction does not accept, or that supplies a field it does not use. -/
def Chain.unaccepted (c : Chain) (a : Accept) : Option (Nat × Half) :=
  match c.m with
  | some f => if a.m then unacceptedX c a else some (c.atM, pfxWord 0x7B f)
  | none => unacceptedX c a
where
  unacceptedX (c : Chain) (a : Accept) : Option (Nat × Half) :=
    match c.x with
    | some f => if (a.xk || a.xq) && (a.xk || fHi f == 0) && (a.xq || fLo f == 0) && fMid f == 0 then unacceptedV c a
        else some (c.atX, pfxWord 0x7A f)
    | none => unacceptedV c a
  unacceptedV (c : Chain) (a : Accept) : Option (Nat × Half) :=
    match c.v with
    | some (f, w) => if a.v && (a.vzero || !f.getLsbD 5) then
        (if a.vc || w.extractLsb' 13 3 == 0 then unacceptedI c a else some (c.atV + 1, w))
        else some (c.atV, pfxWord 0x7C f)
    | none => unacceptedI c a
  unacceptedI (c : Chain) (a : Accept) : Option (Nat × Half) :=
    match c.rep, c.run with
    | none, f :: _ => if a.imm then none else some (c.atRun, pfxWord 0x78 f)
    | none, [] => none
    | some r, _ => if a.rep && (a.s0 || !r.getLsbD 0) && (a.s1 || !r.getLsbD 1) && (a.s2 || !r.getLsbD 2) then none
        else some (c.atRep, pfxWord 0x7E r)

/-- WHY 2 in the prefix words, in word order (R51, R53, R54). -/
def Chain.reserved (c : Chain) : Option (Nat × Half) :=
  match c.g with
  | some f => if f.extractLsb' 0 2 == 0 || f.extractLsb' 2 7 != 0 then some (0, pfxWord 0x79 f) else reservedM c
  | none => reservedM c
where
  reservedM (c : Chain) : Option (Nat × Half) :=
    match c.m with
    | some f => if fHi f != 0 || fLo f == 7 then some (c.atM, pfxWord 0x7B f) else reservedV c
    | none => reservedV c
  reservedV (c : Chain) : Option (Nat × Half) :=
    match c.v with
    | some (f, w) => if f.extractLsb' 0 2 != 0 || f.extractLsb' 2 3 == 6 then some (c.atV, pfxWord 0x7C f)
        else if w.extractLsb' 0 10 != 0 then some (c.atV + 1, w) else none
    | none => none

/-- `x` where the condition holds. -/
def when' {α : Type} (b : Bool) (x : α) : Option α := if b then some x else none

/-- Page 0 (R64): the instruction of an opcode and operand field, or none where R61 and R62 call the field illegal. -/
def decode0 (op : Nat) (f : BitVec 9) (p : Pre) : Option Instr :=
  match op with
  | 0x01 => when' (f == 0) (.nop p)
  | 0x02 => (src9 f).map (.ld p)
  | 0x03 => match src9 f with
    | some (.mem o) => some (.st p o)
    | _ => none
  | 0x04 => (src9 f).map (.add p)
  | 0x05 => (src9 f).map (.sub p)
  | 0x06 => (src9 f).map (.rsub p)
  | 0x07 => (src9 f).map (.cmp p)
  | 0x08 => (src9 f).map (.tst p)
  | 0x09 => (src9 f).map (.and p)
  | 0x0A => (src9 f).map (.or p)
  | 0x0B => (src9 f).map (.xor p)
  | 0x0C => (src9 f).map (.andn p)
  | 0x0D => (src9 f).map (.shl p)
  | 0x0E => (src9 f).map (.shr p)
  | 0x0F => (src9 f).map (.sar p)
  | 0x10 => (src9 f).map (.rol p)
  | 0x11 => (src9 f).map (.mul p)
  | 0x12 => (src9 f).map (.mulh p)
  | 0x13 => (src9 f).map (.mulhu p)
  | 0x14 => (src9 f).map (.div p)
  | 0x15 => (src9 f).map (.divu p)
  | 0x16 => (src9 f).map (.rem p)
  | 0x17 => (src9 f).map (.remu p)
  | 0x18 => (src9 f).map (.min p)
  | 0x19 => (src9 f).map (.max p)
  | 0x1A => (src9 f).map (.minu p)
  | 0x1B => (src9 f).map (.maxu p)
  | 0x1C => (src9 f).map (.mac p)
  | 0x1D => if f.extractLsb' 4 5 == 0 then decodeUnary (f.extractLsb' 0 4).toNat p else none
  | 0x1E => some (.ldi p f)
  | 0x1F => some (.addi p f)
  | 0x20 => when' (fImm6 f == 0) (.pset p (fHi f))
  | 0x21 => when' (fImm6 f == 0) (.padd p (fHi f))
  | 0x22 => some (.paddi p (fHi f) (fImm6 f))
  | 0x23 => when' (pstepOk (fImm6 f) p.imm) (.pstep p (fHi f) (fImm6 f))
  | 0x24 => when' (pspanOk (fImm6 f) p.imm) (.pspan p (fHi f) (fImm6 f))
  | 0x25 => some (.ptype p (fHi f) (fImm6 f))
  | 0x26 => when' (fImm6 f == 0) (.kset p (fHi f))
  | 0x27 => when' (fHi f == 0 && fLo f == 0) (.kget p (fMid f))
  | 0x28 => match (fLo f).toNat with
    | 0 => some (.kopAnd p (fHi f) (fMid f))
    | 1 => some (.kopOr p (fHi f) (fMid f))
    | 2 => some (.kopXor p (fHi f) (fMid f))
    | 3 => some (.kopAndn p (fHi f) (fMid f))
    | 4 => some (.kopMov p (fHi f) (fMid f))
    | 5 => some (.kopNot p (fHi f) (fMid f))
    | 6 => some (.kopShl p (fHi f) (fMid f))
    | _ => some (.kopShr p (fHi f) (fMid f))
  | 0x29 => when' (fImm6 f == 0) (.ksb p (fHi f))
  | 0x2A => when' (fImm6 f == 0) (.kcb p (fHi f))
  | 0x2B => when' (fImm6 f == 0) (.ktb p (fHi f))
  | 0x2C => if fHi f == 0 then (match (fLo f).toNat with
      | 0 => some (.kcntN p (fMid f))
      | 1 => some (.kcntLo p (fMid f))
      | 2 => some (.kcntHi p (fMid f))
      | _ => none) else none
  | 0x30 => some (.bcc p (f.extractLsb' 5 4) (f.extractLsb' 0 5))
  | 0x31 => some (.j p f)
  | 0x32 => some (.call p f)
  | 0x33 => when' (f == 0) .ret
  | 0x34 => when' (f == 0) .jr
  | 0x35 => when' (f == 0) .callr
  | 0x36 => some (.loop (f.extractLsb' 3 6) (fLo f))
  | 0x37 => if f == 0 then some .halt else when' (f == 1) .haltRetain
  | 0x38 => when' (f == 0) .yield
  | 0x39 => some (.trap f)
  | 0x3A => some (.svc f)
  | 0x40 => when' (fImm6 f == 0) (.waitf (fHi f))
  | 0x41 => when' (fImm6 f == 0) (.waite (fHi f))
  | 0x42 => when' (fImm6 f == 0) (.monitor p (fHi f))
  | 0x43 => when' (f == 0) .mwait
  | 0x44 => if f == 8 then some .sleeptT else when' (f.extractLsb' 3 6 == 0) (.sleept (fLo f))
  | 0x45 => if f == 0 then some .bara else when' (f == 1) .baraSet
  | 0x46 => when' (f == 0) .barw
  | 0x47 => if f.extractLsb' 3 6 == 0 then (match (fLo f).toNat with
      | 0 => some .voteAnd
      | 1 => some .voteOr
      | 2 => some .voteMaxu
      | 3 => some .voteMinu
      | 4 => some .voteSum
      | 5 => some .voteEq
      | _ => none) else none
  | 0x48 => when' (f.extractLsb' 4 5 == 0) (.semp (f.extractLsb' 0 4))
  | 0x49 => when' (f.extractLsb' 4 5 == 0) (.semv (f.extractLsb' 0 4))
  | 0x4A => when' (f.extractLsb' 3 6 == 0) (.evsig (fLo f))
  | 0x4B => if fLo f == 0 && fMid f != 7 then (match (fHi f).toNat with
      | 1 => some (.fenceAcq (fMid f))
      | 2 => some (.fenceRel (fMid f))
      | 3 => some (.fenceAcqRel (fMid f))
      | 4 => some (.fenceSeq (fMid f))
      | _ => none) else none
  | 0x4C => when' (fImm6 f == 0) (.binit p (fHi f))
  | 0x4D => when' (fImm6 f == 0) (.barv p (fHi f))
  | 0x4E => when' (fImm6 f == 0) (.bwait p (fHi f))
  | 0x59 => when' (atOk (f.extractLsb' 7 2) (f.getLsbD 0))
      (.acas p (f.extractLsb' 7 2) (f.extractLsb' 4 3) (f.extractLsb' 1 3) (f.getLsbD 0))
  | 0x5B => when' (f == 0) .aretry
  | 0x5C => when' (fImm6 f == 0) (.spf p (fHi f))
  | 0x5D => when' (fImm6 f == 0) (.swb p (fHi f))
  | 0x5E => when' (fImm6 f == 0) (.sinv p (fHi f))
  | 0x5F => when' (f == 0) (.sflush p)
  | op => if f.extractLsb' 1 3 == 0 && atOk (f.extractLsb' 7 2) (f.getLsbD 0) then
      decodeAtomic op p (f.extractLsb' 7 2) (f.extractLsb' 4 3) (f.getLsbD 0) else none
where
  /-- Layout U (R121). -/
  decodeUnary (form : Nat) (p : Pre) : Option Instr :=
    match form with
    | 0 => some (.neg p)
    | 1 => some (.not p)
    | 2 => some (.abs p)
    | 3 => some (.clz p)
    | 4 => some (.ctz p)
    | 5 => some (.popc p)
    | 6 => some (.brev p)
    | 7 => some (.bswap p)
    | 8 => some (.sextB p)
    | 9 => some (.sextH p)
    | 10 => some (.sextW p)
    | 11 => some (.zextB p)
    | 12 => some (.zextH p)
    | 13 => some (.zextW p)
    | 14 => some (.setf p)
    | _ => none
  /-- Layout AT but for ACAS (R249). -/
  decodeAtomic (op : Nat) (p : Pre) (o : BitVec 2) (n : R3) (nr : Bool) : Option Instr :=
    match op with
    | 0x50 => some (.aadd p o n nr)
    | 0x51 => some (.aand p o n nr)
    | 0x52 => some (.aor p o n nr)
    | 0x53 => some (.axor p o n nr)
    | 0x54 => some (.amin p o n nr)
    | 0x55 => some (.amax p o n nr)
    | 0x56 => some (.aminu p o n nr)
    | 0x57 => some (.amaxu p o n nr)
    | 0x58 => some (.aswp p o n nr)
    | 0x5A => some (.afadd p o n nr)
    | _ => none

/-- Page 1 (R64, R137). -/
def decode1 (op : Nat) (f : BitVec 9) (p : Pre) : Option Instr :=
  let d := fHi f
  let a := fMid f
  let b := fLo f
  match op with
  | 0x01 => when' (b == 0) (.vmov p d a)
  | 0x02 => some (.vadd p d a b)
  | 0x03 => some (.vsub p d a b)
  | 0x04 => some (.vmul p d a b)
  | 0x05 => some (.vfma p d a b)
  | 0x06 => some (.vfms p d a b)
  | 0x07 => some (.vmin p d a b)
  | 0x08 => some (.vmax p d a b)
  | 0x09 => when' (b == 0) (.vabs p d a)
  | 0x0A => when' (b == 0) (.vneg p d a)
  | 0x0B => some (.vand p d a b)
  | 0x0C => some (.vor p d a b)
  | 0x0D => some (.vxor p d a b)
  | 0x0E => some (.vshl p d a b)
  | 0x0F => some (.vshr p d a b)
  | 0x10 => some (.vsar p d a b)
  | 0x11 => some (.vcmpeq p d a b)
  | 0x12 => some (.vcmplt p d a b)
  | 0x13 => some (.vcmple p d a b)
  | 0x14 => some (.vsel p d a b)
  | 0x15 => when' (b == 0) (.vcvt p d a)
  | 0x16 => some (.vscale p d a b)
  | 0x17 => match b.toNat with
    | 0 => some (.vredSum p d a)
    | 1 => some (.vredMax p d a)
    | 2 => some (.vredMin p d a)
    | 3 => some (.vredSsq p d a)
    | 4 => some (.vredAmax p d a)
    | 5 => some (.vredAmin p d a)
    | _ => none
  | 0x18 => some (.vdot p d a b)
  | 0x19 => when' (b == 0) (.vrcp p d a)
  | 0x1A => when' (b == 0) (.vrsq p d a)
  | 0x1B => some (.vrcpr p d a b)
  | 0x1C => some (.vrsqr p d a b)
  | 0x1D => when' (b == 0) (.vexp2 p d a)
  | 0x1E => when' (b == 0) (.vlog2 p d a)
  | 0x1F => when' (b == 0) (.vexp p d a)
  | 0x20 => when' (a == 0 && b == 0) (.vbcast p d)
  | 0x21 => when' (a == 0 && b == 0) (.viota p d)
  | 0x22 => some (.vgath p d a b)
  | 0x23 => some (.vscat p d a b)
  | 0x24 => when' (b == 0) (.vsqrt p d a)
  | _ => none

/-- Page 2 (R64). -/
def decode2 (op : Nat) (f : BitVec 9) (p : Pre) : Option Instr :=
  let x := fHi f
  let y := fMid f
  let z := fLo f
  let z2 := f.extractLsb' 0 2
  match op with
  | 0x01 => if f.extractLsb' 1 2 == 3 then none
      else if f.getLsbD 0 then some (.mmz p x y (f.extractLsb' 1 2)) else some (.mma p x y (f.extractLsb' 1 2))
  | 0x02 => when' (y == 0 && !f.getLsbD 2 && z2 != 3) (.mmst p x z2)
  | 0x03 => when' (y == 0 && !f.getLsbD 2 && z2 != 3) (.mmld p x z2)
  | 0x04 => when' (y == 0 && !f.getLsbD 2 && z2 != 3) (.mmmask p x z2)
  | 0x05 => when' (!f.getLsbD 2 && z2 != 3) (.mmsub p x y z2)
  | 0x08 => some (.cpy p x y z)
  | 0x09 => some (.cpym p x y z)
  | 0x0A => some (.gath p x y z)
  | 0x0B => match z.toNat with
    | 0 => some (.collSum p x y)
    | 1 => some (.collGather p x y)
    | 2 => some (.collRscat p x y)
    | 3 => some (.collBcast p x y)
    | _ => none
  | 0x0C => when' (x == 0 && y == 0) (.cpq z)
  | 0x10 => when' (y == 0 && z == 0) (.mbpub x)
  | 0x11 => when' (y == 0 && z == 0) (.mbget x)
  | 0x12 => if x == 0 && y == 0 then (match z.toNat with
      | 0 => some .mbinfoVer
      | 1 => some .mbinfoTime
      | 2 => some .mbinfoWho
      | 3 => some .mbinfoFlags
      | _ => none) else none
  | 0x18 => when' (x == 0 && y == 0) (.esopen z)
  | 0x19 => if f == 0 then some .espos else when' (f == 1) .esposOff
  | 0x1A => when' (x == 0 && y == 0) (.escommit z)
  | 0x1B => when' (x == 0 && y == 0) (.esabort z)
  | 0x1C => when' (y == 0 && z == 0) (.pgalloc x)
  | 0x1D => when' (y == 0 && z == 0) (.pgfree x)
  | 0x20 => if f.getLsbD 3 || f.getLsbD 2 || z2 == 3 then none
      else if f.getLsbD 5 then some (.qseqStore p x (f.getLsbD 4) z2)
      else when' (x == 0) (.qseq p (f.getLsbD 4) z2)
  | 0x21 => when' (y == 0 && z == 0) (.qtab x)
  | 0x22 => if f == 0 then some .qscr else when' (f == 1) .qscrOff
  | 0x24 => when' (f == 0) .spush
  | 0x25 => when' (f == 0) .spop
  | 0x26 => when' (f == 0) .sfork
  | 0x27 => when' (f.extractLsb' 4 5 == 0) (.speek (f.extractLsb' 0 4))
  | 0x28 => when' (x == 0 && z == 0) (.msum y)
  | 0x29 => when' (x == 0 && z == 0) (.tsrch y)
  | 0x2A => when' (z == 0) (.tmass x y)
  | 0x2B => when' (y == 0 && z == 0) (.tdesc x)
  | 0x2C => when' (x == 0 && z == 0) (.tfind y)
  | 0x30 => when' (f == 0) .endorse
  | 0x31 => if f.extractLsb' 3 6 == 0 then (match z.toNat with
      | 0 => some .dqreqPush
      | 1 => some .dqreqPop
      | 2 => some .dqreqCnt
      | _ => none) else none
  | 0x38 => when' (y == 0 && z == 0) (.launch x)
  | 0x39 => if f.extractLsb' 3 6 == 0 then (match z.toNat with
      | 0 => some .rankqSelf
      | 1 => some .rankqCoord
      | 2 => some .rankqLoad
      | _ => none) else none
  | _ => none

/-- Page 3 (R64). -/
def decode3 (op : Nat) (f : BitVec 9) (p : Pre) : Option Instr :=
  let x := fHi f
  let y := fMid f
  let z := fLo f
  match op with
  | 0x01 => some (.csrr p f)
  | 0x02 => some (.csrw p f)
  | 0x03 => some (.csrs p f)
  | 0x04 => some (.csrc p f)
  | 0x05 => when' (f == 0) .eret
  | 0x06 => when' (f == 0) .wfi
  | 0x07 => if y != 0 then none else if z == 0 then some (.seize x) else when' (z == 1) (.seizeArm x)
  | 0x08 => when' (y == 0 && z == 0) (.release x)
  | 0x09 => when' (f == 0) .banksw
  | 0x0A => if y != 0 then none else if z == 0 then some (.shld x) else when' (z == 1) (.shldImg x)
  | 0x0B => when' (y == 0 && z == 0) (.shst x)
  | 0x0C => if f == 0 then some .gennew else when' (f == 1) .gennewKeep
  | 0x0D => when' (f == 0) .genset
  | 0x0E => if z == 0 then some (.dbgrd x y) else when' (z == 1) (.dbgrdTag x y)
  | 0x0F => when' (z == 0) (.dbgwr x y)
  | 0x10 => if x == 0 && 3 ≤ y.toNat && y.toNat ≤ 5 then (match z.toNat with
      | 0 => some (.tlbinvVa y)
      | 1 => some (.tlbinvTen y)
      | 2 => some (.tlbinvAll y)
      | _ => none) else none
  | 0x11 => match f.toNat with
    | 0 => some .killCore
    | 1 => some .killTask
    | 2 => some .killRestart
    | _ => none
  | 0x12 => when' (f == 0) .seal
  | 0x13 => when' (y == 0 && z == 0) (.jrnl x)
  | 0x14 => match f.toNat with
    | 0 => some .kickscanOne
    | 1 => some .kickscanAll
    | 2 => some .kickscanCpl
    | _ => none
  | 0x15 => if f == 0 then some .injarm else when' (f == 1) .injarmOff
  | 0x16 => match f.toNat with
    | 0 => some .chkctlRd
    | 1 => some .chkctlClr
    | 2 => some .chkctlTest
    | _ => none
  | 0x17 => when' (y == 0 && z == 0) (.preempt x)
  | 0x18 => when' (y == 0 && z == 0) (.resume x)
  | _ => none

/-- The instruction of a word on a page. -/
def decodeWord (page : BitVec 2) (w : Half) (p : Pre) : Option Instr :=
  let op := (opc w).toNat
  if page = 0 then decode0 op (opd w) p
  else if page = 1 then decode1 op (opd w) p
  else if page = 2 then decode2 op (opd w) p
  else decode3 op (opd w) p

/-- ILLEGAL at a word. -/
def badAt (why : BitVec 4) (x : Nat × Half) : Decoded := .bad why (BitVec.ofNat 3 x.1) x.2

/-- WHY 5: a required prefix is missing. -/
def missing (a : Accept) (c : Chain) : Bool := (a.needX && c.x.isNone) || (a.needV && c.v.isNone)

/-- A CSR instruction names DSIG on a tile core (R438). -/
def dsigAbsent (k : CoreKind) (c : Chain) (w : Half) : Bool :=
  k != .dispatch && c.page == 3 && 1 ≤ (opc w).toNat && (opc w).toNat ≤ 4 && c.rep.isNone && widenU (opd w) c.run == 0x207

/-- The checks on a scanned instruction, in R49's order, and its decoding. -/
def finish (k : CoreKind) (c : Chain) (w : Half) : Decoded :=
  if unitAbsent k c.page w then badAt 6 (c.words, w)
  else if dsigAbsent k c w then badAt 6 (c.words, 0x207)
  else match c.unaccepted (acceptOf c.page w) with
    | some x => badAt 4 x
    | none =>
      if missing (acceptOf c.page w) c then badAt 5 (c.words, w)
      else match c.reserved with
        | some x => badAt 2 x
        | none => match decodeWord c.page w c.pre with
          | some i => .ok i (c.words + 1)
          | none => badAt 2 (c.words, w)

/-- Decoding of the words at the program counter (R45, R49). -/
def decode (k : CoreKind) (ws : List Half) : Decoded :=
  match scan {} ws with
  | .short => .short
  | .bad why n w => badAt why (n, w)
  | .ok c w => finish k c w

/-! The encoder: the words of a well-formed instruction, from the same tables (R44, R50 to R54, R57, R60, R62, R64). -/

/-- PFX.M (R53). -/
def encM (m : PfxM) : BitVec 9 := 0#3 ++ BitVec.ofBool m.nt ++ m.hint ++ m.scope
/-- PFX.X (R52). -/
def encX (x : PfxX) : BitVec 9 := f3 x.k x.r x.q
/-- The first word of PFX.V (R54). -/
def encV1 (v : PfxV) : BitVec 9 := v.km ++ BitVec.ofBool v.zero ++ v.rnd ++ 0#2
/-- The second word of PFX.V (R54). -/
def encV2 (v : PfxV) : Half := v.c ++ BitVec.ofBool v.sat ++ BitVec.ofBool v.ftz ++ BitVec.ofBool v.notrap ++ 0#10

/-- The words that lead an instruction word on a page (R48). -/
def encPre (page : BitVec 2) (p : Pre) : List Half :=
  (if page = 0 then [] else [pfxWord 0x79 (0#7 ++ page)]) ++
  (p.m.map fun m => pfxWord 0x7B (encM m)).toList ++
  (p.x.map fun x => pfxWord 0x7A (encX x)).toList ++
  (match p.v with
   | none => []
   | some v => [pfxWord 0x7C (encV1 v), encV2 v]) ++
  (match p.rep with
   | none => p.imm.map (pfxWord 0x78)
   | some r => r.run.map (pfxWord 0x78) ++ [pfxWord 0x7E (r.count ++ r.step)])

/-- SRC9 (R60). -/
def encSrc : Src9 → BitVec 9
  | .mem o => f3 (match o.form with
      | .plain => 0
      | .up => 1
      | .down => 2
      | .sync => 3) o.n o.x
  | .ptr n => f3 4 n 0
  | .mask n => f3 5 n 0
  | .imm i => 6#3 ++ i
  | .acc => f3 7 0 0
  | .cyc => f3 7 0 1

/-- Layout AT (R62). -/
def encAt (o : BitVec 2) (n q : R3) (nr : Bool) : BitVec 9 := o ++ n ++ q ++ BitVec.ofBool nr

/-- An instruction's page, opcode, operand field and leading words (R62, R64); none for an event row, which has no
encoding. -/
def Instr.enc : Instr → Option (BitVec 2 × BitVec 7 × BitVec 9 × Pre)
  | .nop p => some (0, 0x01, 0, p)
  | .ld p s => some (0, 0x02, encSrc s, p)
  | .st p s => some (0, 0x03, encSrc (.mem s), p)
  | .add p s => some (0, 0x04, encSrc s, p)
  | .sub p s => some (0, 0x05, encSrc s, p)
  | .rsub p s => some (0, 0x06, encSrc s, p)
  | .cmp p s => some (0, 0x07, encSrc s, p)
  | .tst p s => some (0, 0x08, encSrc s, p)
  | .and p s => some (0, 0x09, encSrc s, p)
  | .or p s => some (0, 0x0A, encSrc s, p)
  | .xor p s => some (0, 0x0B, encSrc s, p)
  | .andn p s => some (0, 0x0C, encSrc s, p)
  | .shl p s => some (0, 0x0D, encSrc s, p)
  | .shr p s => some (0, 0x0E, encSrc s, p)
  | .sar p s => some (0, 0x0F, encSrc s, p)
  | .rol p s => some (0, 0x10, encSrc s, p)
  | .mul p s => some (0, 0x11, encSrc s, p)
  | .mulh p s => some (0, 0x12, encSrc s, p)
  | .mulhu p s => some (0, 0x13, encSrc s, p)
  | .div p s => some (0, 0x14, encSrc s, p)
  | .divu p s => some (0, 0x15, encSrc s, p)
  | .rem p s => some (0, 0x16, encSrc s, p)
  | .remu p s => some (0, 0x17, encSrc s, p)
  | .min p s => some (0, 0x18, encSrc s, p)
  | .max p s => some (0, 0x19, encSrc s, p)
  | .minu p s => some (0, 0x1A, encSrc s, p)
  | .maxu p s => some (0, 0x1B, encSrc s, p)
  | .mac p s => some (0, 0x1C, encSrc s, p)
  | .neg p => some (0, 0x1D, 0, p)
  | .not p => some (0, 0x1D, 1, p)
  | .abs p => some (0, 0x1D, 2, p)
  | .clz p => some (0, 0x1D, 3, p)
  | .ctz p => some (0, 0x1D, 4, p)
  | .popc p => some (0, 0x1D, 5, p)
  | .brev p => some (0, 0x1D, 6, p)
  | .bswap p => some (0, 0x1D, 7, p)
  | .sextB p => some (0, 0x1D, 8, p)
  | .sextH p => some (0, 0x1D, 9, p)
  | .sextW p => some (0, 0x1D, 10, p)
  | .zextB p => some (0, 0x1D, 11, p)
  | .zextH p => some (0, 0x1D, 12, p)
  | .zextW p => some (0, 0x1D, 13, p)
  | .setf p => some (0, 0x1D, 14, p)
  | .ldi p i => some (0, 0x1E, i, p)
  | .addi p i => some (0, 0x1F, i, p)
  | .pset p n => some (0, 0x20, f3 n 0 0, p)
  | .padd p n => some (0, 0x21, f3 n 0 0, p)
  | .paddi p n i => some (0, 0x22, n ++ i, p)
  | .pstep p n i => some (0, 0x23, n ++ i, p)
  | .pspan p n i => some (0, 0x24, n ++ i, p)
  | .ptype p n i => some (0, 0x25, n ++ i, p)
  | .kset p d => some (0, 0x26, f3 d 0 0, p)
  | .kget p k => some (0, 0x27, f3 0 k 0, p)
  | .kopAnd p d k => some (0, 0x28, f3 d k 0, p)
  | .kopOr p d k => some (0, 0x28, f3 d k 1, p)
  | .kopXor p d k => some (0, 0x28, f3 d k 2, p)
  | .kopAndn p d k => some (0, 0x28, f3 d k 3, p)
  | .kopMov p d k => some (0, 0x28, f3 d k 4, p)
  | .kopNot p d k => some (0, 0x28, f3 d k 5, p)
  | .kopShl p d k => some (0, 0x28, f3 d k 6, p)
  | .kopShr p d k => some (0, 0x28, f3 d k 7, p)
  | .ksb p d => some (0, 0x29, f3 d 0 0, p)
  | .kcb p d => some (0, 0x2A, f3 d 0 0, p)
  | .ktb p d => some (0, 0x2B, f3 d 0 0, p)
  | .kcntN p k => some (0, 0x2C, f3 0 k 0, p)
  | .kcntLo p k => some (0, 0x2C, f3 0 k 1, p)
  | .kcntHi p k => some (0, 0x2C, f3 0 k 2, p)
  | .bcc p c d => some (0, 0x30, c ++ d, p)
  | .j p d => some (0, 0x31, d, p)
  | .call p d => some (0, 0x32, d, p)
  | .ret => some (0, 0x33, 0, {})
  | .jr => some (0, 0x34, 0, {})
  | .callr => some (0, 0x35, 0, {})
  | .loop l s => some (0, 0x36, l ++ s, {})
  | .halt => some (0, 0x37, 0, {})
  | .haltRetain => some (0, 0x37, 1, {})
  | .yield => some (0, 0x38, 0, {})
  | .trap c => some (0, 0x39, c, {})
  | .svc c => some (0, 0x3A, c, {})
  | .waitf n => some (0, 0x40, f3 n 0 0, {})
  | .waite n => some (0, 0x41, f3 n 0 0, {})
  | .monitor p n => some (0, 0x42, f3 n 0 0, p)
  | .mwait => some (0, 0x43, 0, {})
  | .sleept ch => some (0, 0x44, f3 0 0 ch, {})
  | .sleeptT => some (0, 0x44, 8, {})
  | .bara => some (0, 0x45, 0, {})
  | .baraSet => some (0, 0x45, 1, {})
  | .barw => some (0, 0x46, 0, {})
  | .voteAnd => some (0, 0x47, 0, {})
  | .voteOr => some (0, 0x47, 1, {})
  | .voteMaxu => some (0, 0x47, 2, {})
  | .voteMinu => some (0, 0x47, 3, {})
  | .voteSum => some (0, 0x47, 4, {})
  | .voteEq => some (0, 0x47, 5, {})
  | .semp n => some (0, 0x48, 0#5 ++ n, {})
  | .semv n => some (0, 0x49, 0#5 ++ n, {})
  | .evsig n => some (0, 0x4A, f3 0 0 n, {})
  | .fenceAcq s => some (0, 0x4B, f3 1 s 0, {})
  | .fenceRel s => some (0, 0x4B, f3 2 s 0, {})
  | .fenceAcqRel s => some (0, 0x4B, f3 3 s 0, {})
  | .fenceSeq s => some (0, 0x4B, f3 4 s 0, {})
  | .binit p n => some (0, 0x4C, f3 n 0 0, p)
  | .barv p n => some (0, 0x4D, f3 n 0 0, p)
  | .bwait p n => some (0, 0x4E, f3 n 0 0, p)
  | .aadd p o n nr => some (0, 0x50, encAt o n 0 nr, p)
  | .aand p o n nr => some (0, 0x51, encAt o n 0 nr, p)
  | .aor p o n nr => some (0, 0x52, encAt o n 0 nr, p)
  | .axor p o n nr => some (0, 0x53, encAt o n 0 nr, p)
  | .amin p o n nr => some (0, 0x54, encAt o n 0 nr, p)
  | .amax p o n nr => some (0, 0x55, encAt o n 0 nr, p)
  | .aminu p o n nr => some (0, 0x56, encAt o n 0 nr, p)
  | .amaxu p o n nr => some (0, 0x57, encAt o n 0 nr, p)
  | .aswp p o n nr => some (0, 0x58, encAt o n 0 nr, p)
  | .acas p o n q nr => some (0, 0x59, encAt o n q nr, p)
  | .afadd p o n nr => some (0, 0x5A, encAt o n 0 nr, p)
  | .aretry => some (0, 0x5B, 0, {})
  | .spf p n => some (0, 0x5C, f3 n 0 0, p)
  | .swb p n => some (0, 0x5D, f3 n 0 0, p)
  | .sinv p n => some (0, 0x5E, f3 n 0 0, p)
  | .sflush p => some (0, 0x5F, 0, p)
  | .vmov p d a => some (1, 0x01, f3 d a 0, p)
  | .vadd p d a b => some (1, 0x02, f3 d a b, p)
  | .vsub p d a b => some (1, 0x03, f3 d a b, p)
  | .vmul p d a b => some (1, 0x04, f3 d a b, p)
  | .vfma p d a b => some (1, 0x05, f3 d a b, p)
  | .vfms p d a b => some (1, 0x06, f3 d a b, p)
  | .vmin p d a b => some (1, 0x07, f3 d a b, p)
  | .vmax p d a b => some (1, 0x08, f3 d a b, p)
  | .vabs p d a => some (1, 0x09, f3 d a 0, p)
  | .vneg p d a => some (1, 0x0A, f3 d a 0, p)
  | .vand p d a b => some (1, 0x0B, f3 d a b, p)
  | .vor p d a b => some (1, 0x0C, f3 d a b, p)
  | .vxor p d a b => some (1, 0x0D, f3 d a b, p)
  | .vshl p d a b => some (1, 0x0E, f3 d a b, p)
  | .vshr p d a b => some (1, 0x0F, f3 d a b, p)
  | .vsar p d a b => some (1, 0x10, f3 d a b, p)
  | .vcmpeq p d a b => some (1, 0x11, f3 d a b, p)
  | .vcmplt p d a b => some (1, 0x12, f3 d a b, p)
  | .vcmple p d a b => some (1, 0x13, f3 d a b, p)
  | .vsel p d a b => some (1, 0x14, f3 d a b, p)
  | .vcvt p d a => some (1, 0x15, f3 d a 0, p)
  | .vscale p d a b => some (1, 0x16, f3 d a b, p)
  | .vredSum p d a => some (1, 0x17, f3 d a 0, p)
  | .vredMax p d a => some (1, 0x17, f3 d a 1, p)
  | .vredMin p d a => some (1, 0x17, f3 d a 2, p)
  | .vredSsq p d a => some (1, 0x17, f3 d a 3, p)
  | .vredAmax p d a => some (1, 0x17, f3 d a 4, p)
  | .vredAmin p d a => some (1, 0x17, f3 d a 5, p)
  | .vdot p d a b => some (1, 0x18, f3 d a b, p)
  | .vrcp p d a => some (1, 0x19, f3 d a 0, p)
  | .vrsq p d a => some (1, 0x1A, f3 d a 0, p)
  | .vrcpr p d a b => some (1, 0x1B, f3 d a b, p)
  | .vrsqr p d a b => some (1, 0x1C, f3 d a b, p)
  | .vexp2 p d a => some (1, 0x1D, f3 d a 0, p)
  | .vlog2 p d a => some (1, 0x1E, f3 d a 0, p)
  | .vexp p d a => some (1, 0x1F, f3 d a 0, p)
  | .vbcast p d => some (1, 0x20, f3 d 0 0, p)
  | .viota p d => some (1, 0x21, f3 d 0 0, p)
  | .vgath p d a b => some (1, 0x22, f3 d a b, p)
  | .vscat p d a b => some (1, 0x23, f3 d a b, p)
  | .vsqrt p d a => some (1, 0x24, f3 d a 0, p)
  | .mma p a b k => some (2, 0x01, a ++ b ++ k ++ 0#1, p)
  | .mmz p a b k => some (2, 0x01, a ++ b ++ k ++ 1#1, p)
  | .mmst p n k => some (2, 0x02, n ++ 0#4 ++ k, p)
  | .mmld p n k => some (2, 0x03, n ++ 0#4 ++ k, p)
  | .mmmask p n k => some (2, 0x04, n ++ 0#4 ++ k, p)
  | .mmsub p a b k => some (2, 0x05, a ++ b ++ 0#1 ++ k, p)
  | .cpy p d a ch => some (2, 0x08, f3 d a ch, p)
  | .cpym p d a ch => some (2, 0x09, f3 d a ch, p)
  | .gath p d a ch => some (2, 0x0A, f3 d a ch, p)
  | .collSum p d a => some (2, 0x0B, f3 d a 0, p)
  | .collGather p d a => some (2, 0x0B, f3 d a 1, p)
  | .collRscat p d a => some (2, 0x0B, f3 d a 2, p)
  | .collBcast p d a => some (2, 0x0B, f3 d a 3, p)
  | .cpq ch => some (2, 0x0C, f3 0 0 ch, {})
  | .mbpub n => some (2, 0x10, f3 n 0 0, {})
  | .mbget n => some (2, 0x11, f3 n 0 0, {})
  | .mbinfoVer => some (2, 0x12, 0, {})
  | .mbinfoTime => some (2, 0x12, 1, {})
  | .mbinfoWho => some (2, 0x12, 2, {})
  | .mbinfoFlags => some (2, 0x12, 3, {})
  | .esopen w => some (2, 0x18, f3 0 0 w, {})
  | .espos => some (2, 0x19, 0, {})
  | .esposOff => some (2, 0x19, 1, {})
  | .escommit w => some (2, 0x1A, f3 0 0 w, {})
  | .esabort w => some (2, 0x1B, f3 0 0 w, {})
  | .pgalloc n => some (2, 0x1C, f3 n 0 0, {})
  | .pgfree n => some (2, 0x1D, f3 n 0 0, {})
  | .qseq p da f => some (2, 0x20, 0#4 ++ BitVec.ofBool da ++ 0#2 ++ f, p)
  | .qseqStore p n da f => some (2, 0x20, n ++ 1#1 ++ BitVec.ofBool da ++ 0#2 ++ f, p)
  | .qtab n => some (2, 0x21, f3 n 0 0, {})
  | .qscr => some (2, 0x22, 0, {})
  | .qscrOff => some (2, 0x22, 1, {})
  | .spush => some (2, 0x24, 0, {})
  | .spop => some (2, 0x25, 0, {})
  | .sfork => some (2, 0x26, 0, {})
  | .speek n => some (2, 0x27, 0#5 ++ n, {})
  | .msum a => some (2, 0x28, f3 0 a 0, {})
  | .tsrch a => some (2, 0x29, f3 0 a 0, {})
  | .tmass n a => some (2, 0x2A, f3 n a 0, {})
  | .tdesc n => some (2, 0x2B, f3 n 0 0, {})
  | .tfind a => some (2, 0x2C, f3 0 a 0, {})
  | .endorse => some (2, 0x30, 0, {})
  | .dqreqPush => some (2, 0x31, 0, {})
  | .dqreqPop => some (2, 0x31, 1, {})
  | .dqreqCnt => some (2, 0x31, 2, {})
  | .launch n => some (2, 0x38, f3 n 0 0, {})
  | .rankqSelf => some (2, 0x39, 0, {})
  | .rankqCoord => some (2, 0x39, 1, {})
  | .rankqLoad => some (2, 0x39, 2, {})
  | .csrr p n => some (3, 0x01, n, p)
  | .csrw p n => some (3, 0x02, n, p)
  | .csrs p n => some (3, 0x03, n, p)
  | .csrc p n => some (3, 0x04, n, p)
  | .eret => some (3, 0x05, 0, {})
  | .wfi => some (3, 0x06, 0, {})
  | .seize k => some (3, 0x07, f3 k 0 0, {})
  | .seizeArm k => some (3, 0x07, f3 k 0 1, {})
  | .release k => some (3, 0x08, f3 k 0 0, {})
  | .banksw => some (3, 0x09, 0, {})
  | .shld n => some (3, 0x0A, f3 n 0 0, {})
  | .shldImg n => some (3, 0x0A, f3 n 0 1, {})
  | .shst n => some (3, 0x0B, f3 n 0 0, {})
  | .gennew => some (3, 0x0C, 0, {})
  | .gennewKeep => some (3, 0x0C, 1, {})
  | .genset => some (3, 0x0D, 0, {})
  | .dbgrd n q => some (3, 0x0E, f3 n q 0, {})
  | .dbgrdTag n q => some (3, 0x0E, f3 n q 1, {})
  | .dbgwr n q => some (3, 0x0F, f3 n q 0, {})
  | .tlbinvVa s => some (3, 0x10, f3 0 s 0, {})
  | .tlbinvTen s => some (3, 0x10, f3 0 s 1, {})
  | .tlbinvAll s => some (3, 0x10, f3 0 s 2, {})
  | .killCore => some (3, 0x11, 0, {})
  | .killTask => some (3, 0x11, 1, {})
  | .killRestart => some (3, 0x11, 2, {})
  | .seal => some (3, 0x12, 0, {})
  | .jrnl n => some (3, 0x13, f3 n 0 0, {})
  | .kickscanOne => some (3, 0x14, 0, {})
  | .kickscanAll => some (3, 0x14, 1, {})
  | .kickscanCpl => some (3, 0x14, 2, {})
  | .injarm => some (3, 0x15, 0, {})
  | .injarmOff => some (3, 0x15, 1, {})
  | .chkctlRd => some (3, 0x16, 0, {})
  | .chkctlClr => some (3, 0x16, 1, {})
  | .chkctlTest => some (3, 0x16, 2, {})
  | .preempt n => some (3, 0x17, f3 n 0 0, {})
  | .resume n => some (3, 0x18, f3 n 0 0, {})
  | .registerFill | .accessPerformed | .syncAccessServed | .mwaitTimeout | .mwaitSpurious | .sleeptWake
  | .vectorEntryComplete | .vectorFaultStop | .matrixEntryComplete | .matrixFaultStop | .engineFill ..
  | .copyCommandComplete .. | .copyCommandStop .. | .collectiveComplete | .atomicAtHome | .atomicRefusal
  | .atomicResponseLost | .stashOpComplete | .squareWriteGrant | .flip | .squareReadGrant | .mbgetComplete
  | .mbinfoResponse | .squareRefusal | .mirrorReceive .. | .escrowInstall | .handoverArrival .. | .treeUpdate
  | .dqreqServe | .quantumClose | .voteComplete | .barwWake | .fpxWindowClose | .vectorShareWindow | .budgetExpire
  | .budgetGraceExpire | .trapEntry | .interruptEntry | .launchBind | .tileTaskEnd | .retainExpire | .migrate
  | .generationSweep .. | .seizeMessage | .tileRelease | .rearm | .preemptSaveDone | .interchangeSignal ..
  | .counterExpire .. | .outputPulse .. | .timerTick .. | .contactEdge .. | .frameReceive .. | .frameTransmit
  | .ptpFrame | .timensDiscipline .. | .hostKick .. | .hostDramRequest .. | .claim .. | .beat .. | .nameSucc ..
  | .ackOwner .. | .resign .. | .clearOwner .. | .leaseExpire | .admitTenant .. | .removeTenant .. | .dcmdSeize ..
  | .fwupd .. | .mreset .. | .dsigKick .. | .dsigMsix .. | .tenantSelect .. | .tenantEntryWrite .. | .ptbaseWrite ..
  | .escrowTenantChange .. | .slotValidSet .. | .slotValidClear .. | .capabilityTableRead .. | .fieldRingStart ..
  | .ewctlEnable .. | .registerWrite .. | .smbusSetPointer .. | .smbusRead .. | .smbusWrite .. | .checkerMismatch ..
  | .coreKill .. | .eccUncorrectable .. | .correctedError .. | .injection | .spareLinkRetrain | .dispatchTakeover ..
  | .journalMirrorReceive .. | .activeAssert | .activeTie | .failover | .powerInterval .. | .powerOn | .powerDown
  | .boot .. | .moduleReset | .illegalInstruction .. | .fetchFault .. | .preemptOrderArrival | .aging => none

/-- The instruction word of an opcode and operand field (R44). -/
def instrWord (op : BitVec 7) (f : BitVec 9) : Half := op ++ f

/-- The words of an instruction, in the order they lie in memory; none for an event row. -/
def encode (i : Instr) : List Half :=
  match i.enc with
  | none => []
  | some (page, op, f, p) => encPre page p ++ [instrWord op f]

/-- The bytes of a list of words (R44: little-endian). -/
def wordBytes : List Half → List Byte
  | [] => []
  | w :: ws => w.extractLsb' 0 8 :: w.extractLsb' 8 8 :: wordBytes ws

/-- The words that bytes give, a last odd byte left out. -/
def bytesWords : List Byte → List Half
  | a :: b :: rest => (b ++ a) :: bytesWords rest
  | _ => []

/-- The words of a table row's bits (log entry 1): where the row is wider than one word and its high half is a PFX.G word,
the table has the first word in memory in the high half; otherwise the first word is in the low half. -/
def tableWords (nbits w : Nat) : List Half :=
  let lo : Half := BitVec.ofNat 16 w
  let hi : Half := BitVec.ofNat 16 (w / 65536)
  let tailWords : List Half := [BitVec.ofNat 16 (w / 2 ^ 32), BitVec.ofNat 16 (w / 2 ^ 48), BitVec.ofNat 16 (w / 2 ^ 64),
    BitVec.ofNat 16 (w / 2 ^ 80)]
  if 16 < nbits && opc hi == 0x79 then hi :: lo :: tailWords
  else if 16 < nbits then lo :: hi :: tailWords
  else lo :: List.replicate 5 0

/-- A core that has the unit the word's instruction acts on, for asking about the decoder alone. -/
def coreFor (ws : List Half) : CoreKind :=
  match scan {} ws with
  | .ok c w => if unitAbsent .issuing c.page w then .dispatch else .issuing
  | _ => .issuing

/-- The instruction that the decoder reads from the bits of a row of the opcode table. -/
def decodeTableWord (nbits w : Nat) : Option Instr :=
  match decode (coreFor (tableWords nbits w)) (tableWords nbits w) with
  | .ok i _ => some i
  | _ => none

end Sys2Proof
end

