-- ==== Sys2Proof/Machine/Interchange.lean ====
section
/-! DEFINITION. The Interchange (R327 to R330), the numbered barriers (R320), the interrupt lines (R387). -/

namespace Sys2Proof.Machine

/-- A signal pulses in a district, at most once a cycle; an input of an absent field port never does (R13, R327, R328). -/
def State.pulse (s : State) (d sig : Nat) : State :=
  let x := s.district d
  let absent := (decide (40 ≤ sig) && decide (sig < 44) && !bit s.capsReg 6) || (decide (44 ≤ sig) && decide (sig < 48) && !bit s.capsReg 7)
  if absent || x.evx.pulses.contains (BitVec.ofNat 7 sig) then s
  else s.setDistrict d { x with evx := { x.evx with pulses := x.evx.pulses ++ [BitVec.ofNat 7 sig] } }

/-- A signal pulses in a district in the cycle after this one (R324). -/
def State.pulseSoon (s : State) (d sig : Nat) : State :=
  let x := s.district d
  if x.evx.soon.contains (BitVec.ofNat 7 sig) then s
  else s.setDistrict d { x with evx := { x.evx with soon := x.evx.soon ++ [BitVec.ofNat 7 sig] } }

/-- The taps of a district, enabled and picked by `p`, pulse (R327). -/
def State.pulseTaps (s : State) (d lo : Nat) (p : Word → Bool) : State :=
  ((List.range 16).filter fun j => bit ((s.district d).evx.taps.toList.getD (lo + j) 0) 63 &&
    p ((s.district d).evx.taps.toList.getD (lo + j) 0)).foldl (fun s j => s.pulse d (lo + j)) s

/-- A command on a channel of a tile has completed or stopped: its taps pulse (R327). -/
def State.tapEngine (s : State) (t : Loc) (ch : Nat) : State :=
  s.pulseTaps (distIdx t.arr t.dist) 0 fun w => bits w 6 4 = t.tile && bits w 2 0 = ch

/-- A phase of a numbered barrier has flipped: its taps pulse (R320, R327). -/
def State.tapBarrier (s : State) (d b : Nat) : State := s.pulseTaps d 16 fun w => bits w 4 0 = b

/-- IPEND's line set in the contexts that `p` picks (R387). -/
def State.raiseLine (s : State) (line : Nat) (p : Ctx → Bool) : State :=
  s.mapCtx fun c => if p c then { c with ipend := c.ipend ||| BitVec.ofNat 5 (2 ^ line) } else c

/-! Numbered barriers (R256, R320). -/

/-- A numbered barrier of a district. -/
def State.barrier (s : State) (d b : Nat) : Barrier := (s.district d).barriers.toList.getD b {}
/-- The state with a numbered barrier changed. -/
def State.setBarrier (s : State) (d b : Nat) (x : Barrier) : State :=
  s.setDistrict d { s.district d with barriers := vset (s.district d).barriers b x }

/-- The completion test (R256): the barrier and whether its phase flipped. -/
def Barrier.test (x : Barrier) : Barrier × Bool :=
  if x.expect = x.arrived && x.pend = 0 && 1 ≤ x.expect then ({ x with phase := !x.phase, arrived := 0, err := false, quantum := 0, lastQuantum := x.quantum }, true)
  else (x, false)

/-- A numbered barrier written and tested; a flip pulses the taps that name it (R320). -/
def State.stepBarrier (s : State) (d b : Nat) (x : Barrier) : State :=
  let r := x.test
  let s := s.setBarrier d b r.1
  if r.2 then s.tapBarrier d b else s

/-- An arrival with announced bytes (R321). -/
def Barrier.arrive (x : Barrier) (bytes : Nat) : Barrier :=
  { x with pend := min (x.pend + bytes) (2 ^ 24 - 1), arrived := x.arrived + 1 }

/-- A credit, and whether it exceeded PEND (R258). -/
def Barrier.credit (x : Barrier) (n : Nat) : Barrier × Bool :=
  if x.pend < n then ({ x with pend := 0, err := true }, true) else ({ x with pend := x.pend - n }, false)

/-! The elements (R328, R330). -/

/-- RELOAD, 0 acting as 1 (R330). -/
def reload (w : Word) : Nat := max 1 (bits w 15 0)
/-- A counter's word with a new VALUE. -/
def setValue (w : Word) (v : Nat) : Word := w64 (w.toNat / 2 ^ 48 * 2 ^ 48 + v % 2 ^ 16 * 2 ^ 32 + w.toNat % 2 ^ 32)

/-- A counter is enabled and has reached 0 (R328). -/
def counterDue (w : Word) : Bool := bit w 63 && bits w 47 32 = 0

/-- A counter after a pulse of a signal. -/
def counterPulse (sig : Nat) (w : Word) : Word :=
  if bit w 63 && bits w 22 16 = sig && bits w 47 32 != 0 then setValue w (bits w 47 32 - 1) else w

/-- The byte of a term's operand. -/
def termOpnd (w : Word) (k : Nat) : Nat := bits w (8 * k + 7) (8 * k)
/-- The operand is used and names the signal. -/
def termUses (w : Word) (k sig : Nat) : Bool := (termOpnd w k).testBit 7 && termOpnd w k % 128 = sig

/-- A term after a pulse of a signal: latches set, OVR where one was (R328). -/
def termPulse (sig : Nat) (w : Word) : Word :=
  if !bit w 63 then w
  else
    let hit := (List.range 4).filter fun k => termUses w k sig
    let lost := hit.any fun k => bit w (32 + k)
    hit.foldl (fun w k => w ||| w64 (2 ^ (32 + k))) (if lost then w ||| w64 (2 ^ 39) else w)

/-- Every used latch of an enabled term is set (R328). -/
def termDone (w : Word) : Bool :=
  bit w 63 && (List.range 4).any (fun k => (termOpnd w k).testBit 7) &&
    (List.range 4).all fun k => !(termOpnd w k).testBit 7 || bit w (32 + k)

/-- The latches cleared. -/
def termClear (w : Word) : Word := w &&& ~~~(w64 (15 * 2 ^ 32))

/-- The outputs that the terms named drive, in a cycle in which those terms pulse. -/
def outputsOf (o : List Word) (done : List Nat) : List (BitVec 4) :=
  ((List.range 16).filter fun i => bit (o.getD i 0) 63 && done.any fun t => bit (o.getD i 0) t).map (BitVec.ofNat 4)

/-- The terms that have completed pulse, and the outputs that name them are due (R328). -/
def Interchange.drive (x : Interchange) : Interchange :=
  { x with outs := x.outs ++ (outputsOf x.outputs.toList x.done).filter fun o => !x.outs.contains o, done := [] }

/-- Pulses of one cycle reach the counters and the term latches of a district (R328). -/
def Interchange.signal (x : Interchange) (sigs : List (BitVec 7)) : Interchange :=
  let terms := x.terms.map fun w => sigs.foldl (fun w g => termPulse g.toNat w) w
  let done := (List.range 32).filter fun i => termDone (terms.toList.getD i 0)
  { x with
    pulses := x.pulses.filter fun g => !sigs.contains g
    counters := x.counters.map fun w => sigs.foldl (fun w g => counterPulse g.toNat w) w
    terms := terms.map fun w => if termDone w then termClear w else w
    done := x.done ++ done.filter fun i => !x.done.contains i }

/-- COUNTER_EXPIRE (R328). -/
def evCounterExpire (d : DistId) (j : BitVec 5) (s : State) : Option State :=
  let i := distIdx d.arr d.dist
  let x := s.district i
  let w := x.evx.counters[j.toNat]'j.isLt
  if counterDue w then
    some ((s.setDistrict i { x with evx := { x.evx with counters := x.evx.counters.set j.toNat (setValue w (reload w)) j.isLt } }).pulse
      i (64 + j.toNat))
  else none

/-- floor(clock / PERIOD); 0 for a period of 0. -/
def State.timerQ (s : State) (w : Word) : Nat :=
  let clock := if bit w 62 then s.timeNs.toNat else s.cyc
  clock / bits w 31 0

/-- TIMER_TICK (R330): a timer's clock has crossed a multiple of its period. -/
def evTimerTick (d : DistId) (j : R3) (s : State) : Option State :=
  let i := distIdx d.arr d.dist
  let x := s.district i
  let w := x.evx.timers[j.toNat]'j.isLt
  let q := s.timerQ w
  if bit w 63 && bits w 31 0 != 0 && x.evx.timerQ[j.toNat]'j.isLt < q then
    some ((s.setDistrict i { x with evx := { x.evx with timerQ := x.evx.timerQ.set j.toNat q j.isLt } }).pulse i (32 + j.toNat))
  else none

/-- A command starts. An Interchange start gives it its promised time, and gives one to an immediate command behind it; no other
start changes a promised time (R224). -/
def Chan.begin (c : Chan) (cyc : Nat) : Chan :=
  match c.active with
  | none => c
  | some a =>
    if a.wait.isNone then { c with active := some { a with started := true } }
    else
      let p := cyc + a.span
      let sh := c.shadow.map fun x =>
        if x.wait.isNone && x.promise.isNone then { x with promise := some (max x.issued p + x.span) } else x
      { c with active := some { a with started := true, promise := some p }, shadow := sh }

/-- The output starts the commands that wait for it (R223). -/
def Chan.outPulse (o cyc : Nat) (c : Chan) : Chan :=
  match c.active with
  | some a => if !a.started && a.wait = some o then c.begin cyc else c
  | none => c

/-- An output of a district pulses (R328, R330): interrupts, a reflex entry, channel starts. -/
def State.outputPulse (s : State) (d : DistId) (o : BitVec 4) : State :=
  let i := distIdx d.arr d.dist
  let x := s.district i
  let w := x.evx.outputs[o.toNat]'o.isLt
  let s := s.setDistrict i { x with evx := { x.evx with outs := x.evx.outs.erase o } }
  let owner := x.evx.owner
  let s :=
    if bit w 49 && bit owner 63 then
      s.raiseLine 1 fun c => c.kind = .task && !c.isDisp && c.dist = i && c.tenant = bits owner 3 0 && !c.halted
    else s
  let tiles := (List.range 8).map fun t => ({ arr := d.arr, dist := d.dist, tile := t } : Loc)
  let s := tiles.foldl (fun s t => s.setTile t { s.tile t with chans := (s.tile t).chans.map (Chan.outPulse o.toNat s.cyc) }) s
  if bit w 48 && d.arr then s.startEntry { arr := true, dist := d.dist, tile := bits w 42 40 } (bits w 47 44) else s

/-- Every counter of a district that has reached 0 pulses and reloads. -/
def State.expireAll (s : State) (d : DistId) : State :=
  (List.range 32).foldl (fun s j => (evCounterExpire d (BitVec.ofNat 5 j) s).getD s) s

/-- The signals that pulse in the cycle that begins (R324). -/
def Interchange.begin (x : Interchange) : Interchange :=
  { x with pulses := x.pulses ++ x.soon.filter fun g => !x.pulses.contains g, soon := [] }

/-- Nothing of an Interchange moves until something outside it does. -/
def Interchange.quiet (x : Interchange) : Bool :=
  x.pulses.isEmpty && x.soon.isEmpty && x.done.isEmpty && x.outs.isEmpty && x.timers.all (fun w => !bit w 63) &&
    !x.counters.any counterDue

/-- One cycle of an Interchange (R328): the terms that completed in the cycle before pulse with their outputs, the pulses of the
cycle before reach counters and latches, the counters that reach 0 pulse and reload, and the timers tick. -/
def State.evxCycle (s : State) (d : DistId) : State :=
  let i := distIdx d.arr d.dist
  if (s.district i).evx.quiet then s
  else
    let s := s.expireAll d
    let s := s.setDistrict i { s.district i with evx := (s.district i).evx.drive }
    let s := (s.district i).evx.outs.foldl (fun s o => s.outputPulse d o) s
    let x := s.district i
    let s := (s.setDistrict i { x with evx := x.evx.signal x.evx.pulses }).expireAll d
    let s := s.setDistrict i { s.district i with evx := (s.district i).evx.begin }
    (List.range 8).foldl (fun s j => (evTimerTick d (BitVec.ofNat 3 j) s).getD s) s

/-- One cycle of every Interchange (R327). -/
def State.evxCycles (s : State) : State :=
  (List.range 8).foldl (fun s i => s.evxCycle (if i < 6 then ⟨false, i⟩ else ⟨true, i - 6⟩)) s

end Sys2Proof.Machine
end

