-- ==== Sys2Proof/Machine/MemInstr.lean ====
section
/-! DEFINITION. FENCE (R247, R248), the atomics (R249 to R253), the stash instructions (R254, R255), completion barrier
objects (R256, R257). -/

namespace Sys2Proof.Machine

/-! FENCE. -/

/-- What every FENCE waits for (R248). -/
def fenceWaits : M Unit := do
  let s ← get
  waitIf (s.c.vq ≠ [] || s.c.mq ≠ [] || s.c.jobs.any fun j => match j with
    | .stash o _ => o ≠ .spf
    | .atomicRefused .. => true
    | _ => false)

/-- FENCE of an order: acquire waits for the earlier reads, release for every earlier access (R233). -/
def fenceOp (rel : Bool) : M Unit := do
  fenceWaits
  let s ← get
  waitIf (s.c.jobs.any fun j => match j with
    | .load .. | .atomic _ | .page .. => true
    | _ => false)
  if rel then drainOwn

/-- FENCE.ACQ (R248). -/
def execFenceAcq (_sc : R3) (s : State) : Out := once 1 (fenceOp false) s
/-- FENCE.REL (R248). -/
def execFenceRel (_sc : R3) (s : State) : Out := once 1 (fenceOp true) s
/-- FENCE.ACQ_REL (R248). -/
def execFenceAcqRel (_sc : R3) (s : State) : Out := once 1 (fenceOp true) s
/-- FENCE.SEQ (R248). -/
def execFenceSeq (_sc : R3) (s : State) : Out := once 1 (fenceOp true) s

/-! Atomics. -/

/-- The operation depends on the order of performance under deterministic mode (R204). -/
def AtomOp.ordered (op : AtomOp) (nr : Bool) : Bool :=
  !nr || (match op with
    | .swp | .cas | .fadd => true
    | _ => false)

/-- The element types of an atomic (R251). -/
def AtomOp.types (op : AtomOp) (t : ETy) : Bool :=
  match op with
  | .fadd => t = .f32
  | .swp | .cas => t = .i32 || t = .n32 || t = .i64 || t = .n64 || t = .f32
  | _ => t = .i32 || t = .n32 || t = .i64 || t = .n64

/-- The code of a type read as a signed number of its width. -/
def ETy.asSigned (t : ETy) (code : Nat) : Int := sextNat t.width (code % 2 ^ t.width)

/-- `new` of R249 and the flags of AFADD; none where ACAS does not write. -/
def AtomOp.apply (op : AtomOp) (t : ETy) (old v swap : Nat) : Option Nat × FF :=
  let m := 2 ^ t.width
  let bitw (f : Word → Word → Word) : Nat := (f (w64 old) (w64 v)).toNat
  match op with
  | .add => (some ((old + v) % m), 0)
  | .and => (some (bitw (· &&& ·)), 0)
  | .or => (some (bitw (· ||| ·)), 0)
  | .xor => (some (bitw (· ^^^ ·)), 0)
  | .min => (some (if t.asSigned old ≤ t.asSigned v then old else v), 0)
  | .max => (some (if t.asSigned old ≤ t.asSigned v then v else old), 0)
  | .minu => (some (Nat.min old v), 0)
  | .maxu => (some (Nat.max old v), 0)
  | .swp => (some v, 0)
  | .cas => (if old = v then some swap else none, 0)
  | .fadd =>
    let r := Val.add .rne (ETy.f32.value old).1 (ETy.f32.value v).1
    let c := ETy.f32.conv {} r.1
    (some c.1, c.2 ||| r.2)

/-- The atomic's home may lie across the spare link: system scope, DRAM window, CAPS.SPARE = 1 (R253; log entry 27). -/
def State.across (s : State) (i : Issuer) (r : Res) : Bool := s.spare && i.scope = 6 && r.dram

/-- A tagged atomic of the context is outstanding (R253). -/
def Ctx.tagOut (c : Ctx) : Bool := c.jobs.any fun j => match j with
  | .atomic r | .atomicDone r _ _ _ | .atomicRefused r _ => r.tag.isSome
  | _ => false

/-- Atomic refusals of the context, reported or still possible (R385). -/
def Ctx.atomStops (c : Ctx) : Nat :=
  (c.reports.filter fun r => r.unit = .atomic).length + (c.jobs.filter fun j => match j with
    | .atomic _ | .atomicRefused .. | .page .. => true
    | _ => false).length

/-- The flags that wait for an atomic: ACAS's Z (R250). -/
def AtomReq.pend (r : AtomReq) : Flags := { z := r.op = .cas && !r.nr }

/-- The request sent: ACC empty and Z pending as its result needs (R250). -/
def sendAtomic (r : AtomReq) : M Unit := do
  let s ← get
  waitIf (decide (4 ≤ s.c.atomStops))
  if bit r.order 1 then releaseOwn
  if r.nr then addJob (.atomic r) else deferResult true r.pend (.atomic r)

/-- The address stage of an atomic (R251): XLATE, REFLEXDRAM, ACCESS, CAPFAULT, and the hazards of the context's own units. -/
def atomPlace (iss : Issuer) (o : Opnd) : M Res := do
  let r ← access iss o.ea .rmw
  let s ← get
  raiseIf (s.redirects iss o.ea.toNat).isSome cACCESS o.ea
  capCheck iss o.ea
  waitIf (s.acquires s.c || s.unitHazard s.c r.key o.ty.bytes)
  pure r

/-- The operand of an atomic: address and type (R19, R251). -/
def atomOpnd (op : AtomOp) (n : R3) : M Opnd := do
  let v ← readP n
  let s ← get
  match ETy.ofCode (s.c.desc n).ty.toNat with
  | none => raise cSHAPE (shapeVal 5 1)
  | some t => do
    raiseIf (!op.types t) cSHAPE (shapeVal 5 9)
    let ea := ringAdd (s.c.desc n) v 0
    raiseIf (ea.toNat % t.bytes != 0) cALIGN ea
    pure ⟨n, v, t, ea⟩

/-- The word of an atomic, for DETATOM's TVAL (R204). -/
def atomWord (i : Instr) : Word := w64 (((encode i).getLastD 0).toNat)

/-- An atomic (R250). -/
def atomOp (self : Instr) (op : AtomOp) (p : Pre) (order : BitVec 2) (n q : R3) (nr : Bool) (i : Nat) : M Unit := do
  let s ← get
  raiseIf (s.c.det && op.ordered nr) cDETATOM (atomWord self)
  let iss := s.c.issuer (s.c.scopeOf p)
  let pn := s.c.field p 0 i n
  let qn := s.c.field p 1 i q
  let _ ← readP pn
  let sw ← if op = .cas then readP qn else pure 0
  let a ← readAcc
  let o ← atomOpnd op pn
  let r ← atomPlace iss o
  let s ← get
  let m := 2 ^ o.ty.width
  let tagged := s.across iss r
  waitIf (tagged && s.c.tagOut)
  if tagged then modCtx fun c => { c with seqTag := c.seqTag + 1 }
  sendAtomic { iss := iss, op := op, el := ⟨o.ea, o.ty⟩, v := w64 (a.toNat % m), swap := w64 (sw.toNat % m), order := order
               nr := nr, tag := if tagged then some s.c.seqTag else none, sent := s.cyc }

/-- ARETRY (R253). -/
def aretryOp : M Unit := do
  let s ← get
  match s.c.retry with
  | none => raise cACCESS 0
  | some r => do
    waitIf s.c.tagOut
    sendAtomic { r with sent := s.cyc }

/-- AADD (R249). -/
def execAadd (p : Pre) (o : BitVec 2) (n : R3) (nr : Bool) (s : State) : Out :=
  repeated false p (atomOp (.aadd p o n nr) .add p o n 0 nr) s
/-- AAND (R249). -/
def execAand (p : Pre) (o : BitVec 2) (n : R3) (nr : Bool) (s : State) : Out :=
  repeated false p (atomOp (.aand p o n nr) .and p o n 0 nr) s
/-- AOR (R249). -/
def execAor (p : Pre) (o : BitVec 2) (n : R3) (nr : Bool) (s : State) : Out :=
  repeated false p (atomOp (.aor p o n nr) .or p o n 0 nr) s
/-- AXOR (R249). -/
def execAxor (p : Pre) (o : BitVec 2) (n : R3) (nr : Bool) (s : State) : Out :=
  repeated false p (atomOp (.axor p o n nr) .xor p o n 0 nr) s
/-- AMIN (R249). -/
def execAmin (p : Pre) (o : BitVec 2) (n : R3) (nr : Bool) (s : State) : Out :=
  repeated false p (atomOp (.amin p o n nr) .min p o n 0 nr) s
/-- AMAX (R249). -/
def execAmax (p : Pre) (o : BitVec 2) (n : R3) (nr : Bool) (s : State) : Out :=
  repeated false p (atomOp (.amax p o n nr) .max p o n 0 nr) s
/-- AMINU (R249). -/
def execAminu (p : Pre) (o : BitVec 2) (n : R3) (nr : Bool) (s : State) : Out :=
  repeated false p (atomOp (.aminu p o n nr) .minu p o n 0 nr) s
/-- AMAXU (R249). -/
def execAmaxu (p : Pre) (o : BitVec 2) (n : R3) (nr : Bool) (s : State) : Out :=
  repeated false p (atomOp (.amaxu p o n nr) .maxu p o n 0 nr) s
/-- ASWP (R249). -/
def execAswp (p : Pre) (o : BitVec 2) (n : R3) (nr : Bool) (s : State) : Out :=
  repeated false p (atomOp (.aswp p o n nr) .swp p o n 0 nr) s
/-- ACAS (R249). -/
def execAcas (p : Pre) (o : BitVec 2) (n q : R3) (nr : Bool) (s : State) : Out :=
  repeated false p (atomOp (.acas p o n q nr) .cas p o n q nr) s
/-- AFADD (R249). -/
def execAfadd (p : Pre) (o : BitVec 2) (n : R3) (nr : Bool) (s : State) : Out :=
  repeated false p (atomOp (.afadd p o n nr) .fadd p o n 0 nr) s
/-- ARETRY (R253). -/
def execAretry (s : State) : Out := once 1 aretryOp s

/-! What becomes of an atomic request. -/

/-- The refusal of an atomic at its home, if any (R252). -/
def State.atomRefusal (s : State) (r : AtomReq) (res : Res) : Option Byte :=
  let g := s.gran (res.key / 32)
  if s.genFaults r.iss res then some cGENFAULT
  else if r.iss.mixtrap && g.mixes (res.key % 32) r.el.ty.bytes then some cMIXED
  else if s.poisoned res then some cPOISON
  else none

/-- The result that a value-returning atomic writes to ACC, and its flags (R250). -/
def AtomReq.result (r : AtomReq) (old : Nat) : Word × FlagSet :=
  (r.el.ty.extend old, if r.op = .cas then { z := some (decide (old = r.v.toNat)) } else {})

/-- A request performed at its home: the job that it becomes, and the state (R250, R252). -/
def State.performAtomic (s : State) (r : AtomReq) (res : Res) : Job × State :=
  match s.atomRefusal r res with
  | some sub => (.atomicRefused r sub, s)
  | none =>
    let old := leNat (s.readBytes { r.iss with esc := none } res r.el.ea.toNat r.el.ty.bytes)
    let x := r.op.apply r.el.ty old r.v.toNat r.swap.toNat
    let s' := match x.1 with
      | none => s
      | some n => (s.put r.iss res (some r.iss.uid) (leBytes r.el.ty.bytes n)).noteStrong res.key r.el.ty.bytes
    let y := r.result old
    (.atomicDone r y.1 y.2 (if r.nr then 0 else x.2), s')

/-- The request may be performed now: no engine or lease holds its granule, no earlier access of the context to its place. -/
def State.atomReady (s : State) (before : List Job) (r : AtomReq) (res : Res) : Bool :=
  !s.busy (res.key / 32) true && !before.any fun j => match j with
    | .store k bs => decide (k < res.key + r.el.ty.bytes) && decide (res.key < k + bs.length)
    | .load .. | .atomic _ => (s.jobKeys j).any fun k => sameHome k res.key
    | _ => false

/-- The first job that `f` turns into something, with the jobs before it. -/
def firstJob {α : Type} (f : List Job → Job → Option α) (seen' : List Job) : List Job → Option (List Job × α × List Job)
  | [] => none
  | j :: js => match f seen' j with
    | some x => some (seen', x, js)
    | none => firstJob f (seen' ++ [j]) js

/-- The recorded result of a tag at the home (R253). -/
def Ctx.recorded (c : Ctx) (r : AtomReq) : Option (Word × FlagSet × FF) :=
  match r.tag with
  | none => none
  | some t => (c.homeRec.find? fun x => x.1 = t).map fun x => x.2

/-- The home records a tagged result: the last 16 (R253). -/
def Ctx.record (c : Ctx) (j : Job) : Ctx :=
  match j with
  | .atomicDone r v fs ff => match r.tag with
    | none => c
    | some t =>
      let l := c.homeRec.filter (fun x => x.1 ≠ t) ++ [(t, v, fs, ff)]
      { c with homeRec := l.drop (l.length - 16) }
  | _ => c

/-- ATOMIC_AT_HOME (R250, R252, R253): the first request of the context that can be performed is. -/
def evAtomicAtHome (s : State) : Option State :=
  let f (before : List Job) (j : Job) : Option (AtomReq × Res) := match j with
    | .atomic r => match s.resolve r.iss r.el.ea.toNat .rmw with
      | .ok res => if s.atomReady before r res then some (r, res) else none
      | .error _ => none
    | _ => none
  match firstJob f [] s.c.jobs with
  | none => none
  | some (pre, (r, res), post) =>
    match s.c.recorded r with
    | some (v, fs, ff) => some { s with c := { s.c with jobs := pre ++ [.atomicDone r v fs ff] ++ post } }
    | none =>
      let x := s.performAtomic r res
      some { x.2 with c := { x.2.c.record x.1 with jobs := pre ++ [x.1] ++ post } }

/-- ACC filled with a late result, its flags written, its FFLAGS ORed in; the flags are no longer pending (R21, R114). -/
def Ctx.fillAcc (c : Ctx) (v : Word) (fs : FlagSet) (ff : FF) (pend : Flags) : Ctx :=
  { c with acc := ⟨v, true, c.gen⟩, flags := c.flags.apply fs, fflags := c.fflags ||| ff
           pend := ⟨c.pend.n && !pend.n, c.pend.z && !pend.z, c.pend.c && !pend.c, c.pend.v && !pend.v⟩ }

/-- The report of a refused atomic (R252). -/
def AtomReq.report (r : AtomReq) (cyc : Nat) (sub : Byte) : Report := { unit := .atomic, sub := sub, addr := r.el.ea, pc := r.iss.pc, time := cyc }

/-- A tagged request's response has arrived: the retry record is cleared when it is that request's (R253). -/
def Ctx.responded (c : Ctx) (r : AtomReq) : Ctx :=
  if r.tag.isSome && c.retry.any (fun x => x.tag = r.tag) then { c with retry := none } else c

/-- ATOMIC_REFUSAL (R252): the refusal arrives; ACC is filled with zero. -/
def evAtomicRefusal (s : State) : Option State :=
  let f (_ : List Job) (j : Job) : Option (AtomReq × Byte) := match j with
    | .atomicRefused r sub => some (r, sub)
    | _ => none
  match firstJob f [] s.c.jobs with
  | none => none
  | some (pre, (r, sub), post) =>
    let c := { s.c with jobs := pre ++ post, reports := s.c.reports ++ [r.report s.cyc sub] }.responded r
    some { s with c := if r.nr then c else c.fillAcc 0 {} 0 r.pend }

/-- LINKLOST's TVAL and the retry record of a lost atomic (R253). -/
def Ctx.loseAtomic (c : Ctx) (r : AtomReq) : Ctx :=
  let c := { c with retry := some r, linkLost := some (r.tag.getD 0, r.el.ea) }
  if r.nr then c else c.fillAcc 0 {} 0 r.pend

/-- The context's tagged atomic has no response: the request, sent or performed. -/
def taggedJob (_ : List Job) (j : Job) : Option AtomReq :=
  match j with
  | .atomic r | .atomicDone r _ _ _ | .atomicRefused r _ => if r.tag.isSome then some r else none
  | _ => none

/-- The context with its tagged atomic declared lost, if it has one. -/
def Ctx.loseTagged (c : Ctx) : Ctx :=
  match firstJob taggedJob [] c.jobs with
  | none => c
  | some (pre, r, post) => { c with jobs := pre ++ post }.loseAtomic r

/-- ATOMIC_RESPONSE_LOST (R253): 65,536 cycles without a response. -/
def evAtomicResponseLost (s : State) : Option State :=
  match firstJob taggedJob [] s.c.jobs with
  | none => none
  | some (_, r, _) => if s.cyc < r.sent + 65536 then none else some { s with c := s.c.loseTagged }

/-! Stash instructions. -/

/-- The line that a stash instruction acts on; none where it does nothing (R255). -/
def State.stashLine (s : State) (va : Word) : Option Nat :=
  if s.c.isDisp || s.c.onReflex then none
  else match s.resolve (s.c.issuer 0) va.toNat .read with
    | .ok r => if r.dram then some (r.key / 32) else none
    | .error _ => none

/-- A stash instruction on a line (R254). -/
def stashOp (op : StashOp) (p : Pre) (n : R3) (i : Nat) : M Unit := do
  let s ← get
  let ea ← baseAddr (s.c.field p 0 i n)
  match s.stashLine ea with
  | none => pure ()
  | some l => addJob (.stash op (some l))

/-- SPF (R254). -/
def execSpf (p : Pre) (n : R3) (s : State) : Out := repeated false p (stashOp .spf p n) s
/-- SWB (R254). -/
def execSwb (p : Pre) (n : R3) (s : State) : Out := repeated false p (stashOp .swb p n) s
/-- SINV (R254). -/
def execSinv (p : Pre) (n : R3) (s : State) : Out := repeated false p (stashOp .sinv p n) s
/-- SFLUSH (R254). -/
def execSflush (p : Pre) (s : State) : Out :=
  repeated false p (fun _ => do
    let s ← get
    if s.c.isDisp || s.c.onReflex then pure () else addJob (.stash .sflush none)) s

/-- STASH_OP_COMPLETE (R254, R255): SWB and SINV wait while an engine owns their line. -/
def evStashOpComplete (s : State) : Option State :=
  let f (_ : List Job) (j : Job) : Option Unit := match j with
    | .stash op l =>
      if (op = .swb || op = .sinv) && l.any (fun g => s.ownedData g || s.ownedObj g) then none else some ()
    | _ => none
  (firstJob f [] s.c.jobs).map fun x => { s with c := { s.c with jobs := x.1 ++ x.2.2 } }

/-! Completion barrier objects (R256, R257). -/

/-- An object's word as a barrier's fields. -/
def objOf (w : Nat) : Barrier :=
  { phase := w.testBit 63, err := w.testBit 62, expect := w % 65536, arrived := w / 65536 % 65536, pend := w / 2 ^ 32 % 2 ^ 24 }
/-- A barrier's fields as an object's word. -/
def objWord (x : Barrier) : Nat :=
  b2n x.phase * 2 ^ 63 + b2n x.err * 2 ^ 62 + x.pend % 2 ^ 24 * 2 ^ 32 + x.arrived % 65536 * 65536 + x.expect % 65536

/-- The object's place (R257): ALIGN, then ACCESS outside the local and rank windows. An instruction that writes the object waits for the
leases on it (R169), BINIT for the commands that name it too (R258). -/
def objPlace (p : Pre) (n : R3) (own write : Bool) : M (Issuer × Word × Res) := do
  let s ← get
  let ea ← baseAddr (n + s.c.stagger)
  raiseIf (ea.toNat % 32 != 0) cALIGN ea
  let iss := s.c.issuer (s.c.scopeOf p)
  raiseIf (decide (rankBase + 2 ^ 37 ≤ ea.toNat)) cACCESS ea
  match s.resolve iss ea.toNat .rmw with
  | .error .hold => wait
  | .error (.cause _) => raise cACCESS ea
  | .ok r => do
    waitIf (s.acquires s.c || s.unitHazard s.c r.key 32 || s.pendingAt s.c r.key || s.ownedData (r.key / 32) ||
      (own && s.ownedObj (r.key / 32)) || (write && s.leased (r.key / 32)))
    readTraps iss r ea 8
    pure (iss, ea, r)

/-- The object's granule marked for extra arrivals, or no longer (R257). -/
def State.setOver (s : State) (g : Nat) (b : Bool) : State := s.setGran g { s.gran g with extra := b }

/-- An object's word written at its home by an arrival or a credit, after the completion test of R256, which has no effect once
there are extra arrivals until a BINIT (R257). -/
def State.putObj (s : State) (i : Issuer) (r : Res) (own : Option Nat) (x : Barrier) : State :=
  let g := r.key / 32
  let s := if r.gran then s.retag g (r.wgen i) else s
  let extra := (s.gran g).extra || decide (x.expect < x.arrived)
  (s.put i r own (leBytes 8 (objWord (if extra then x else x.test.1)))).setOver g extra

/-- The object as the issuer reads it. -/
def readObj (iss : Issuer) (ea : Word) (r : Res) : M Barrier := do
  let s ← get
  pure (objOf (leNat (s.readBytes iss r ea.toNat 8)))

/-- BINIT (R257). -/
def binitOp (p : Pre) (n : R3) : M Unit := do
  let a ← readAcc
  let x ← objPlace p n true true
  capCheck x.1 x.2.1
  let o ← readObj x.1 x.2.1 x.2.2
  let new : Barrier := { phase := o.phase, expect := max 1 (bits a 15 0), pend := bits a 55 32 }
  modify fun s => (s.put x.1 x.2.2 (some x.1.uid) (leBytes 8 (objWord new) ++ List.replicate 24 0)).setOver (x.2.2.key / 32) false

/-- BARV (R257). -/
def barvOp (p : Pre) (n : R3) : M Unit := do
  let a ← readAcc
  let x ← objPlace p n false true
  capCheck x.1 x.2.1
  releaseOwn
  let o ← readObj x.1 x.2.1 x.2.2
  modify fun s => s.putObj x.1 x.2.2 (some x.1.uid) (o.arrive (bits a 23 0))
  emptyAcc
  addJob (.fill (w64 (b2n o.phase)) {} 0)

/-- BWAIT (R257). -/
def bwaitOp (p : Pre) (n : R3) : M Unit := do
  let a ← readAcc
  let x ← objPlace p n false false
  let o ← readObj x.1 x.2.1 x.2.2
  waitAbsent (o.phase == bit a 0)

/-- BINIT (R257). -/
def execBinit (p : Pre) (n : R3) (s : State) : Out := once (p.len false) (binitOp p n) s
/-- BARV (R257). -/
def execBarv (p : Pre) (n : R3) (s : State) : Out := once (p.len false) (barvOp p n) s
/-- BWAIT (R257). -/
def execBwait (p : Pre) (n : R3) (s : State) : Out := once (p.len false) (bwaitOp p n) s

end Sys2Proof.Machine
end

