-- ==== Sys2Proof/Machine/UnitMem.lean ====
section
/-! DEFINITION. How the vector, matrix and copy units read and write elements: generations, poison, MIXED, synchronising
records, escrow and ownership (R135, R150, R222, R241), and the issue of an instruction that names records (R71, R128, R167). -/

namespace Sys2Proof.Machine

/-- Why a unit cannot go on: it waits, or it stops at an address (R150). -/
inductive UFail where
  | hold
  | fault (cause : Byte) (va : Nat)
  deriving DecidableEq, Repr

/-- A unit's step. -/
abbrev U := Except UFail

/-- A byte that a unit reads: its key and value. A synchronising record waits for a full granule; a poisoned one reads as full
(R135, R395). -/
def State.unitByte (s : State) (i : Issuer) (sync : Bool) (va : Nat) : U (Nat × Byte) :=
  match s.resolve i va .read with
  | .error .hold => .error .hold
  | .error (.cause c) => .error (.fault c va)
  | .ok r =>
    if s.busyTo i (r.key / 32) false || (sync && !(s.gran (r.key / 32)).full && !s.poisoned r) then .error .hold
    else match s.readFault i r va 1 with
    | some c => .error (.fault c va)
    | none => .ok (r.key, s.readByte i r va r.key)

/-- Bytes that a unit reads at addresses. -/
def State.unitBytes (s : State) (i : Issuer) (sync : Bool) : List Nat → U (List (Nat × Byte))
  | [] => .ok []
  | va :: vas => do
    let b ← s.unitByte i sync va
    let r ← s.unitBytes i sync vas
    .ok (b :: r)

/-- The ranges that consecutive keys cover, one for each granule: key and length. -/
def keyRuns : List Nat → List (Nat × Nat)
  | [] => []
  | k :: ks => match keyRuns ks with
    | (k', n) :: r => if k + 1 = k' && k / 32 = k' / 32 then (k, n + 1) :: r else (k, 1) :: (k', n) :: r
    | [] => [(k, 1)]

/-- The ranges of the fills that writing a record's elements makes: in each granule, from the first byte written to the last (R234,
R240). -/
def State.fillRuns (s : State) (i : Issuer) (sh : Shape) (js : List Ix) : List (Nat × Nat) :=
  let ks := s.keysOf i (js.flatMap sh.bytesOf)
  ((ks.map fun k => k / 32).eraseDups).map fun g =>
    let here := ks.filter fun k => k / 32 = g
    let lo := here.foldl min (g * 32 + 31)
    (lo, here.foldl max 0 + 1 - lo)

/-- MIXED at the fill of a granule that an element of a synchronising destination lies in; `js` are the elements written (R240). -/
def State.fillMixes (s : State) (i : Issuer) (sh : Shape) (js : List Ix) (j : Ix) : Bool :=
  sh.sync && i.mixtrap &&
    let gs := (s.keysOf i (sh.bytesOf j)).map fun k => k / 32
    (s.fillRuns i sh js).any fun r => gs.contains (r.1 / 32) && (s.gran (r.1 / 32)).mixes (r.1 % 32) r.2

/-- MIXED at a synchronising record's element that is read (R240). -/
def State.unitMixed (s : State) (i : Issuer) (sync : Bool) (keys : List Nat) : Bool :=
  sync && i.mixtrap && (keyRuns keys).any fun r => (s.gran (r.1 / 32)).mixes (r.1 % 32) r.2

/-- The place of an lns6 element in the bytes that hold part of it. -/
def lnsShift : Nat → Nat
  | 0 => 0
  | 1 => 6
  | 2 => 4
  | _ => 2

/-- The code that an element's bytes hold. -/
def Shape.codeOf (sh : Shape) (j : Ix) (bs : List Byte) : Nat :=
  if sh.ty = .lns6 then leNat bs / 2 ^ lnsShift (sh.sub j) % 64 else leNat bs % 2 ^ sh.ty.width

/-- An element's code read by a unit. -/
def State.unitCode (s : State) (i : Issuer) (sh : Shape) (j : Ix) : U Nat := do
  let bs ← s.unitBytes i sh.sync (sh.bytesOf j)
  if s.unitMixed i sh.sync (bs.map fun b => b.1) then .error (.fault cMIXED (sh.addr j).toNat)
  .ok (sh.codeOf j (bs.map fun b => b.2))

/-- An element's scale byte read by a unit; none where the record is not scaled. -/
def State.unitScale (s : State) (i : Issuer) (sync : Bool) (sh : Shape) (j : Ix) : U (Option Nat) :=
  if !sh.scaled then .ok none
  else do
    let b ← s.unitByte i sync (sh.scaleAddr j)
    .ok (some b.2.toNat)

/-- An element's code as its container holds it (R68): an i36 code with sign copies above it, any other with zeros. -/
def ETy.stored (t : ETy) (code : Nat) : Nat :=
  let c := code % 2 ^ t.width
  if t = .i36 && c.testBit 35 then c + (2 ^ 64 - 2 ^ 36) else c

/-- The bytes that an element's code writes: address, the bits kept, and the bits set. -/
def Shape.bytesFor (sh : Shape) (j : Ix) (code : Nat) : List (Nat × Nat × Nat) :=
  if sh.ty = .lns6 then
    let k := lnsShift (sh.sub j)
    let m := 63 * 2 ^ k
    let c := code % 64 * 2 ^ k
    (sh.bytesOf j).zipIdx.map fun x => (x.1, 255 - m / 2 ^ (8 * x.2) % 256, c / 2 ^ (8 * x.2) % 256)
  else (sh.bytesOf j).zipIdx.map fun x => (x.1, 0, ETy.stored sh.ty code / 2 ^ (8 * x.2) % 256)

/-- A byte as it stands for a writer after the re-tag of R359. -/
def State.underWrite (s : State) (i : Issuer) (r : Res) (va : Nat) : Byte :=
  match (s.redirects i va).bind fun w => (s.win w.1).look w.2 va with
  | some b => b
  | none => if r.gran && (s.gran (r.key / 32)).tag ≠ r.wgen i then 0 else Mem.byte s.mem r.key

/-- A byte with the bits kept and the bits set. -/
def mergeByte (old : Byte) (x : Nat × Nat × Nat) : Byte := BitVec.ofNat 8 (old.toNat % 256 &&& x.2.1 ||| x.2.2)

/-- The pool entry that a covered byte's line had reserved at issue: window, position, and the physical line (R280). -/
def State.reserved (s : State) (i : Issuer) (va : Nat) : Option (Nat × Nat × Nat) :=
  (s.redirects i va).bind fun w => ((s.win w.1).entries.find? fun e => e.pos = w.2 && e.vline = va / 32).map fun e => (w.1, w.2, e.pline)

/-- A covered byte written to the pool under its reserved entry (R280). -/
def State.poolPut (s : State) (w : Nat × Nat × Nat) (x : Nat × Nat × Nat) : State :=
  let old := ((s.win w.1).look w.2.1 x.1).getD (Mem.byte s.mem (w.2.2 * 32 + x.1 % 32))
  s.escPut w.1 w.2.1 x.1 (mergeByte old x)

/-- One byte written by a unit: to escrow, or at its home; `free` says which granules a synchronising record may write. -/
def State.unitPut (s : State) (i : Issuer) (sync : Bool) (free : Nat → Bool) (x : Nat × Nat × Nat) : U State :=
  match s.reserved i x.1 with
  | some w => .ok (s.poolPut w x)
  | none => match s.resolve i x.1 .write with
  | .error .hold => .error .hold
  | .error (.cause c) => .error (.fault c x.1)
  | .ok r =>
    let g := r.key / 32
    if s.busyTo i g true || (sync && ((s.gran g).full || (s.gran g).poison) && !free g) then .error .hold
    else
      let b := mergeByte (s.underWrite i r x.1) x
      match s.redirects i x.1 with
      | some (w, pos) => .ok ((s.escReserve w pos (x.1 / 32) g).escPut w pos x.1 b)
      | none => .ok (s.put i r none [b])

/-- Bytes written by a unit. -/
def State.unitPuts (s : State) (i : Issuer) (sync : Bool) (free : Nat → Bool) : List (Nat × Nat × Nat) → U State
  | [] => .ok s
  | x :: xs => do
    let s ← s.unitPut i sync free x
    s.unitPuts i sync free xs

/-- An element's code written by a unit, among the elements `js` that its entry writes. -/
def State.unitWrite (s : State) (i : Issuer) (free : Nat → Bool) (sh : Shape) (js : List Ix) (j : Ix) (code : Nat) : U State := do
  if s.fillMixes i sh js j then .error (.fault cMIXED (sh.addr j).toNat)
  s.unitPuts i sh.sync free (sh.bytesFor j code)

/-! The end of a synchronising record. -/

/-- The ranges of the elements at the indices, in order. -/
def State.runsOf (s : State) (i : Issuer) (sh : Shape) (js : List Ix) : List (Nat × Nat) :=
  js.flatMap fun j => keyRuns (s.keysOf i (sh.bytesOf j))

/-- The granules of ranges, each once. -/
def granulesOf (l : List (Nat × Nat)) : List Nat := (l.map fun r => r.1 / 32).eraseDups

/-- The fill generation under which an issuer reaches a record's window, where it is a fill rank's (R71, R215). -/
def State.fillUnder (s : State) (i : Issuer) (sh : Shape) : Option Gen :=
  let r := (sh.base.toNat - rankBase) / 2 ^ 21
  if rankBase ≤ sh.base.toNat && sh.base.toNat < rankBase + 2 ^ 37 && i.nrank ≤ r && 0xFF00 ≤ r && r < 0xFF10 then
    some ((s.tile (fillTile r)).fillGen.getD 0)
  else none

/-- Granules of a record marked by a unit under the generation of its accesses there (R215, R359). -/
def State.setBits (s : State) (i : Issuer) (sh : Shape) (full : Bool) (gs : List Nat) : State :=
  gs.foldl (fun t g =>
    t.setFull g (t.tagFor i { key := g * 32, gran := decide (2 ^ 60 ≤ g * 32), fill := s.fillUnder i sh }) none full) s

/-- The strong ranges of a synchronising record's elements: each element read, or each granule's fill (R234, R240). -/
def State.strongRuns (s : State) (i : Issuer) (sh : Shape) (full : Bool) (js : List Ix) : List (Nat × Nat) :=
  if full then s.fillRuns i sh js else s.runsOf i sh js

/-- A synchronising record's strong ranges noted and its granules marked, for the elements done; a granule that elements not done
still use keeps its bit, and a destination's is filled only when the last of them is written (R135, R240). -/
def State.syncDone (s : State) (i : Issuer) (sh : Shape) (full : Bool) (done left : List Ix) : State :=
  if !sh.sync || sh.strm then s
  else
    let still := granulesOf (s.runsOf i sh left)
    let runs := (s.strongRuns i sh full done).filter fun r => !full || !still.contains (r.1 / 32)
    let gs := (granulesOf (s.runsOf i sh done)).filter fun g => !still.contains g
    (runs.foldl (fun s r => s.noteStrong r.1 r.2) s).setBits i sh full gs

/-! Stream buffers (R136, R261). -/

/-- The channel that a streaming record names. -/
def Shape.chan (sh : Shape) : Nat := sh.base.toNat % 2 ^ 16

/-- The codes that wait in a channel of the issuer's tile. -/
def State.stream (s : State) (i : Issuer) (ch : Nat) : List Nat :=
  match i.loc with
  | none => []
  | some t => ((s.tile t).chans.toList.getD ch {}).stream

/-- The codes of a channel changed. -/
def State.setStream (s : State) (i : Issuer) (ch : Nat) (l : List Nat) : State :=
  match i.loc with
  | none => s
  | some t =>
    if h : ch < 8 then
      let ti := s.tile t
      s.setTile t { ti with chans := ti.chans.set ch { ti.chans[ch] with stream := l } h }
    else s

/-- Bytes that a number of codes of a type take in a stream: lns6 packed four to three bytes. -/
def ETy.streamBytes (t : ETy) (n : Nat) : Nat := if t = .lns6 then cdiv (3 * n) 4 else n * t.bytes

/-! Issue: records, translation, capabilities and escrow. -/

/-- A shape record at a pointer's value, whatever ring it has (R161, and R428's VMUL through P2 with PSPAN2 = 256; log entry 21): WHY 8,
then its fields, then its window (R71); `f` is what the instruction makes of the record's fields. -/
def readRecordAs (f : Shape → Shape) (n : R3) (opnd : Nat) : M Shape := do
  let s ← get
  let ea ← readP n
  let i := s.c.issuer s.c.defscope
  raiseIf (ea.toNat % 64 != 0 || localSize i < ea.toNat + 64) cSHAPE (shapeVal opnd 8)
  let bs ← loadGranules i ea 2
  match parseShape bs with
  | .error why => raise cSHAPE (shapeVal opnd why)
  | .ok sh => do
    raiseIf (s.badWindow i (f sh)) cSHAPE (shapeVal opnd 4)
    pure (f sh)

/-- A shape record taken as it is. -/
def readRecord (n : R3) (opnd : Nat) : M Shape := readRecordAs id n opnd

/-- A list with one address of each DRAM page and of each granule elsewhere, the first in order. -/
def firsts (seen : List Nat) : List Nat → List Nat
  | [] => []
  | a :: as =>
    let k := if dramBase ≤ a && a < dramEnd then a / 4096 * 4096 + 1 else a / 32 * 32
    if seen.contains k then firsts seen as else a :: firsts (k :: seen) as

/-- The pages of addresses translated for a way of access, under an issuer that holds no translation yet (R128 step 4). -/
def translateAll (i : Issuer) (a : Acc) : List Nat → M (List (Nat × Nat))
  | [] => pure []
  | va :: vas => do
    let r ← access i (w64 va) a
    let rest ← translateAll i a vas
    pure (if r.dram then ((va - dramBase) / 4096, r.key / 4096) :: rest else rest)

/-- An operand's bytes translated: its elements for the way given, its scale bytes for reading; a synchronising record in the
DRAM window is ACCESS (R217), before the operand's REFLEXDRAM and XLATE (DESIGN CHOICE, log entry 114: no rule orders them). -/
def translateShape (i : Issuer) (sh : Shape) (a : Acc) (js : List Ix) : M (List (Nat × Nat)) := do
  raiseIf (sh.sync && !sh.strm && decide (dramBase ≤ sh.base.toNat)) cACCESS sh.base
  let x ← translateAll i a (firsts [] (if sh.strm then [] else js.flatMap sh.bytesOf))
  let y ← translateAll i .read (firsts [] sh.scaleAddrs)
  pure (x ++ y)

/-- R202 at every byte that an instruction will write. -/
def capAll (i : Issuer) : List Nat → M Unit
  | [] => pure ()
  | va :: vas => do
    capCheck i (w64 va)
    capAll i vas

/-- A pool entry reserved for a covered line: its translation as a write, which may fail, then ESFULL (R280). -/
def reserveLine (i : Issuer) (va : Nat) : M Unit := do
  let s ← get
  match s.redirects i va with
  | none => pure ()
  | some (w, pos) =>
    if (s.win w).has pos (va / 32) then pure ()
    else match s.resolve i va .write with
      | .error (.cause c) => raise c (w64 va)
      | .error .hold => wait
      | .ok r => do
        raiseIf (s.escFull w) cESFULL (w64 va)
        set (s.escReserve w pos (va / 32) (r.key / 32))

/-- Pool entries reserved for lines, each given by one of its addresses. -/
def reserveAll (i : Issuer) : List Nat → M Unit
  | [] => pure ()
  | va :: vas => do
    reserveLine i va
    reserveAll i vas

/-- The first covered byte of each covered line of a destination range, `o` bytes on; no range where the record streams (R280). -/
def State.coveredLines (s : State) (i : Issuer) (sh : Shape) (o : Nat) : List Nat :=
  if i.esc.isNone || sh.strm then []
  else
    let lo := sh.span.1.toNat + o
    let hi := sh.span.2.toNat + o
    (List.range (hi / 32 + 1 - lo / 32)).filterMap fun k =>
      ((List.range 32).map fun b => (lo / 32 + k) * 32 + b).find? fun va => decide (lo ≤ va) && decide (va ≤ hi) && (s.redirects i va).isSome

/-- Pool entries reserved for every covered line of a record's range (R280). -/
def reserveRange (i : Issuer) (sh : Shape) : M Unit := do
  let s ← get
  reserveAll i (s.coveredLines i sh 0)

/-- The bytes of elements of a record that an instruction writes. -/
def Shape.written (sh : Shape) (js : List Ix) : List Nat := if sh.strm then [] else js.flatMap sh.bytesOf

/-- Nothing of the context's own scalar work is outstanding: its stores are performed, its loads and atomics waited for. -/
def ownWork : M Unit := releaseOwn

/-- Where a range lies: storage or the DRAM window, and the distance from its addresses (R133). -/
def State.lies (s : State) (i : Issuer) (r : Int × Int) : Bool × Int :=
  match s.resolve i r.1.toNat .read with
  | .ok x => if x.dram then (true, 0) else (false, (x.key : Int) - r.1)
  | .error _ => (true, 0)

/-- Two ranges of addresses, each displaced to where it lies, meet. -/
def rangesMeet (p q : Bool × Int) (a b : Int × Int) : Bool :=
  p.1 == q.1 && decide (a.1 + p.2 ≤ b.2 + q.2) && decide (b.1 + q.2 ≤ a.2 + p.2)

/-- A destination meets a source of another layout: one of its ranges, elements or scale bytes, meets one of the source's
(R133). -/
def State.overlaps (s : State) (i : Issuer) (d x : Shape) : Bool :=
  !d.same x && d.ranges.any fun a => x.ranges.any fun b => rangesMeet (s.lies i a) (s.lies i b) a b

/-- The rounding mode, saturation, flush and trap enables of an instruction (R30, R54, R55, R110). -/
structure FpCtl where
  mode : RMode := .rne
  sat : Bool := false
  ftz : Bool := false
  traps : FF := 0
  deriving DecidableEq, Repr

/-- FCTL's trap enables in FFLAGS layout. -/
def fctlTraps (w : Word) : FF :=
  BitVec.ofNat 6 (b2n (bit w 8) + b2n (bit w 7) * 2 + b2n (bit w 6) * 4 + b2n (bit w 5) * 8 + b2n (bit w 4) * 16)

/-- What FCTL says without PFX.V. -/
def Ctx.fpCtl (c : Ctx) : FpCtl :=
  { mode := RMode.ofCode (bits c.fctl 2 0), sat := bit c.fctl 12, ftz := bit c.fctl 13, traps := fctlTraps c.fctl }

/-- What FCTL and PFX.V say (R55). -/
def Ctx.fpCtlOf (c : Ctx) (v : Option PfxV) : FpCtl :=
  match v with
  | none => c.fpCtl
  | some v =>
    { mode := if v.rnd = 7 then c.fpCtl.mode else RMode.ofCode v.rnd.toNat, sat := v.sat, ftz := v.ftz
      traps := if v.notrap then 0 else c.fpCtl.traps }

/-- The QTAB checks of an instruction that takes a number of draws (R101, R178). -/
def drawCheck (n : Nat) : M Unit := do
  let s ← get
  if n = 0 then pure () else qtabCheck s.c.mint s.c.qsrd.toNat

/-- A draw that the spec does not give: a rounding under SR for which no index is taken. In deterministic mode it depends on nothing
that the order of performance changes (R205; log entry 46). -/
def freeDraw (i : Issuer) (seq steps n : Nat) : Nat :=
  (if i.det then Config.freeDraw (i.rank * 2 + b2n (i.place.code.any fun b => bit b 0)) seq n else (Config.freeWord (steps + n)).toNat) %
    2 ^ 24

/-- The context's units work: it is active or parked, and not frozen by a pre-emption (R26, R301, R345). -/
def Ctx.unitsRun (c : Ctx) : Bool :=
  !c.frozen && !c.isDisp && (match c.role with
    | .active | .parked _ => true
    | _ => false)

/-- The units of the tile work on the context's entries: on a seized tile on the guests' alone (R337). -/
def State.unitsRun (s : State) (c : Ctx) : Bool :=
  c.unitsRun && (c.isGuest || !c.loc.any fun t => (s.tile t).seizedBy.isSome)

/-- A request for FPX by a completed instruction of a context, in the window under way (R151). -/
def State.fpxFor (s : State) (uid : Nat) (loc : Option Loc) (ff traps : FF) (pc : Word) (order : Nat) : State :=
  if ff &&& traps = 0 then s
  else
    let w := s.cyc / 64
    let s := s.updCtx uid fun c => { c with fpxReq := c.fpxReq ++ [(w, ff &&& traps, pc, order)] }
    match loc with
    | none => s
    | some t => s.setTile t { s.tile t with fpWindow := (s.tile t).fpWindow.erase (w, uid) ++ [(w, uid)] }

/-- A request for FPX by a completed instruction of the moving context (R151). -/
def State.requestFpx (s : State) (ff traps : FF) (pc : Word) (order : Nat) : State := s.fpxFor s.c.uid s.c.loc ff traps pc order

/-- A unit's pass over the elements of a list in order: the state it ends in and, where it stopped, the place, the cause and
the address; nothing at all where it must wait. -/
def unitGo {α β : Type} (f : β → α → U β) : List α → β → Except Unit (β × Option (α × Byte × Nat))
  | [], r => .ok (r, none)
  | x :: xs, r => match f r x with
    | .ok r' => unitGo f xs r'
    | .error .hold => .error ()
    | .error (.fault c va) => .ok (r, some (x, c, va))

end Sys2Proof.Machine
end

