-- ==== Sys2Proof/Machine/VectorMath.lean ====
section
/-! DEFINITION. The results of the vector operations on exact values (R94, R138 to R147) and the sums of R142. -/

namespace Sys2Proof.Machine

/-- The two signs of infinity among values. -/
def hasInf (neg : Bool) (l : List Val) : Bool := l.any fun v => match v with
  | .inf n => n == neg
  | _ => false

/-- A value is a NaN. -/
def Val.isNan (v : Val) : Bool := decide (v = .nan)
/-- A value is a zero of either sign. -/
def Val.isZero : Val → Bool
  | .zero _ => true
  | _ => false
/-- A value is infinite. -/
def Val.isInf : Val → Bool
  | .inf _ => true
  | _ => false
/-- A value is a zero of negative sign. -/
def Val.isNegZero (v : Val) : Bool := decide (v = .zero true)

/-- The exact sum of a list of addends, a zero sum being -0 when every addend is -0 or the mode is RDN (R138, R142). -/
def sumVals (mode : RMode) (l : List Val) : Val × FF :=
  if hasInf true l && hasInf false l then (.nan, ffIV)
  else if l.any Val.isNan then (.nan, 0)
  else if hasInf true l then (.inf true, 0)
  else if hasInf false l then (.inf false, 0)
  else (Val.ofDy (mode == .rdn || l.all Val.isNegZero) (l.foldl (fun a v => a.add v.dy) ⟨0, 0⟩), 0)

/-- The integer of an exact integer value. -/
def Val.toI : Val → Int
  | .fin d => if 0 ≤ d.e then d.m * 2 ^ d.e.toNat else d.m / 2 ^ (-d.e).toNat
  | _ => 0

/-- The integer that a shift amount, an index or an exponent stands for; none for a NaN (log entry 45). -/
def Val.amount (v : Val) : Option Int := if v.isNan then none else some v.toI

/-- An operand as an operation takes it: its type, whether it is scaled, its code and its scale byte. -/
structure VOpd where
  ty : ETy := .i64
  scaled : Bool := false
  code : Nat := 0
  scl : Option Nat := none
  deriving DecidableEq, Repr

/-- The operand's exact value and the flag of a reserved code (R95, R97). -/
def VOpd.val (o : VOpd) : Val × FF := o.ty.scaled o.code o.scl

/-- The value under a scale byte. -/
def underScale (scl : Option Nat) (v : Val) : Val :=
  match scl with
  | none => v
  | some s => match e8Exp s with
    | none => .nan
    | some k => v.scale k

/-- The product of two operands: of lns6 codes under R94, otherwise exact (R138). -/
def vproduct (a b : VOpd) : Val × FF :=
  if a.ty = .lns6 && b.ty = .lns6 then
    let rsv (o : VOpd) : Bool := o.code % 64 == 0x30
    if rsv a || rsv b then (.nan, ffRSV)
    else
      let p : Val :=
        if a.code % 64 = 0x10 || b.code % 64 = 0x10 then .zero false
        else
          let d := lnsLin (lnsC a.code + lnsC b.code)
          .fin (if lnsNeg a.code != lnsNeg b.code then d.neg else d)
      (underScale b.scl (underScale a.scl p), 0)
  else
    let x := a.val
    let y := b.val
    let r := x.1.mul y.1
    (r.1, r.2 ||| x.2 ||| y.2)

/-- VMIN's and VMAX's choice, -0 below +0; NaN when either is (R138). -/
def vpick (max : Bool) (a b : Val) : Val :=
  if a.isNan || b.isNan then .nan
  else
    let less := a.lt b || (a.eq b && a.isNeg && !b.isNeg)
    if less == max then b else a

/-- VSCALE: a times 2^n; amounts beyond 8192 either way give what 8192 gives (R138). -/
def vscaleBy (a : Val) (n : Option Int) : Val :=
  match n with
  | none => .nan
  | some n => a.scale (min (max n (-8192)) 8192)

/-- VRCP's table (R145). -/
def rcpT (j : Nat) : Nat := (2 ^ 22 + 513 + 2 * j) / (2 * (513 + 2 * j))
/-- VRSQ's table (R145). -/
def rsqT (i : Nat) : Nat := (isqrt (2 ^ 34 / (2 ^ (i / 128) * (257 + 2 * (i % 128)))) + 1) / 2

/-- A result before rounding: the value, the flags raised with it, and whether it is the approximation of a table. -/
abbrev Exact := Val × FF

/-- VRCP of a finite value: the approximation, and whether 1/x lies beyond the largest finite value of the destination
(R145). -/
def rcpFin (f : Fmt) (d : Dy) : Dy × Bool :=
  let n := d.m.natAbs
  let l := flog2 n
  let e := (l : Int) + d.e
  let t : Int := rcpT (n * 256 / 2 ^ l - 256)
  let big : Dy := ⟨f.maxM, f.emax - (f.p - 1)⟩
  (⟨if d.m < 0 then -t else t, -e - 12⟩, decide ((big.mul ⟨n, d.e⟩).cmp ⟨1, 0⟩ < 0))

/-- VRCP into a floating type (R145). -/
def vrcp (f : Fmt) (rc : RCtl) (v : Val) : Nat × FF :=
  match v with
  | .zero n => let r := f.round rc (.inf n); (r.1, r.2 ||| ffDZ)
  | .inf n => f.round rc (.zero n)
  | .nan => f.round rc .nan
  | .fin d =>
    let r := rcpFin f d
    if r.2 then
      let c := f.round rc (.inf (decide (d.m < 0)))
      (c.1, c.2 ||| ffOF ||| ffIX)
    else
      let c := f.round rc (.fin r.1)
      (c.1, c.2 ||| ffIX)

/-- VRSQ's approximation of a positive finite value (R145). -/
def rsqFin (d : Dy) : Dy :=
  let n := d.m.natAbs
  let l := flog2 n
  let e := (l : Int) + d.e
  let p := (e % 2).toNat
  ⟨rsqT (128 * p + (n * 128 / 2 ^ l - 128)), -12 - (e - p) / 2⟩

/-- VRSQ into a floating type (R145). -/
def vrsq (f : Fmt) (rc : RCtl) (v : Val) : Nat × FF :=
  match v with
  | .zero n => let r := f.round rc (.inf n); (r.1, r.2 ||| ffDZ)
  | .inf false => f.round rc (.zero false)
  | .inf true => let r := f.round rc .nan; (r.1, r.2 ||| ffIV)
  | .nan => f.round rc .nan
  | .fin d =>
    if d.m < 0 then let r := f.round rc .nan; (r.1, r.2 ||| ffIV)
    else let c := f.round rc (.fin (rsqFin d)); (c.1, c.2 ||| ffIX)

/-- A small integer as a value. -/
def Val.int (i : Int) : Val := Val.ofInt i

/-- VRCPR (R146). -/
def vrcpr (mode : RMode) (x y : Val) : Val :=
  if x.isNan || y.isNan then .nan
  else if x.isZero || x.isInf || y.isZero || y.isInf then y
  else (y.mul (Val.add mode (Val.int 2) (x.mul y).1.neg).1).1

/-- VRSQR (R146). -/
def vrsqr (mode : RMode) (x y : Val) : Val :=
  if x.isNan || y.isNan then .nan
  else if x.isZero || x.isInf || y.isZero || y.isInf then y
  else (y.mul (Val.add mode (Val.int 3) (x.mul (y.mul y).1).1.neg).1).1.scale (-1)

/-- VEXP2 and VEXP (R147). -/
def vexp (f : Dy → Dy) : Val → Exact
  | .zero _ => (Val.int 1, 0)
  | .inf false => (.inf false, 0)
  | .inf true => (.zero false, 0)
  | .nan => (.nan, 0)
  | .fin d => (.fin (f d), 0)

/-- VLOG2 (R147). -/
def vlog2 : Val → Exact
  | .zero _ => (.inf true, ffDZ)
  | .inf false => (.inf false, 0)
  | .inf true => (.nan, ffIV)
  | .nan => (.nan, 0)
  | .fin d => if d.m < 0 then (.nan, ffIV) else (Val.ofDy false (dyLog2 d), 0)

/-- VSQRT (R147). -/
def vsqrt : Val → Exact
  | .zero n => (.zero n, 0)
  | .inf false => (.inf false, 0)
  | .inf true => (.nan, ffIV)
  | .nan => (.nan, 0)
  | .fin d => if d.m < 0 then (.nan, ffIV) else (.fin (dySqrt d), 0)

/-- VABS and VNEG that change the sign bit alone (R138). -/
def signOnly (t : ETy) (neg : Bool) (code : Nat) : Nat :=
  if t = .lns6 && (code % 64 = 0x10 || code % 64 = 0x30) then code % 64
  else
    let sb := 2 ^ (t.width - 1)
    let c := code % 2 ^ t.width
    if neg then (c + sb) % 2 ^ t.width else c % sb

/-- A shift of w raw bits (R140). -/
def vshift (op : VOp) (w : Nat) (x : Nat) (n : Option Int) : Nat :=
  let out := match n with
    | none => true
    | some n => decide (n < 0) || decide ((w : Int) ≤ n)
  let k := (n.getD 0).toNat
  match op with
  | .shl => if out then 0 else x * 2 ^ k % 2 ^ w
  | .sar =>
    let s := sextNat w x
    ((if out then s / 2 ^ (w - 1) else s / 2 ^ k) % 2 ^ w).toNat
  | _ => if out then 0 else x / 2 ^ k

/-- The entry rounds nothing: VABS and VNEG between equal floating or lns6 types (R138). -/
def VOp.signForm (op : VOp) (d a : ETy) : Bool :=
  (op = .abs || op = .neg) && d = a && (d.fmt.isSome || d = .lns6)

/-- The exact value of an elementwise operation and its flags (R138, R147). -/
def VOp.exact (op : VOp) (mode : RMode) (a b c : VOpd) : Exact :=
  let x := a.val
  let y := b.val
  let z := c.val
  let two (r : Val × FF) : Exact := (r.1, r.2 ||| x.2 ||| y.2)
  match op with
  | .add => two (Val.add mode x.1 y.1)
  | .sub => two (Val.add mode x.1 y.1.neg)
  | .mul => vproduct a b
  | .fma =>
    let p := vproduct a b
    let r := Val.add mode p.1 z.1
    (r.1, r.2 ||| p.2 ||| z.2)
  | .fms =>
    let p := vproduct a b
    let r := Val.add mode p.1 z.1.neg
    (r.1, r.2 ||| p.2 ||| z.2)
  | .min => two (vpick false x.1 y.1, 0)
  | .max => two (vpick true x.1 y.1, 0)
  | .abs => (x.1.abs, x.2)
  | .neg => (x.1.neg, x.2)
  | .scale => two (vscaleBy x.1 (match b.ty with
    | .e8 => if b.scl = some 0xFF then none else e8Exp b.code
    | _ => y.1.amount), 0)
  | .rcpr => two (vrcpr mode x.1 y.1, 0)
  | .rsqr => two (vrsqr mode x.1 y.1, 0)
  | .exp2 => vexp dyExp2 x.1
  | .exp => vexp dyExp x.1
  | .log2 => vlog2 x.1
  | .sqrt => vsqrt x.1
  | _ => x

/-- An exact result into the destination: floats and lns6 rounded (R138); integers of unscaled integer operands by `sat` or
`wrap` without flags, of others by R108 (R139). -/
def takeInto (t : ETy) (ints : Bool) (rc : RCtl) (r : Exact) : Nat × FF :=
  if t.isInt && ints then (intCode t rc.sat r.1.toI, r.2)
  else let c := t.conv rc r.1; (c.1, c.2 ||| r.2)

/-- The operand is an unscaled integer. -/
def VOpd.plainInt (o : VOpd) : Bool := o.ty.isInt && !o.scaled

/-- A conversion (R104 to R108, R97). An unscaled integer source sets no flag in an integer destination (R104, R108); the quotient by that
destination's scale is rounded to an integer in the instruction's mode before `wrap` or `sat` (DESIGN CHOICE, log entry 111), and a scale
of 0xFF makes it a NaN (R97). -/
def vconvert (t : ETy) (dscl : Option Nat) (rc : RCtl) (a : VOpd) : Nat × FF :=
  let v := a.val
  let q := divScale dscl v.1
  if t.isInt && a.plainInt && !q.isNan then
    (if dscl.isNone then intCode t rc.sat v.1.toI else (t.conv rc q).1, v.2)
  else let c := t.conv rc q; (c.1, c.2 ||| v.2)

/-- A compare (R141). -/
def VOp.holds (op : VOp) (a b : Val) : Bool :=
  match op with
  | .cmpeq => a.eq b
  | .cmplt => a.lt b
  | _ => a.lt b || a.eq b

/-- The result of an elementwise operation: the code and the flags (R138 to R141, R145 to R147); `dscl` is the destination's
scale. VSEL tests the code of c's element, whatever scale governs it (DESIGN CHOICE, log entry 111). -/
def VOp.result (op : VOp) (t : ETy) (dscl : Option Nat) (rc : RCtl) (a b c : VOpd) : Nat × FF :=
  let raw (o : VOpd) : Nat := o.code % 2 ^ t.width
  match op with
  | .mov => (raw a, 0)
  | .and => (raw a &&& raw b, 0)
  | .or => (raw a ||| raw b, 0)
  | .xor => (raw a ^^^ raw b, 0)
  | .shl | .shr | .sar => (vshift op t.width (raw a) b.val.1.amount, 0)
  | .cmpeq | .cmplt | .cmple => (if op.holds a.val.1 b.val.1 then 2 ^ t.width - 1 else 0, 0)
  | .sel => (if c.code % 2 ^ c.ty.width ≠ 0 then raw a else raw b, 0)
  | .cvt => vconvert t dscl rc a
  | .rcp => match t.fmt with
    | some f => vrcp f rc a.val.1
    | none => (0, 0)
  | .rsq => match t.fmt with
    | some f => vrsq f rc a.val.1
    | none => (0, 0)
  | .abs | .neg =>
    if op.signForm t a.ty then (signOnly t (op = .neg) a.code, 0)
    else takeInto t a.plainInt rc (op.exact rc.mode a b c)
  | .add | .sub | .mul | .min | .max => takeInto t (a.plainInt && b.plainInt) rc (op.exact rc.mode a b c)
  | .fma | .fms => takeInto t (a.plainInt && b.plainInt && c.plainInt) rc (op.exact rc.mode a b c)
  | _ => takeInto t false rc (op.exact rc.mode a b c)

/-! Rows (R142, R143). -/

/-- The terms of a row cut in groups of 16. -/
def groups16 {α : Type} : Nat → List α → List (List α)
  | 0, _ => []
  | n + 1, l => l.take 16 :: groups16 n (l.drop 16)

/-- A row's running sum over its groups: the code after each `rnd`, with draws taken in order from `draw` (R142). The list
gives the running sum's code after every group. -/
def rowSumGo (t : ETy) (rc : RCtl) (draw : Nat → Nat) : Nat → Option Nat → FF → List (List Val) → List Nat × FF
  | _, _, ff, [] => ([], ff)
  | n, acc, ff, g :: gs =>
    let s := sumVals rc.mode g
    let r := t.conv { rc with u := draw n } s.1
    match acc with
    | none =>
      let rest := rowSumGo t rc draw (n + 1) (some r.1) (ff ||| s.2 ||| r.2) gs
      (r.1 :: rest.1, rest.2)
    | some a =>
      let x := sumVals rc.mode [(t.value a).1, (t.value r.1).1]
      let c := t.conv { rc with u := draw (n + 1) } x.1
      let rest := rowSumGo t rc draw (n + 2) (some c.1) (ff ||| s.2 ||| r.2 ||| x.2 ||| c.2) gs
      (c.1 :: rest.1, rest.2)

/-- A row's sum into a floating type (R142). -/
def rowSum (t : ETy) (rc : RCtl) (draw : Nat → Nat) (terms : List Val) : Nat × FF :=
  let r := rowSumGo t rc draw 0 none 0 (groups16 (cdiv terms.length 16) terms)
  (r.1.getLastD 0, r.2)

/-- The extreme of a row's active values, -0 below +0 as in VMIN and VMAX; none for an empty row (R143; DESIGN CHOICE, log entry 111:
the rule orders the elements by exact value alone). -/
def rowPick (max : Bool) : List Val → Option Val
  | [] => none
  | v :: vs => some (vs.foldl (vpick max) v)

/-- The lowest place of the first value that `p` picks. -/
def placeOf (p : Val → Bool) (l : List (Nat × Val)) : Option Nat := (l.find? fun x => p x.2).map fun x => x.1

/-- Argmax and argmin: the lowest index attaining the extreme, or of a NaN (R143). -/
def rowArg (max : Bool) (l : List (Nat × Val)) : Option Nat :=
  match placeOf Val.isNan l with
  | some n => some n
  | none => (rowPick max (l.map fun x => x.2)).bind fun v => placeOf (fun x => x.eq v) l

/-- The result of max and min for an empty row (R143). -/
def emptyPick (t : ETy) (max : Bool) : Nat :=
  match t with
  | .lns6 => 0x30
  | t => match t.fmt with
    | some f => f.nan
    | none => if max then wrapT t t.minT else wrapT t t.maxT

/-- What VRED and VDOT give ACC for the first result (R144). -/
def accOf (t : ETy) (code : Nat) : Word :=
  if t.isSigned && t ≠ .i36 then Sys2Proof.i64 (sextNat t.width (code % 2 ^ t.width)) else w64 (code % 2 ^ t.width)

end Sys2Proof.Machine
end

