-- ==== Sys2Proof/Machine/Vector.lean ====
section
/-! DEFINITION. The vector instructions (R128 to R149): their checks at issue, and what their entries do (R129, R150). -/

namespace Sys2Proof.Machine

/-! Checks (R131, R133, R134, R136, R137). -/

/-- The classes of R137. -/
def ETy.isNum (t : ETy) : Bool := t ≠ .e8
def ETy.isFl (t : ETy) : Bool := t.fmt.isSome
/-- i8 to n64. -/
def ETy.isI8N64 (t : ETy) : Bool := t.isInt && t ≠ .i36
/-- The types of VAND, VOR and VXOR. -/
def ETy.isLogic (t : ETy) : Bool := t ≠ .i36 && t ≠ .f36 && t ≠ .lns6
/-- The floating destinations of a sum (R143). -/
def ETy.isSum (t : ETy) : Bool := t = .f32 || t = .f16 || t = .bf16 || t = .f36

/-- The operation is one of VRED's or VDOT. -/
def VOp.isRed : VOp → Bool
  | .redSum | .redMax | .redMin | .redSsq | .redAmax | .redAmin | .dot => true
  | _ => false

/-- Streaming records are accepted (R136). -/
def VOp.streams : VOp → Bool
  | .rcpr | .rsqr | .exp2 | .log2 | .exp | .sqrt | .bcast | .iota | .gath | .scat => false
  | _ => true

/-- A source of arithmetic: Num, Int only into an Int destination (R137). -/
def arithSrc (d : ETy) (s : ETy) : Bool := s.isNum && (!s.isInt || d.isInt)

/-- Whether each operand, in the order d, a, b, c, has a type that R137 allows. -/
def VOp.typesOk (op : VOp) (d a b c : ETy) : List Bool :=
  match op with
  | .mov => [true, a = d]
  | .add | .sub | .mul | .min | .max => [d.isNum, arithSrc d a, arithSrc d b]
  | .fma | .fms => [d.isNum, arithSrc d a, arithSrc d b, arithSrc d c]
  | .abs | .neg => [d.isNum, arithSrc d a]
  | .and | .or | .xor => [d.isLogic, a.isLogic && a.width = d.width, b.isLogic && b.width = d.width]
  | .shl | .shr | .sar => [d.isI8N64, a.isI8N64 && a.width = d.width, b.isI8N64]
  | .cmpeq | .cmplt | .cmple => [d.isI8N64, a.isNum, b.isNum]
  | .sel => [true, a = d, b = d, c.isI8N64]
  | .cvt | .bcast => [true]
  | .scale => [d.isFl || d = .lns6, a.isNum, b.isInt || b = .e8]
  | .redSum | .redSsq => [d.isSum || (d.isInt && a.isInt), a.isNum]
  | .redMax | .redMin => [d.isNum, arithSrc d a]
  | .redAmax | .redAmin => [d.isI8N64, a.isNum]
  | .dot => [d.isSum || (d.isInt && a.isInt), a.isNum, b.isNum]
  | .rcp | .rsq | .exp2 | .log2 | .exp | .sqrt => [d.isFl, a.isFl]
  | .rcpr | .rsqr => [d.isFl, a.isFl, b.isFl]
  | .iota => [d.isNum]
  | .gath | .scat => [true, a = d, b.isI8N64]
  | _ => [true]

/-- The first operand that a list of checks refuses. -/
def firstFalse : List Bool → Option Nat
  | [] => none
  | b :: bs => if b then (firstFalse bs).map (· + 1) else some 0

/-- The rank-1 table of VGATH and VSCAT (R137, R149). -/
def VOp.rankOk (op : VOp) (d a : Shape) : List Bool :=
  match op with
  | .gath => [true, a.rank = 1]
  | .scat => [d.rank = 1]
  | _ => []

/-- A source's dimensions fit an iteration: equal or 1 (R131). -/
def Shape.fits (s it : Shape) : Bool := (List.range 4).all fun k => s.dim k = it.dim k || s.dim k = 1
/-- Equal dimensions. -/
def Shape.sameDims (s it : Shape) : Bool := (List.range 4).all fun k => s.dim k = it.dim k

/-- The instruction's records. -/
structure VRecs where
  d : Option Shape := none
  a : Option Shape := none
  b : Option Shape := none
  c : Option Shape := none
  deriving DecidableEq, Repr

/-- Whether each operand's dimensions are allowed (R131, R144, R149). -/
def VOp.dimsOk (op : VOp) (r : VRecs) : List Bool :=
  let d := r.d.getD {}
  let fit (it : Shape) (x : Option Shape) : Bool := x.all fun s => s.fits it
  match op with
  | .gath => [true, true, r.b.all fun b => b.sameDims d]
  | .scat => [true, true, r.b.all fun b => b.sameDims (r.a.getD {})]
  | op =>
    if op.isRed then
      let a := r.a.getD {}
      [d.dim 0 = 1 && (List.range 3).all (fun k => d.dim (k + 1) = a.dim (k + 1)), true, fit a r.b]
    else [true, fit d r.a, fit d r.b, fit d r.c]

/-- Whether each operand, where it is a streaming record, is accepted (R136). -/
def VOp.strmOk (op : VOp) (r : VRecs) : List Bool :=
  let d := r.d.getD {}
  let ok (x : Option Shape) : Bool := x.all fun s => !s.strm || (op.streams && decide (s.chan < 8) && s.sameDims d)
  [ok r.d, ok r.a, ok r.b, ok r.c]

/-- The SHAPE checks from WHY 9 on, in ascending order (R71, R134). Within WHY 9 every operand's type is tested before the ranks of VGATH and
VSCAT, which settles OPND where both fail (DESIGN CHOICE, log entry 114). -/
def vchecks (op : VOp) (i : Issuer) (r : VRecs) : M Unit := do
  let s ← get
  let d := r.d.getD {}
  let ty (x : Option Shape) : ETy := (x.getD {}).ty
  let apart (x : Option Shape) : Bool := x.all fun y => !s.overlaps i d y
  let tests : List (Nat × List Bool) :=
    [(9, op.typesOk d.ty (ty r.a) (ty r.b) (ty r.c)), (9, op.rankOk d (r.a.getD {})), (10, op.dimsOk r),
     (11, [true, apart r.a, apart r.b, apart r.c]), (13, op.strmOk r)]
  match (tests.filterMap fun t => (firstFalse t.2).map fun k => (t.1, k)).head? with
  | none => pure ()
  | some (why, k) => raise cSHAPE (shapeVal k why)

/-! Entries. -/

/-- The record that defines the iteration (R131, R149). -/
def VEntry.iter (e : VEntry) : Shape := if e.op.isRed || e.op = .scat then e.a.getD {} else e.d.getD {}
/-- An index is active (R132). -/
def VEntry.active (e : VEntry) (j : Ix) : Bool := e.mask.getLsbD (j.j0 % 64)
/-- The active indices of the iteration, in shape order. -/
def VEntry.actives (e : VEntry) : List Ix := e.iter.ixs.filter e.active
/-- The sources in the order a, b, c. -/
def VEntry.srcs (e : VEntry) : List Shape := e.a.toList ++ e.b.toList ++ e.c.toList

/-- The operation rounds its elementwise results into d (R101). -/
def VEntry.rounds (e : VEntry) : Bool :=
  let d := e.d.getD {}
  let into := d.ty.isFl || d.ty = .lns6 || (d.ty.isInt && e.srcs.any fun s => s.scaled && s.ty.isInt)
  match e.op with
  | .cvt => true
  | .abs | .neg => into && !e.op.signForm d.ty (e.a.getD {}).ty
  | .add | .sub | .mul | .fma | .fms | .min | .max | .scale | .rcp | .rsq | .rcpr | .rsqr | .exp2 | .log2 | .exp | .sqrt
  | .iota => into
  | _ => false

/-- The draws of one row of a reduction (R101). -/
def VEntry.rowDraws (e : VEntry) : Nat :=
  let d := (e.d.getD {}).ty
  match e.op with
  | .redSum | .redSsq | .dot => if d.isFl then 2 * cdiv ((e.a.getD {}).dim 0) 16 - 1 else 0
  | .redMax | .redMin => if d.isFl || d = .lns6 then 1 else 0
  | _ => 0

/-- The draws that an entry takes under SR (R101). -/
def VEntry.draws (e : VEntry) : Nat :=
  if e.mode ≠ .sr then 0
  else if e.op.isRed then e.rowDraws * (e.a.getD {}).rows
  else if e.rounds then e.actives.length else 0

/-! Issue. -/

/-- An optional record. -/
def optRecord (n : Option R3) (opnd : Nat) : M (Option Shape) :=
  match n with
  | none => pure none
  | some n => do
    let r ← readRecord n opnd
    pure (some r)

/-- The pointer fields d, a and b of a vector instruction: the stagger, and REP's additions to d and a (R56, R57). -/
def Ctx.vfields (c : Ctx) (p : Pre) (i : Nat) (d a b : Option R3) : Option R3 × Option R3 × Option R3 :=
  (d.map (c.field p 0 i), a.map (c.field p 1 i), b.map (c.field p 3 i))

/-- The records of an instruction, read in the order d, a, b, c (R55, R128); c has LOOP's stagger (R56; log entry 25). -/
def vrecords (op : VOp) (p : Pre) (f : Option R3 × Option R3 × Option R3) : M VRecs := do
  let s ← get
  let d ← optRecord f.1 0
  let a ← optRecord f.2.1 1
  let b ← optRecord f.2.2 2
  let third := op = .fma || op = .fms || op = .sel
  let c ← if third then optRecord (p.v.map fun v => v.c + s.c.stagger) 3 else pure none
  pure { d := d, a := a, b := b, c := if (op = .fma || op = .fms) && p.v.isNone then d else c }

/-- The operands translated in the order d, a, b, c (R128 step 4). -/
def vtranslate (i : Issuer) (r : VRecs) : M (List (Nat × Nat)) := do
  let go (x : Option Shape) (a : Acc) : M (List (Nat × Nat)) := match x with
    | none => pure []
    | some s => translateShape i s a s.ixs
  let x ← go r.d .write
  let y ← go r.a .read
  let z ← go r.b .read
  let w ← go r.c .read
  pure (x ++ y ++ z ++ w)

/-- A unit's result as an instruction at its boundary takes it. -/
def ofU {α : Type} (x : U α) : M α :=
  match x with
  | .ok v => pure v
  | .error .hold => wait
  | .error (.fault c va) => raise c (w64 va)

/-- The indices of VGATH and VSCAT read and checked (R149), with their shape-order ordinals. An index element that is stale under
GENPOL.TRAP, poisoned or MIXED traps here, precisely (DESIGN CHOICE, log entry 114: R149 names WHY 12 alone). -/
def readIndices (i : Issuer) (b : Shape) (limit : Nat) : List Ix → M (List Nat)
  | [] => pure []
  | j :: js => do
    let s ← get
    let code ← ofU (s.unitCode i b j)
    let scl ← ofU (s.unitScale i false b j)
    match (b.ty.scaled code scl).1.amount with
    | some v => do
      raiseIf (decide (v < 0) || decide ((limit : Int) ≤ v)) cSHAPE (w64 (b.ord j * 2 ^ 32 + (shapeVal 2 12).toNat))
      let rest ← readIndices i b limit js
      pure (v.toNat :: rest)
    | none => raise cSHAPE (w64 (b.ord j * 2 ^ 32 + (shapeVal 2 12).toNat))

/-- An earlier entry of the queue writes a byte of the record (R149). -/
def State.indexPending (s : State) (i : Issuer) (b : Shape) : Bool :=
  let keys := s.keysOf i b.addrs
  s.c.vq.any fun e => e.d.any fun d => (s.keysOf e.iss d.addrs).any fun k => keys.contains k

/-- The indices of a gather or scatter; a synchronising index record is emptied. -/
def vindices (e : VEntry) : M (List Nat) :=
  match e.op, e.b with
  | .gath, some b | .scat, some b => do
    let s ← get
    waitIf (s.indexPending e.iss b)
    let l ← readIndices e.iss b ((if e.op = .gath then e.a else e.d).getD {}).count e.actives
    modify fun s => s.syncDone e.iss b false e.actives []
    pure l
  | _, _ => pure []

/-- The indices of d that an entry writes. -/
def VEntry.writes (e : VEntry) : List Ix :=
  let d := e.d.getD {}
  if e.op.isRed then d.ixs
  else if e.op = .scat then e.idx.map d.ix
  else if e.zeroing then d.ixs else e.actives

/-- The operation fills ACC when its entry completes (R144). -/
def VOp.fillsAcc (op : VOp) : Bool :=
  op.isRed || op = .msum || op = .tsrch || op = .tmass || op = .tfind

/-- The entries of a core's vector queue: those of all its contexts whose units work. The entries of a context that is swapped out
are set aside with it (R26, R27, R128; log entry 113). -/
def State.coreQueue (s : State) (p : Place) : List VEntry :=
  (s.ctxs.filter fun c => c.place = p && s.unitsRun c).flatMap fun c => c.vq

/-- The queue takes an entry: there is room, and no stop is unreported, ENGINE or CHECK (R128 step 5, R385, R392). -/
def vroom : M Unit := do
  let s ← get
  waitAbsent (decide (16 ≤ (s.coreQueue s.c.place).length))
  waitIf (s.c.check.any (fun x => x.1 = .vector) || s.c.reports.any fun r => r.unit = .vector || r.unit = .tree)

/-- The entry is queued (R128 step 6), QIDX advanced by its draws (R101). -/
def vqueue (e : VEntry) (draws : Nat) : M Unit := do
  vroom
  if e.op.fillsAcc then emptyAcc
  modify fun s => { s with
    next := s.next + 1
    c := { s.c with vq := s.c.vq ++ [{ e with order := s.next, seq := s.c.unitSeq, iss := { e.iss with issued := true } }], unitSeq := s.c.unitSeq + 1
                    qidx := s.c.qidx + BitVec.ofNat 32 draws } }

/-- The mask that governs the elements (R20, R54). -/
def vmask (p : Pre) : M Word :=
  match p.v with
  | none => pure allOnes
  | some v => if v.km = 0 then pure allOnes else readK v.km

/-- A page 1 instruction (R128). -/
def vectorOp (op : VOp) (p : Pre) (d a b : Option R3) (i : Nat) : M Unit := do
  ownWork
  let s ← get
  let r ← vrecords op p (s.c.vfields p i d a b)
  let iss := s.c.issuer (s.c.scopeOf p)
  vchecks op iss r
  let mask ← vmask p
  let acc ← if op = .bcast then readAcc else pure 0
  let fp := s.c.fpCtlOf p.v
  let e : VEntry :=
    { op := op, d := r.d, a := r.a, b := r.b, c := r.c, mask := mask, zeroing := p.v.any fun v => v.zero, mode := fp.mode
      sat := fp.sat, ftz := fp.ftz, traps := fp.traps, acc := acc, qsrd := s.c.qsrd.toNat, qidx := s.c.qidx.toNat, iss := iss }
  let n := e.draws
  drawCheck n
  let e := if n = 0 then e else { e with mint := s.c.mint }
  let x ← vtranslate iss r
  let e := { e with iss := { iss with xlat := x } }
  let idx ← vindices e
  let e := { e with idx := idx }
  capAll e.iss ((r.d.getD {}).written e.writes)
  reserveRange e.iss (r.d.getD {})
  vqueue e n

/-! What an entry does (R129, R132, R135, R150). -/

/-- What a pass has done so far. -/
structure VRun where
  s : State
  ff : FF := 0
  /-- draws taken, and active elements passed -/
  n : Nat := 0
  k : Nat := 0
  /-- the first result of a reduction (R144) -/
  first : Option Nat := none
  deriving Repr

/-- How many of an entry's sources stream on a channel, before the `k`-th source (R136). -/
def VEntry.sharing (e : VEntry) (ch k : Nat) : Nat := ((e.srcs.take k).filter fun s => s.strm && s.chan = ch).length

/-- The codes that a streaming source's element at a shape-order ordinal is among: elements are consumed in shape order, those of
one index in the order a, b, c. -/
def VEntry.streamed (s : State) (e : VEntry) (sh : Shape) (k ord : Nat) : Nat :=
  (s.stream e.iss sh.chan).getD (ord * e.sharing sh.chan 3 + e.sharing sh.chan k) 0

/-- A source's element at an index of the iteration. -/
def VEntry.read (s : State) (e : VEntry) (x : Option Shape) (k : Nat) (j : Ix) (ord : Nat) : U VOpd :=
  match x with
  | none => .ok {}
  | some sh => do
    let code ← if sh.strm then .ok (e.streamed s sh k ord) else s.unitCode e.iss sh (sh.at j)
    let scl ← s.unitScale e.iss false sh (sh.at j)
    .ok { ty := sh.ty, scaled := sh.scaled, code := code, scl := scl }

/-- The granules of an entry's synchronising sources. -/
def VEntry.syncSrc (s : State) (e : VEntry) : List Nat :=
  e.srcs.flatMap fun sh => if sh.sync && !sh.strm then granulesOf (s.runsOf e.iss sh (e.actives.map sh.at)) else []

/-- A destination element written, or produced to its channel. -/
def VEntry.write (e : VEntry) (free : Nat → Bool) (s : State) (j : Ix) (code : Nat) : U State :=
  let d := e.d.getD {}
  if d.strm then .ok (s.setStream e.iss d.chan (s.stream e.iss d.chan ++ [code % 2 ^ d.ty.width]))
  else s.unitWrite e.iss free d e.writes j code

/-- What a rounding is given, with the draw of a number (R101). -/
def VEntry.rctl (e : VEntry) (s : State) (drawn : Bool) (n : Nat) : RCtl :=
  { mode := e.mode, sat := e.sat, ftz := e.ftz
    u := if e.mode ≠ .sr then 0 else if drawn then e.mint.draw e.qsrd (e.qidx + n) else freeDraw e.iss e.seq s.steps n }

/-- The result of an element: its code and flags. -/
def VEntry.result (e : VEntry) (rc : RCtl) (ord : Nat) (dscl : Option Nat) (a b c : VOpd) : Nat × FF :=
  let t := (e.d.getD {}).ty
  match e.op with
  | .bcast => (e.acc.toNat % 2 ^ t.width, 0)
  | .iota => takeInto t t.isInt rc (Val.ofInt ord, 0)
  | op => op.result t dscl rc a b c

/-- One element of an elementwise instruction, at a shape-order ordinal. -/
def VEntry.element (e : VEntry) (free : Nat → Bool) (r : VRun) (ord : Nat) : U VRun := do
  let d := e.d.getD {}
  let j := d.ix ord
  if !e.active j then
    if e.zeroing || d.strm then
      let s ← e.write free r.s j d.ty.zeroCode
      .ok { r with s := s }
    else .ok r
  else
    let a ← e.read r.s e.a 0 j ord
    let b ← e.read r.s e.b e.a.toList.length j ord
    let c ← e.read r.s e.c (e.a.toList.length + e.b.toList.length) j ord
    let dscl ← if e.op = .cvt then r.s.unitScale e.iss false d j else .ok none
    let x := e.result (e.rctl r.s e.rounds r.n) ord dscl a b c
    let s ← e.write free r.s j x.1
    .ok { r with s := s, ff := r.ff ||| x.2, n := r.n + b2n e.rounds }

/-- The active elements of a row read: places and operands. -/
def VEntry.rowRead (e : VEntry) (s : State) (row : Nat) : List Nat → U (List (Nat × VOpd × VOpd))
  | [] => .ok []
  | j0 :: js => do
    let it := e.a.getD {}
    let ord := row * it.dim 0 + j0
    let j := it.ix ord
    let rest ← (if e.active j then do
      let a ← e.read s e.a 0 j ord
      let b ← e.read s e.b 1 j ord
      .ok [(j0, a, b)]
    else .ok [])
    let more ← e.rowRead s row js
    .ok (rest ++ more)

/-- The term of an element of a sum (R142); the square of an lns6 element is the product of R94, as VDOT's is (DESIGN CHOICE, log
entry 111). -/
def VOp.term (op : VOp) (a b : VOpd) : Val × FF :=
  match op with
  | .dot => vproduct a b
  | .redSsq => vproduct a a
  | _ => a.val

/-- The terms of a row of `n` elements, inactive ones exactly 0 (R142). -/
def rowTerms (n : Nat) (l : List (Nat × Val)) : List Val :=
  (List.range n).map fun j => ((l.find? fun x => x.1 = j).map fun x => x.2).getD (.zero false)

/-- The OR of flags. -/
def orAll (l : List FF) : FF := l.foldl (fun a b => a ||| b) 0

/-- The result of a row of VRED or VDOT (R142 to R144). -/
def VEntry.rowResult (e : VEntry) (s : State) (n : Nat) (l : List (Nat × VOpd × VOpd)) : Nat × FF :=
  let d := (e.d.getD {}).ty
  let it := e.a.getD {}
  let ints := it.ty.isInt && !it.scaled && e.b.all fun b => b.ty.isInt && !b.scaled
  let rc := e.rctl s (e.rowDraws ≠ 0) n
  let draw (k : Nat) : Nat := (e.rctl s true (n + k)).u
  let terms := l.map fun x => (x.1, e.op.term x.2.1 x.2.2)
  let ff := orAll (terms.map fun x => x.2.2)
  let vals := terms.map fun x => (x.1, x.2.1)
  let pick (max : Bool) : Nat × FF := match rowPick max (vals.map fun x => x.2) with
    | none => (emptyPick d max, 0)
    | some v => takeInto d ints rc (v, ff)
  let arg (max : Bool) : Nat × FF := match rowArg max vals with
    | none => (2 ^ d.width - 1, 0)
    | some k => (intCode d e.sat k, ff)
  match e.op with
  | .redMax => pick true
  | .redMin => pick false
  | .redAmax => arg true
  | .redAmin => arg false
  | _ =>
    if l = [] then (0, 0)
    else if d.isFl then
      let r := rowSum d rc draw (rowTerms (it.dim 0) vals)
      (r.1, r.2 ||| ff)
    else
      let x := sumVals e.mode (vals.map fun x => x.2)
      takeInto d ints rc (x.1, x.2 ||| ff)

/-- One row of VRED or VDOT. -/
def VEntry.row (e : VEntry) (free : Nat → Bool) (r : VRun) (row : Nat) : U VRun := do
  let l ← e.rowRead r.s row (List.range ((e.a.getD {}).dim 0))
  let x := e.rowResult r.s r.n l
  let s ← e.write free r.s ((e.d.getD {}).ix row) x.1
  .ok { r with s := s, ff := r.ff ||| x.2, n := r.n + e.rowDraws, first := some (r.first.getD x.1) }

/-- One element of VGATH (R149), read from the state before any is written (R133). -/
def VEntry.gather (e : VEntry) (before : State) (free : Nat → Bool) (r : VRun) (ord : Nat) : U VRun := do
  let d := e.d.getD {}
  let a := e.a.getD {}
  let j := d.ix ord
  if e.active j then
    let code ← before.unitCode e.iss a (a.ix (e.idx.getD r.k 0))
    let s ← e.write free r.s j code
    .ok { r with s := s, k := r.k + 1 }
  else if e.zeroing then
    let s ← e.write free r.s j d.ty.zeroCode
    .ok { r with s := s }
  else .ok r

/-- One element of VSCAT (R149), read from the state before any is written (R133). -/
def VEntry.scatter (e : VEntry) (before : State) (free : Nat → Bool) (r : VRun) (ord : Nat) : U VRun := do
  let d := e.d.getD {}
  let a := e.a.getD {}
  let j := a.ix ord
  if e.active j then
    let code ← before.unitCode e.iss a j
    let s ← e.write free r.s (d.ix (e.idx.getD r.k 0)) code
    .ok { r with s := s, k := r.k + 1 }
  else .ok r

/-- An entry's step at an ordinal of its pass, `before` being the state in which the pass began. -/
def VEntry.step (e : VEntry) (before : State) (free : Nat → Bool) (r : VRun) (ord : Nat) : U VRun :=
  if e.op.isRed then e.row free r ord
  else match e.op with
    | .gath => e.gather before free r ord
    | .scat => e.scatter before free r ord
    | _ => e.element free r ord

/-- The ordinals of an entry's pass: elements, or rows of a reduction. -/
def VEntry.pass (e : VEntry) : List Nat := List.range (if e.op.isRed then e.iter.rows else e.iter.count)

/-- The active indices of the iteration before and from a place of the pass. -/
def VEntry.split (e : VEntry) (at' : Nat) : List Ix × List Ix :=
  let n := if e.op.isRed then at' * e.iter.dim 0 else at'
  let f (lo hi : Nat) : List Ix := ((List.range (hi - lo)).map fun k => e.iter.ix (lo + k)).filter e.active
  (f 0 n, f n e.iter.count)

/-- The indices of d written before and from a place of the pass. -/
def VEntry.splitD (e : VEntry) (at' : Nat) : List Ix × List Ix :=
  let d := e.d.getD {}
  let upto (n : Nat) : List Ix := (List.range n).map d.ix
  if e.op = .scat then
    let k := ((List.range at').filter fun o => e.active (e.iter.ix o)).length
    ((e.idx.take k).map d.ix, (e.idx.drop k).map d.ix)
  else
    let p (j : Ix) : Bool := e.op.isRed || e.zeroing || e.active j
    ((upto at').filter p, ((upto d.count).drop at').filter p)

/-- The end of a pass at a place: streams consumed, synchronising records marked (R135, R136). -/
def VEntry.finish (e : VEntry) (s : State) (at' : Nat) : State :=
  let chans := ((e.srcs.filter fun x => x.strm).map Shape.chan).eraseDups
  let s := chans.foldl (fun s ch => s.setStream e.iss ch ((s.stream e.iss ch).drop (at' * e.sharing ch 3))) s
  let x := e.split at'
  let index := e.op = .gath || e.op = .scat
  let srcs := if index then (if e.op = .scat then e.a.toList else []) else e.srcs
  let s := srcs.foldl (fun s sh => s.syncDone e.iss sh false (x.1.map sh.at) (x.2.map sh.at)) s
  let s := match e.op, e.a with
    | .gath, some a =>
      let k := ((List.range at').filter fun o => e.active (e.iter.ix o)).length
      s.syncDone e.iss a false ((e.idx.take k).map a.ix) ((e.idx.drop k).map a.ix)
    | _, _ => s
  match e.d with
  | none => s
  | some d =>
    let y := e.splitD at'
    s.syncDone e.iss d true y.1 y.2

/-- A command that takes a channel's stream into memory is under way (R261). -/
def State.drainsStream (s : State) (i : Issuer) (ch : Nat) : Bool :=
  (i.loc.bind fun t => ((s.tile t).chans.toList.getD ch {}).active).any fun k => k.a.strm

/-- The streams are ready: every source's codes are there, and the destination's have room (R136, R261). -/
def VEntry.streamsReady (s : State) (e : VEntry) : Bool :=
  e.srcs.all (fun sh => !sh.strm || decide (e.pass.length * e.sharing sh.chan 3 ≤ (s.stream e.iss sh.chan).length)) &&
    e.d.all fun d => !d.strm || s.drainsStream e.iss d.chan ||
      decide (d.ty.streamBytes ((s.stream e.iss d.chan).length + d.count) ≤ 1024)

/-- What an entry's pass comes to: the state, the flags, what fills ACC, and where it stopped with the cause and address. -/
structure VDone where
  s : State
  ff : FF := 0
  acc : Option Word := none
  stop : Option (Nat × Byte × Nat) := none
  deriving Repr

/-- The shape-order ordinal, in d's record, of the first element not done (R150, R384). -/
def VEntry.stopOrd (e : VEntry) (ord : Nat) (k : Nat) : Nat := if e.op = .scat then e.idx.getD k 0 else ord

/-- The first results of an entry of R138 to R149, `n` of its pass, performed; nothing while it must wait (R129, R150). -/
def VEntry.runTo (s : State) (e : VEntry) (n : Nat) : Option VDone :=
  if !e.streamsReady s then none
  else
    let keep := e.syncSrc s
    match unitGo (e.step s fun g => keep.contains g) (e.pass.take n) { s := s } with
    | .error () => none
    | .ok (r, stop) =>
      let place := (stop.map fun x => x.1).getD n
      some { s := e.finish r.s place, ff := r.ff
             acc := if e.op.isRed then r.first.map (accOf (e.d.getD {}).ty) else none
             stop := stop.map fun x => (e.stopOrd x.1 r.k, x.2) }

/-- An entry of R138 to R149 performed. -/
def VEntry.run (s : State) (e : VEntry) : Option VDone := e.runTo s e.pass.length

/-- VMOV (R141). -/
def execVmov (p : Pre) (d a : R3) (s : State) : Out := repeated true p (vectorOp .mov p (some d) (some a) none) s
/-- VADD (R138, R139). -/
def execVadd (p : Pre) (d a b : R3) (s : State) : Out := repeated true p (vectorOp .add p (some d) (some a) (some b)) s
/-- VSUB (R138, R139). -/
def execVsub (p : Pre) (d a b : R3) (s : State) : Out := repeated true p (vectorOp .sub p (some d) (some a) (some b)) s
/-- VMUL (R138, R139). -/
def execVmul (p : Pre) (d a b : R3) (s : State) : Out := repeated true p (vectorOp .mul p (some d) (some a) (some b)) s
/-- VFMA (R138, R55). -/
def execVfma (p : Pre) (d a b : R3) (s : State) : Out := repeated true p (vectorOp .fma p (some d) (some a) (some b)) s
/-- VFMS (R138, R55). -/
def execVfms (p : Pre) (d a b : R3) (s : State) : Out := repeated true p (vectorOp .fms p (some d) (some a) (some b)) s
/-- VMIN (R138). -/
def execVmin (p : Pre) (d a b : R3) (s : State) : Out := repeated true p (vectorOp .min p (some d) (some a) (some b)) s
/-- VMAX (R138). -/
def execVmax (p : Pre) (d a b : R3) (s : State) : Out := repeated true p (vectorOp .max p (some d) (some a) (some b)) s
/-- VABS (R138). -/
def execVabs (p : Pre) (d a : R3) (s : State) : Out := repeated true p (vectorOp .abs p (some d) (some a) none) s
/-- VNEG (R138). -/
def execVneg (p : Pre) (d a : R3) (s : State) : Out := repeated true p (vectorOp .neg p (some d) (some a) none) s
/-- VAND (R140). -/
def execVand (p : Pre) (d a b : R3) (s : State) : Out := repeated true p (vectorOp .and p (some d) (some a) (some b)) s
/-- VOR (R140). -/
def execVor (p : Pre) (d a b : R3) (s : State) : Out := repeated true p (vectorOp .or p (some d) (some a) (some b)) s
/-- VXOR (R140). -/
def execVxor (p : Pre) (d a b : R3) (s : State) : Out := repeated true p (vectorOp .xor p (some d) (some a) (some b)) s
/-- VSHL (R140). -/
def execVshl (p : Pre) (d a b : R3) (s : State) : Out := repeated true p (vectorOp .shl p (some d) (some a) (some b)) s
/-- VSHR (R140). -/
def execVshr (p : Pre) (d a b : R3) (s : State) : Out := repeated true p (vectorOp .shr p (some d) (some a) (some b)) s
/-- VSAR (R140). -/
def execVsar (p : Pre) (d a b : R3) (s : State) : Out := repeated true p (vectorOp .sar p (some d) (some a) (some b)) s
/-- VCMPEQ (R141). -/
def execVcmpeq (p : Pre) (d a b : R3) (s : State) : Out := repeated true p (vectorOp .cmpeq p (some d) (some a) (some b)) s
/-- VCMPLT (R141). -/
def execVcmplt (p : Pre) (d a b : R3) (s : State) : Out := repeated true p (vectorOp .cmplt p (some d) (some a) (some b)) s
/-- VCMPLE (R141). -/
def execVcmple (p : Pre) (d a b : R3) (s : State) : Out := repeated true p (vectorOp .cmple p (some d) (some a) (some b)) s
/-- VSEL (R141). -/
def execVsel (p : Pre) (d a b : R3) (s : State) : Out := repeated true p (vectorOp .sel p (some d) (some a) (some b)) s
/-- VCVT (R104). -/
def execVcvt (p : Pre) (d a : R3) (s : State) : Out := repeated true p (vectorOp .cvt p (some d) (some a) none) s
/-- VSCALE (R138). -/
def execVscale (p : Pre) (d a b : R3) (s : State) : Out := repeated true p (vectorOp .scale p (some d) (some a) (some b)) s
/-- VRED.SUM (R142). -/
def execVredSum (p : Pre) (d a : R3) (s : State) : Out := repeated true p (vectorOp .redSum p (some d) (some a) none) s
/-- VRED.MAX (R143). -/
def execVredMax (p : Pre) (d a : R3) (s : State) : Out := repeated true p (vectorOp .redMax p (some d) (some a) none) s
/-- VRED.MIN (R143). -/
def execVredMin (p : Pre) (d a : R3) (s : State) : Out := repeated true p (vectorOp .redMin p (some d) (some a) none) s
/-- VRED.SSQ (R142). -/
def execVredSsq (p : Pre) (d a : R3) (s : State) : Out := repeated true p (vectorOp .redSsq p (some d) (some a) none) s
/-- VRED.AMAX (R143). -/
def execVredAmax (p : Pre) (d a : R3) (s : State) : Out := repeated true p (vectorOp .redAmax p (some d) (some a) none) s
/-- VRED.AMIN (R143). -/
def execVredAmin (p : Pre) (d a : R3) (s : State) : Out := repeated true p (vectorOp .redAmin p (some d) (some a) none) s
/-- VDOT (R142, R144). -/
def execVdot (p : Pre) (d a b : R3) (s : State) : Out := repeated true p (vectorOp .dot p (some d) (some a) (some b)) s
/-- VRCP (R145). -/
def execVrcp (p : Pre) (d a : R3) (s : State) : Out := repeated true p (vectorOp .rcp p (some d) (some a) none) s
/-- VRSQ (R145). -/
def execVrsq (p : Pre) (d a : R3) (s : State) : Out := repeated true p (vectorOp .rsq p (some d) (some a) none) s
/-- VRCPR (R146). -/
def execVrcpr (p : Pre) (d a b : R3) (s : State) : Out := repeated true p (vectorOp .rcpr p (some d) (some a) (some b)) s
/-- VRSQR (R146). -/
def execVrsqr (p : Pre) (d a b : R3) (s : State) : Out := repeated true p (vectorOp .rsqr p (some d) (some a) (some b)) s
/-- VEXP2 (R147). -/
def execVexp2 (p : Pre) (d a : R3) (s : State) : Out := repeated true p (vectorOp .exp2 p (some d) (some a) none) s
/-- VLOG2 (R147). -/
def execVlog2 (p : Pre) (d a : R3) (s : State) : Out := repeated true p (vectorOp .log2 p (some d) (some a) none) s
/-- VEXP (R147). -/
def execVexp (p : Pre) (d a : R3) (s : State) : Out := repeated true p (vectorOp .exp p (some d) (some a) none) s
/-- VBCAST (R148). -/
def execVbcast (p : Pre) (d : R3) (s : State) : Out := repeated true p (vectorOp .bcast p (some d) none none) s
/-- VIOTA (R148). -/
def execViota (p : Pre) (d : R3) (s : State) : Out := repeated true p (vectorOp .iota p (some d) none none) s
/-- VGATH (R149). -/
def execVgath (p : Pre) (d a b : R3) (s : State) : Out := repeated true p (vectorOp .gath p (some d) (some a) (some b)) s
/-- VSCAT (R149). -/
def execVscat (p : Pre) (d a b : R3) (s : State) : Out := repeated true p (vectorOp .scat p (some d) (some a) (some b)) s
/-- VSQRT (R147). -/
def execVsqrt (p : Pre) (d a : R3) (s : State) : Out := repeated true p (vectorOp .sqrt p (some d) (some a) none) s

end Sys2Proof.Machine
end

