-- ==== Sys2Proof/Machine/Matrix.lean ====
section
/-! DEFINITION. The matrix instructions (R152 to R176): checks at issue, and what their entries do to the banks and to memory. -/

namespace Sys2Proof.Machine

/-! Geometry (R36, R152). -/

/-- MGEO0's extents and MGEO1's indices: field 0 M, 1 N, 2 K. -/
def geo (w : Word) (k : Nat) : Nat := bits w (8 * k + 7) (8 * k)

/-- The part of an extent that a 128-block covers. -/
def edge (dim i : Nat) : Nat := min (dim - 128 * i) 128

/-- A range of MMSUB's ACC: first and last (R163). -/
def subRange (op : MOp) (acc : Word) (at' : Nat) : Nat × Nat :=
  if op = .mmsub then (bits acc (at' + 6) at', bits acc (at' + 14) (at' + 8)) else (0, 127)

/-- The numbers below an edge that lie in a range. -/
def inRange (edge : Nat) (r : Nat × Nat) : List Nat := (List.range edge).filter fun n => r.1 ≤ n && n ≤ r.2

/-- The rows, columns and k-steps that an MMA, MMZ or MMSUB works on. -/
def MEntry.ms (e : MEntry) : List Nat := inRange (edge ((e.a.getD {}).dim 1) (geo e.mgeo1 0)) (subRange e.op e.acc 0)
def MEntry.ns (e : MEntry) : List Nat := inRange (edge ((e.b.getD {}).dim 1) (geo e.mgeo1 1)) (subRange e.op e.acc 16)
def MEntry.ks (e : MEntry) : List Nat := inRange (edge ((e.a.getD {}).dim 0) (geo e.mgeo1 2)) (subRange e.op e.acc 32)

/-- The element (row, k) of an operand's block (R152). -/
def MEntry.ix (e : MEntry) (side row k : Nat) : Ix :=
  { j0 := 128 * geo e.mgeo1 2 + k, j1 := 128 * geo e.mgeo1 side + row }

/-- An operand's active elements, in shape order. -/
def MEntry.elems (e : MEntry) (side : Nat) : List Ix :=
  (if side = 0 then e.ms else e.ns).flatMap fun r => e.ks.map fun k => e.ix side r k

/-- MSCLA or MSCLB takes the scale from the record (R154). -/
def fromRecord (w : Word) : Bool := !bit w 15

/-- A record under MSCLA or MSCLB: with CONST = 1 its SCALED bit and its scale array are ignored (R154). -/
def underConst (w : Word) (sh : Shape) : Shape := if fromRecord w then sh else { sh with scaled := false }

/-- The address of a row's scale byte (R154). -/
def MEntry.scaleAddr (e : MEntry) (sh : Shape) (side row : Nat) : Nat :=
  sh.sbase.toNat + geo e.mgeo1 2 + (128 * geo e.mgeo1 side + row) * sh.sstride

/-- The scale bytes that an operand's active rows read. -/
def MEntry.scales (e : MEntry) (side : Nat) : List Nat :=
  let sh := (if side = 0 then e.a else e.b).getD {}
  if fromRecord (if side = 0 then e.mscla else e.msclb) then (if side = 0 then e.ms else e.ns).map (e.scaleAddr sh side) else []

/-- The mode of an entry's bank: F36 (R153). -/
def MEntry.f36 (e : MEntry) : Bool := bit e.mfmt (16 + e.bank)
/-- The entry's bank saturates in I36 mode. -/
def MEntry.isat (e : MEntry) : Bool := bit e.msat e.bank

/-! Paths (R153, R176). -/

/-- The paths of R153. -/
inductive MPath where
  | lns6
  | int8
  | fp8
  | bf16
  | fp16
  deriving DecidableEq, Repr

/-- The path of two types. -/
def mpath (a b : ETy) : Option MPath :=
  let i8 (t : ETy) : Bool := t = .i8 || t = .n8
  let f8 (t : ETy) : Bool := t = .e4m3 || t = .e5m2
  if a = .lns6 && b = .lns6 then some .lns6
  else if i8 a && i8 b then some .int8
  else if f8 a && f8 b then some .fp8
  else if a = .bf16 && b = .bf16 then some .bf16
  else if (a = .f16 && (b = .f16 || b = .bf16)) || (a = .bf16 && b = .f16) then some .fp16
  else none

/-- A path is present under CAPS (R11, R153). -/
def State.hasPath (s : State) : MPath → Bool
  | .fp8 => bit s.capsReg 4
  | .fp16 => bit s.capsReg 5
  | _ => true

/-- MSCLA or MSCLB is the constant 1.0. -/
def isOne (w : Word) : Bool := bit w 15 && bits w 7 0 = 0x7F

/-! Checks at issue (R152 to R155, R164 to R167). -/

/-- A bank that the context may name (R155). -/
def Ctx.mayBank (c : Ctx) (k : Nat) : Bool := c.onReflex || (if c.isGuest then k = 2 else decide (k < 2))

/-- ACCESS for another bank. -/
def bankCheck (k : Nat) : M Unit := do
  let s ← get
  raiseIf (!s.c.mayBank k) cACCESS (w64 k)

/-- The first check that fails: WHY and OPND. -/
def firstBad (tests : List (Bool × Nat × Nat)) : M Unit :=
  match tests.find? fun t => t.1 with
  | none => pure ()
  | some t => raise cSHAPE (shapeVal t.2.2 t.2.1)

/-- A record of more than two dimensions in use (R152). -/
def Shape.deep (sh : Shape) : Bool := sh.dim 2 != 1 || sh.dim 3 != 1

/-- A record that MMST and MMLD do not take: of a rank above 2, or a dimension above 128 (R164, R165). -/
def Shape.tooLarge (sh : Shape) : Bool := decide (2 < sh.rank) || decide (128 < sh.dim 0) || decide (128 < sh.dim 1)

/-- R152 to R154's checks on A and B, in ascending WHY order. OPND is b for a pair of types that no path has, and a where I36 mode
lacks what it requires (DESIGN CHOICE, log entry 114: R153 gives no OPND there). -/
def mmaChecks (i : Issuer) (bank : Nat) (a b : Shape) : M Unit := do
  let s ← get
  let c := s.c
  let path := mpath a.ty b.ty
  let one := isOne c.mscla && isOne c.msclb
  let i36 := !bit c.mfmt (16 + bank)
  let g (k : Nat) : Bool := decide (max 1 (geo c.mgeo0 k) ≤ geo c.mgeo1 k)
  firstBad
    [(a.tycode != bits c.mfmt 5 0, 9, 1), (b.tycode != bits c.mfmt 13 8, 9, 2), (path.isNone, 9, 2),
     (i36 && (path != some .int8 || !one), 9, 1), (fromRecord c.mscla && !a.scaled, 9, 1),
     (fromRecord c.msclb && !b.scaled, 9, 2),
     (a.deep, 10, 1), (b.deep || b.dim 0 != a.dim 0, 10, 2),
     (a.strm || a.sync || s.winOf i a != some .own, 14, 1),
     (b.strm || b.sync || (match s.winOf i b with
       | some (.rank _) => true
       | _ => false), 14, 2),
     (g 0 || g 1 || g 2, 15, 1)]

/-- The room of the matrix queue: no stop of it is unreported, ENGINE or CHECK (R167 step 7, R385, R392). -/
def mroom : M Unit := do
  let s ← get
  waitAbsent (decide (2 ≤ s.c.mq.length))
  waitIf (s.c.check.any (fun x => x.1 = .matrix) || s.c.reports.any fun r => r.unit = .matrix)

/-- What an entry samples besides its records (R167 step 6). -/
def Ctx.mentry (c : Ctx) (op : MOp) (bank : Nat) (iss : Issuer) : MEntry :=
  { op := op, bank := bank, mfmt := c.mfmt, mscla := c.mscla, msclb := c.msclb, mgeo0 := c.mgeo0, mgeo1 := c.mgeo1
    msat := c.msat, msclo := c.msclo, mode := c.fpCtl.mode, sat := c.fpCtl.sat, ftz := c.fpCtl.ftz, traps := c.fpCtl.traps
    qsrd := c.qsrd.toNat, qidx := c.qidx.toNat, vocabn := c.vocabn.toNat, vocabp := c.vocabp.toNat, iss := iss }

/-- An entry numbered; its accesses carry its number and its leases (R169). -/
def MEntry.numbered (e : MEntry) (n : Nat) : MEntry := { e with order := n, iss := { e.iss with order := n, lease := e.lease, issued := true } }

/-- A numbered entry put into the moving context's queue. -/
def Ctx.mput (c : Ctx) (e : MEntry) (draws : Nat) : Ctx :=
  { c with mq := c.mq ++ [{ e with seq := c.unitSeq }], unitSeq := c.unitSeq + 1, qidx := c.qidx + BitVec.ofNat 32 draws }

/-- An entry queued (R167 step 8). -/
def mqueue (e : MEntry) (draws : Nat) : M Unit := do
  mroom
  modify fun s => { s with next := s.next + 1, c := s.c.mput (e.numbered s.next) draws }

/-- The context's earlier vector work on a record's bytes is over. -/
def vectorFirst (i : Issuer) (l : List Nat) : M Unit := do
  let s ← get
  let keys := s.keysOf i l
  waitIf (s.c.vq.any fun e => (s.keysOf e.iss (e.shapes.flatMap Shape.addrs)).any fun k => keys.contains k)

/-- What a lease on the byte at a key holds: its granule, or every sector of its L2 line of 256 bytes (R169, R218). -/
def operandLease (k : Nat) : List Nat := if 2 ^ 60 ≤ k then [k / 32] else (List.range 8).map fun i => k / 256 * 8 + i

/-- FMTEMU at issue: the entry stands ready for the firmware, numbered, and its leases are held from now on (R176). -/
def raiseEmu {α : Type} (e : MEntry) : M α := do
  let s ← get
  throw (.after { s with next := s.next + 1, c := { s.c with emu := some { e.numbered s.next with emu := true } } } cFMTEMU s.c.mfmt 0)

/-- MMSUB's ACC as it is sampled (R163): the value of a readable ACC, otherwise the ranges of a whole block, until it can be read. -/
def Ctx.subWord (c : Ctx) : Word := if c.acc.full then (c.tagged c.acc).getD (w64 0x7F00_7F00_7F00) else w64 0x7F00_7F00_7F00

/-- The reads of an entry's operands are allowed: ACCESS for a spill slot in use (R342), and step 4 of R167 for B. -/
def mmaTranslate (iss : Issuer) (b : Shape) (bytesA bytesB : List Nat) : M (List (Nat × Nat)) := do
  let s ← get
  raiseIf (s.c.onReflex && s.winOf iss b = some .dram) cREFLEXDRAM (w64 (bytesB.headD b.base.toNat))
  translateAll iss .read (firsts [] (bytesA ++ bytesB))

/-- MMA, MMZ and MMSUB (R162, R163, R167, R169, R176). MMSUB reads ACC at step 6; for B in the DRAM window it reads it before step 4, which
needs the range of elements (DESIGN CHOICE, log entry 114). -/
def mmaOp (op : MOp) (p : Pre) (an bn : R3) (k : Nat) (i : Nat) : M Unit := do
  ownWork
  bankCheck k
  let s ← get
  let iss := s.c.issuer s.c.defscope
  let a ← readRecordAs (underConst s.c.mscla) (s.c.field p 0 i an) 1
  let b ← readRecordAs (underConst s.c.msclb) (s.c.field p 1 i bn) 2
  mmaChecks iss k a b
  let acc ← if op ≠ .mmsub then pure 0 else if s.winOf iss b = some .dram then readAcc else pure s.c.subWord
  let e : MEntry := { s.c.mentry op k iss with a := some a, b := some b, acc := acc }
  let bytesA := (e.elems 0).flatMap a.bytesOf ++ e.scales 0
  let bytesB := (e.elems 1).flatMap b.bytesOf ++ e.scales 1
  let x ← mmaTranslate iss b bytesA bytesB
  let s ← get
  let iss := { iss with xlat := x }
  let e := { e with iss := iss, lease := ((s.keysOf iss (bytesA ++ bytesB)).flatMap operandLease).eraseDups }
  if s.hasPath ((mpath a.ty b.ty).getD .lns6) then do
    let _ ← if op = .mmsub then readAcc else pure 0
    vectorFirst iss (bytesA ++ bytesB)
    mqueue e 0
  else raiseEmu e

/-- The mask store that an MMST issued now is to find: the last one that the context's queue loads, otherwise the bank's
(log entry 48). -/
def State.storeAhead (s : State) (k : Nat) : Option MaskStore :=
  match (s.c.mq.filter fun e => e.op = .mmmask && e.bank = k).getLast? with
  | some e => e.store
  | none => match s.c.loc with
    | none => none
    | some t => ((s.tile t).banks.toList.getD k {}).store

/-- masked(m, n) of R166 for an entry. -/
def MEntry.masked (e : MEntry) (st : Option MaskStore) (m n : Nat) : Bool :=
  match st with
  | none => false
  | some x =>
    let c := 128 * geo e.mgeo1 1 + n
    let tree := decide (x.tbase ≤ c) && decide (c < x.tbase + x.tlen)
    let r := x.row.getD m (0, 0)
    (x.flags.testBit 2 && decide (min e.vocabn e.vocabp ≤ c)) ||
      (decide (m < x.rows) && x.flags.testBit 1 && tree && !r.1.getLsbD (c - x.tbase)) ||
      (decide (m < x.rows) && x.flags.testBit 0 && !tree && decide (r.2.toNat < c))

/-- The types of MMST's destination under a mask store (R164). -/
def ETy.maskable (t : ETy) : Bool := t = .f32 || t = .f16 || t = .bf16 || t = .e5m2 || t = .f36

/-- The elements that an MMST converts under a mask store. -/
def MEntry.converted (e : MEntry) (st : Option MaskStore) : Nat :=
  (((e.a.getD {}).ixs).filter fun j => !e.masked st j.j1 j.j0).length

/-- MMST (R164, R167). -/
def mmstOp (p : Pre) (n : R3) (k : Nat) (i : Nat) : M Unit := do
  ownWork
  bankCheck k
  let s ← get
  let iss := s.c.issuer (s.c.scopeOf p)
  let d ← readRecord (s.c.field p 0 i n) 0
  let st := s.storeAhead k
  firstBad
    [(st.isSome && !d.ty.maskable, 9, 0), (d.tooLarge, 10, 0),
     (d.strm || s.winOf iss d = some .dram, 14, 0)]
  let e : MEntry := { s.c.mentry .mmst k iss with a := some d }
  let draws := if e.mode = .sr then e.converted st else 0
  drawCheck draws
  let _ ← translateShape iss d .write d.ixs
  capAll iss (d.written d.ixs)
  vectorFirst iss d.addrs
  mqueue (if draws = 0 then e else { e with mint := s.c.mint }) draws

/-- MMLD (R165, R167). -/
def mmldOp (p : Pre) (n : R3) (k : Nat) (i : Nat) : M Unit := do
  ownWork
  bankCheck k
  let s ← get
  let iss := s.c.issuer (s.c.scopeOf p)
  let a ← readRecord (s.c.field p 0 i n) 1
  firstBad
    [(!bit s.c.mfmt (16 + k) && !a.ty.isInt, 9, 1), (a.tooLarge, 10, 1),
     (a.strm || s.winOf iss a != some .own, 14, 1)]
  let _ ← translateShape iss a .read a.ixs
  vectorFirst iss a.addrs
  mqueue { s.c.mentry .mmld k iss with a := some a } 0

/-- A mask block from its bytes: WHY 6 where it is ill-formed; none disables the store (R166). -/
def parseMask (bs : List Byte) : Except Nat (Option MaskStore) :=
  let num (o n : Nat) : Nat := leNat ((bs.drop o).take n)
  let fl := num 0 4
  let rows := num 4 4
  let tlen := num 12 4
  if 8 ≤ fl || num 0x10 48 ≠ 0 || (List.range 128).any (fun i => num (0x4C + 16 * i) 4 != 0) then .error 6
  else if fl = 0 then .ok none
  else if rows = 0 || 128 < rows || 64 < tlen then .error 6
  else .ok (some
    { flags := fl, rows := rows, tbase := num 8 4, tlen := tlen
      row := (List.range rows).map fun i => (w64 (num (0x40 + 16 * i) 8), BitVec.ofNat 32 (num (0x48 + 16 * i) 4)) })

/-- MMMASK (R166). -/
def mmmaskOp (p : Pre) (n : R3) (k : Nat) (i : Nat) : M Unit := do
  bankCheck k
  let s ← get
  let iss := s.c.issuer s.c.defscope
  let ea ← readP (s.c.field p 0 i n)
  raiseIf (ea.toNat % 64 != 0) cSHAPE (shapeVal 0 8)
  raiseIf (decide (localSize iss < ea.toNat + 2112)) cSHAPE (shapeVal 0 4)
  let bs ← loadGranules iss ea 66
  match parseMask bs with
  | .error why => raise cSHAPE (shapeVal 0 why)
  | .ok st => mqueue { s.c.mentry .mmmask k iss with store := st } 0

/-! Banks. -/

/-- An element of a bank. -/
def Bank.cell (b : Bank) (m n : Nat) : BCell := (b.rows.getD m []).getD n {}

/-- A bank with its elements given by a function, over the rows and columns that are in use. -/
def Bank.build (b : Bank) (ms ns : Nat) (f : Nat → Nat → BCell) : Bank :=
  let mm := max ms b.rows.length
  let nn := b.rows.foldl (fun a r => max a r.length) ns
  { b with rows := (List.range mm).map fun m => (List.range nn).map fun n => f m n }

/-- The bank of an entry. -/
def State.bankOf (s : State) (e : MEntry) : Bank :=
  match e.iss.loc with
  | none => {}
  | some t => (s.tile t).banks.toList.getD e.bank {}

/-- The bank of an entry changed. -/
def State.setBank (s : State) (e : MEntry) (b : Bank) : State :=
  match e.iss.loc with
  | none => s
  | some t => s.setTile t { s.tile t with banks := vset (s.tile t).banks e.bank b }

/-! Products (R157 to R159). -/

/-- A failing access of a matrix entry: the cause, the address, the operand and the ordinal (R172, R384). -/
structure MStop where
  cause : Byte
  va : Nat
  opnd : Nat
  ord : Nat
  deriving DecidableEq, Repr

/-- The codes of an operand's active elements, keyed by row and k; nothing at all while it must wait. -/
def MEntry.readSide (s : State) (e : MEntry) (side : Nat) : Except Unit (List (Ix × Nat) × Option MStop) :=
  let sh := (if side = 0 then e.a else e.b).getD {}
  match unitGo (fun (r : List (Ix × Nat)) j => do
      let c ← s.unitCode e.iss sh j
      .ok (r ++ [(j, c)])) (e.elems side) [] with
  | .error () => .error ()
  | .ok (r, none) => .ok (r, none)
  | .ok (r, some (j, c, va)) => .ok (r, some ⟨c, va, side + 1, sh.ord j⟩)

/-- The ordinal of the first element of a record that a scale byte governs (R172). -/
def Shape.governed (sh : Shape) (va : Nat) : Nat := ((List.range sh.count).find? fun n => sh.scaleAddr (sh.ix n) = va).getD 0

/-- The scale exponents of an operand's active rows, keyed by row; none for 0xFF. -/
def MEntry.readScales (s : State) (e : MEntry) (side : Nat) : Except Unit (List (Nat × Option Int) × Option MStop) :=
  let sh := (if side = 0 then e.a else e.b).getD {}
  let w := if side = 0 then e.mscla else e.msclb
  let rows := if side = 0 then e.ms else e.ns
  if !fromRecord w then .ok (rows.map fun r => (r, e8Exp (bits w 7 0)), none)
  else match unitGo (fun (r : List (Nat × Option Int)) row => do
      let b ← s.unitByte e.iss false (e.scaleAddr sh side row)
      .ok (r ++ [(row, e8Exp b.2.toNat)])) rows [] with
    | .error () => .error ()
    | .ok (r, none) => .ok (r, none)
    | .ok (r, some (_, c, va)) => .ok (r, some ⟨c, va, side + 1, sh.governed va⟩)

/-- The operands of an MMA, MMZ or MMSUB. -/
structure MOps where
  a : List (Ix × Nat)
  sa : List (Nat × Option Int)
  b : List (Ix × Nat)
  sb : List (Nat × Option Int)
  deriving DecidableEq, Repr

/-- The operands read: A's elements and scales, then B's. -/
def MEntry.readOps (s : State) (e : MEntry) : Except Unit (MOps × Option MStop) := do
  let a ← e.readSide s 0
  let sa ← e.readScales s 0
  let b ← e.readSide s 1
  let sb ← e.readScales s 1
  .ok (⟨a.1, sa.1, b.1, sb.1⟩, ((a.2.orElse fun _ => sa.2).orElse fun _ => b.2).orElse fun _ => sb.2)

/-- A code of a list of codes. -/
def codeAt (l : List (Ix × Nat)) (j : Ix) : Nat := ((l.find? fun x => x.1 = j).map fun x => x.2).getD 0

/-- A scale of a list of scales. -/
def scaleAt (l : List (Nat × Option Int)) (r : Nat) : Option Int := ((l.find? fun x => x.1 = r).map fun x => x.2).getD none

/-- term(m, n, k) and its flags: a reserved lns6 code counts as zero (R157, R95). -/
def mterm (ta tb : ETy) (x y : Nat) : Val × FF :=
  if ta = .lns6 && tb = .lns6 then
    if x % 64 = 0x30 || y % 64 = 0x30 then (.zero false, ffRSV) else vproduct { ty := ta, code := x } { ty := tb, code := y }
  else (ta.value x).1.mul (tb.value y).1

/-- V of an output and its flags (R158). -/
def outputV (nanOp : Bool) (terms : List (Val × FF)) (sa sb : Option Int) : Val × FF :=
  let rsv := terms.foldl (fun a t => a ||| (t.2 &&& ffRSV)) 0
  match sa, sb with
  | some x, some y =>
    if nanOp then (.nan, rsv)
    else
      let iv := terms.any fun t => t.2 &&& ffIV != 0
      let r := sumVals .rne (terms.map fun t => t.1)
      if iv then (.nan, rsv ||| ffIV)
      else match r.1 with
        | .zero _ => (.zero false, rsv)
        | v => (v.scale (x + y), rsv ||| r.2)
  | _, _ => (.nan, rsv)

/-- The F36 format. -/
def toF36 (v : Val) : Nat × FF := ETy.f36.conv {} v

/-- A bank element's value in F36 mode. -/
def BCell.val (c : BCell) : Val := (ETy.f36.value c.bits.toNat).1

/-- A cell of raw bits. -/
def cellOf (bits : Nat) (sat : Bool) : BCell := ⟨BitVec.ofNat 36 bits, sat⟩

/-- The type that an operand's elements have in the unit: bf16 where the firmware has converted them (R176). -/
def MEntry.opTy (e : MEntry) (sh : Option Shape) : ETy := if e.emu then .bf16 else (sh.getD {}).ty

/-- An element's code as the unit gets it: converted under RNE where the firmware does (R176). -/
def MEntry.opCode (e : MEntry) (sh : Option Shape) (code : Nat) : Nat :=
  let t := (sh.getD {}).ty
  if e.emu && t ≠ .bf16 then (ETy.bf16.conv {} (t.value code).1).1 else code

/-- The terms of an output. -/
def MEntry.terms (e : MEntry) (o : MOps) (m n : Nat) : List (Nat × Nat) :=
  e.ks.map fun k => (e.opCode e.a (codeAt o.a (e.ix 0 m k)), e.opCode e.b (codeAt o.b (e.ix 1 n k)))

/-- An output in F36 mode (R157, R158); the saturation bit, which only I36 mode uses, is cleared (DESIGN CHOICE, log entry 114). -/
def MEntry.outF (e : MEntry) (o : MOps) (old : BCell) (m n : Nat) : BCell × FF :=
  let ta := e.opTy e.a
  let tb := e.opTy e.b
  let xy := e.terms o m n
  let nanOp := ta ≠ .lns6 && xy.any fun t => (ta.value t.1).1.isNan || (tb.value t.2).1.isNan
  let v := outputV nanOp (xy.map fun t => mterm ta tb t.1 t.2) (scaleAt o.sa m) (scaleAt o.sb n)
  let t := toF36 v.1
  if e.op = .mmz then (cellOf t.1 false, v.2 ||| t.2)
  else
    let x := Val.add .rne old.val (ETy.f36.value t.1).1
    let c := toF36 x.1
    (cellOf c.1 false, v.2 ||| t.2 ||| x.2 ||| c.2)

/-- An output in I36 mode (R159). -/
def MEntry.outI (e : MEntry) (o : MOps) (old : BCell) (m n : Nat) : BCell :=
  let ta := (e.a.getD {}).ty
  let tb := (e.b.getD {}).ty
  let b : Int := (e.terms o m n).foldl (fun a t => a + ta.intOf t.1 * tb.intOf t.2) 0
  let c := old.bits.toInt + b
  if e.op = .mmz then ⟨BitVec.ofInt 36 b, false⟩
  else if !e.isat then { old with bits := BitVec.ofInt 36 c }
  else if old.sat then old
  else if 2 ^ 35 - 1 < c then ⟨BitVec.ofInt 36 (2 ^ 35 - 1), true⟩
  else if c < -(2 ^ 35) then ⟨BitVec.ofInt 36 (-(2 ^ 35)), true⟩
  else { old with bits := BitVec.ofInt 36 c }

/-- An element of the bank after the entry, and its flags. -/
def MEntry.out (e : MEntry) (o : MOps) (bk : Bank) (m n : Nat) : BCell × FF :=
  let old := bk.cell m n
  if e.ms.contains m && e.ns.contains n then (if e.f36 then e.outF o old m n else (e.outI o old m n, 0))
  else if e.op = .mmz then ({}, 0)
  else (old, 0)

/-- The bank after an MMA, MMZ or MMSUB, and the flags. -/
def MEntry.product (e : MEntry) (o : MOps) (bk : Bank) : Bank × FF :=
  let ms := (e.ms.getLastD 0) + 1
  let ns := (e.ns.getLastD 0) + 1
  (bk.build ms ns fun m n => (e.out o bk m n).1,
    (e.ms.flatMap fun m => e.ns.map fun n => (e.out o bk m n).2).foldl (fun a b => a ||| b) 0)

/-! MMST and MMLD (R164, R165). -/

/-- What a pass of MMST or MMLD has done. -/
structure MRun where
  s : State
  bk : Bank
  ff : FF := 0
  n : Nat := 0
  deriving Repr

/-- An element converted by MMST (R164): its code and flags. An I36 integer under MSCLO 0x7F into an unscaled integer type wraps or
saturates with no flag, the scale being exactly 1 (DESIGN CHOICE, log entry 47). -/
def MEntry.convert (e : MEntry) (steps : Nat) (c : BCell) (dscl : Option Nat) (n : Nat) : Nat × FF :=
  let t := (e.a.getD {}).ty
  let v : Val := if e.f36 then c.val else Val.ofInt c.bits.toInt
  let k := e8Exp (bits e.msclo 7 0)
  if !e.f36 && t.isInt && dscl.isNone && k = some 0 then (intCode t e.sat c.bits.toInt, 0)
  else
    let rc : RCtl := { mode := e.mode, sat := e.sat, ftz := e.ftz
                       u := if e.mode ≠ .sr then 0 else if e.mint.table = [] then freeDraw e.iss e.seq steps n
                         else e.mint.draw e.qsrd (e.qidx + n) }
    t.conv rc (divScale dscl (match k with
      | none => .nan
      | some k => v.scale k))

/-- d's scale byte at an index is read: it governs an element that is converted. A faulty one stops at the first element that it
governs (R172). -/
def MEntry.scaled (e : MEntry) (st : Option MaskStore) (j : Ix) : Bool :=
  let d := e.a.getD {}
  d.scaled && d.ixs.any fun x => d.scaleAddr x = d.scaleAddr j && !e.masked st x.j1 x.j0

/-- One element of MMST (R164). -/
def MEntry.storeStep (e : MEntry) (r : MRun) (j : Ix) : U MRun := do
  let d := e.a.getD {}
  let dscl ← if e.scaled r.bk.store j then r.s.unitScale e.iss false d j else .ok none
  if e.masked r.bk.store j.j1 j.j0 then
    let s ← r.s.unitWrite e.iss (fun _ => false) d d.ixs j (match d.ty.fmt with
      | some f => f.inf true
      | none => 0)
    .ok { r with s := s }
  else
    let x := e.convert r.s.steps (r.bk.cell j.j1 j.j0) dscl r.n
    let s ← r.s.unitWrite e.iss (fun _ => false) d d.ixs j x.1
    .ok { r with s := s, ff := r.ff ||| x.2, n := r.n + 1 }

/-- A value loaded by MMLD: a reserved lns6 code is zero to the matrix unit (R95, R165). In F36 mode the saturation bit is cleared
as in I36 mode (DESIGN CHOICE, log entry 114). -/
def MEntry.loaded (e : MEntry) (o : VOpd) : BCell × FF :=
  let v : Val × FF := if o.ty = .lns6 && o.code % 64 = 0x30 then (underScale o.scl (.zero false), ffRSV) else o.val
  if e.f36 then
    let c := toF36 v.1
    (cellOf c.1 false, c.2 ||| v.2)
  else if !o.scaled then (cellOf (intCode .i36 e.isat v.1.toI) false, 0)
  else
    let c := toInt .i36 { sat := e.isat } v.1
    (cellOf c.1 false, c.2)

/-- One element of MMLD. -/
def MEntry.loadStep (e : MEntry) (r : MRun) (j : Ix) : U MRun := do
  let a := e.a.getD {}
  let code ← r.s.unitCode e.iss a j
  let scl ← r.s.unitScale e.iss false a j
  let x := e.loaded { ty := a.ty, scaled := a.scaled, code := code, scl := scl }
  .ok { r with bk := r.bk.build (j.j1 + 1) (j.j0 + 1) (fun m n => if m = j.j1 && n = j.j0 then x.1 else r.bk.cell m n)
               ff := r.ff ||| x.2 }

/-! Completion (R168, R172 to R174). -/

/-- What an entry comes to. -/
structure MDone where
  s : State
  ff : FF := 0
  n : Nat := 0
  stop : Option MStop := none
  deriving Repr

/-- MMST or MMLD performed over the first elements of its record, `n` of them. -/
def MEntry.move (s : State) (e : MEntry) (store : Bool) (n : Nat) : Option MDone :=
  let sh := e.a.getD {}
  match unitGo (if store then e.storeStep else e.loadStep) (sh.ixs.take n) { s := s, bk := s.bankOf e } with
  | .error () => none
  | .ok (r, stop) =>
    let place := (stop.map fun x => sh.ord x.1).getD n
    let s' := r.s.syncDone e.iss sh store (sh.ixs.take place) (sh.ixs.drop place)
    some { s := if store then s' else s'.setBank e r.bk, ff := r.ff, n := r.n
           stop := stop.map fun x => ⟨x.2.1, x.2.2, if store then 0 else 1, sh.ord x.1⟩ }

/-- An entry performed; nothing while it must wait. -/
def MEntry.run (s : State) (e : MEntry) : Option MDone :=
  match e.op with
  | .mmst => e.move s true (e.a.getD {}).count
  | .mmld => e.move s false (e.a.getD {}).count
  | .mmmask => some { s := s.setBank e { s.bankOf e with store := e.store } }
  | _ => match e.readOps s with
    | .error () => none
    | .ok (_, some x) => some { s := s, stop := some x }
    | .ok (o, none) =>
      let r := e.product o (s.bankOf e)
      some { s := s.setBank e r.1, ff := r.2 }

/-- An entry whose output row of a number keeps failing its residue check: MMST and MMLD have done the rows before it, a product leaves
its bank alone (R172, R392). MMMASK has no output row. -/
def MEntry.runRows (s : State) (e : MEntry) (row : Nat) : Option MDone :=
  let sh := e.a.getD {}
  match e.op with
  | .mmmask => none
  | .mmst | .mmld => if row < sh.dim 1 then e.move s (e.op = .mmst) (row * sh.dim 0) else none
  | _ => if e.ms.contains row then (e.run s).map fun d => { s := s, stop := d.stop } else none

/-- On a reason tile an entry waits for every entry issued before it on its bank (R168). -/
def State.bankTurn (s : State) (e : MEntry) : Bool :=
  e.iss.onReflex || !s.others.any fun c => c.loc = e.iss.loc && c.mq.any fun x => x.bank = e.bank && x.order < e.order

/-- The head of the moving context's matrix queue, when it may execute. -/
def State.mhead (s : State) : Option (MEntry × List MEntry) :=
  if !s.unitsRun s.c then none
  else match s.c.mq with
    | [] => none
    | e :: es => if s.bankTurn e then some (e, es) else none

/-- MATRIX_ENTRY_COMPLETE (R168, R173, R174); State.pick other than 0 says that the residue check of output row pick - 1 fails twice,
which stops the entry with CHECK (R392). -/
def evMatrixEntryComplete (s : State) : Option State :=
  match s.mhead with
  | none => none
  | some (e, es) =>
    if s.pick ≠ 0 && bit s.chkcfg 1 then match e.runRows s (s.pick - 1) with
      | some { s := s', ff := ff, n := n, stop := none } =>
        some { s' with c := { s'.c with mq := [], fflags := s'.c.fflags ||| ff, check := s'.c.check ++ [(.matrix, e.iss.pc)] }, steps := s'.steps + n }
      | _ => none
    else match e.run s with
    | some { s := s', ff := ff, n := n, stop := none } =>
      some ({ s' with c := { s'.c with mq := es, fflags := s'.c.fflags ||| ff }, steps := s'.steps + n }.requestFpx ff e.traps
        e.iss.pc e.order)
    | _ => none

/-- MATRIX_FAULT_STOP (R172, R384). -/
def evMatrixFaultStop (s : State) : Option State :=
  match s.mhead with
  | none => none
  | some (e, es) => match e.run s with
    | some { s := s', ff := ff, n := _, stop := some x } =>
      let r : Report := { unit := .matrix, sub := x.cause, addr := w64 x.va, pc := e.iss.pc, disc := es.length, e1 := w64 x.ord
                          e2 := w64 (x.opnd * 256), time := s.cyc }
      some { s' with c := { s'.c with mq := [], fflags := s'.c.fflags ||| ff, reports := s'.c.reports ++ [r] } }
    | _ => none

/-- MMA (R162). -/
def execMma (p : Pre) (a b : R3) (k : BitVec 2) (s : State) : Out := repeated true p (mmaOp .mma p a b k.toNat) s
/-- MMZ (R162). -/
def execMmz (p : Pre) (a b : R3) (k : BitVec 2) (s : State) : Out := repeated true p (mmaOp .mmz p a b k.toNat) s
/-- MMSUB (R163). -/
def execMmsub (p : Pre) (a b : R3) (k : BitVec 2) (s : State) : Out := repeated true p (mmaOp .mmsub p a b k.toNat) s
/-- MMST (R164). -/
def execMmst (p : Pre) (n : R3) (k : BitVec 2) (s : State) : Out := repeated true p (mmstOp p n k.toNat) s
/-- MMLD (R165). -/
def execMmld (p : Pre) (n : R3) (k : BitVec 2) (s : State) : Out := repeated true p (mmldOp p n k.toNat) s
/-- MMMASK (R166). -/
def execMmmask (p : Pre) (n : R3) (k : BitVec 2) (s : State) : Out := repeated true p (mmmaskOp p n k.toNat) s

end Sys2Proof.Machine
end

