-- ==== Sys2Proof/Machine/Fetch.lean ====
section
/-! DEFINITION. Fetching the words of an instruction (R45, R209, R400) and decoding them for a core. -/

namespace Sys2Proof.Machine

/-- The most words an instruction has: four prefixes, one of them PFX.V's two words, and the instruction word (R48). -/
def maxWords : Nat := 6

/-- One word at an address, with the state in which its translation is held. -/
def State.fetchWord (s : State) (i : Issuer) (va : Word) : Except Fail (Half × State) :=
  match s.resolve i va.toNat .fetch with
  | .error e => .error e
  | .ok r =>
    if s.busy (r.key / 32) false then .error .hold
    else match s.readFault i r va.toNat 2 with
    | some c => .error (.cause c)
    | none => .ok (s.readByte i r (va.toNat + 1) (r.key + 1) ++ s.readByte i r va.toNat r.key, s.noteRes i r)

/-- The words that can be fetched from an address on, at most `n`, and why the next one could not be. -/
def State.fetchWords (s : State) (i : Issuer) (va : Word) : Nat → List Half × Option (Fail × Word) × State
  | 0 => ([], none, s)
  | n + 1 => match s.fetchWord i va with
    | .error e => ([], some (e, va), s)
    | .ok (w, s') =>
      let r := s'.fetchWords i (va + 2) n
      (w :: r.1, r.2)

/-- What fetching and decoding at PC finds. -/
inductive Fetched where
  | instr (i : Instr)
  | stall
  deriving DecidableEq, Repr

/-- The words at PC decoded for the context's core (R45, R49): the instruction, or the row that traps. -/
def State.fetch (s : State) : Fetched × State :=
  let r := s.fetchWords (s.c.issuer s.c.defscope) s.c.pc maxWords
  match decode s.c.core r.1 with
  | .ok i _ => (.instr i, r.2.2)
  | .bad why n w => (.instr (.illegalInstruction why n w), r.2.2)
  | .short => match r.2.1 with
    | some (.cause c, va) => (.instr (.fetchFault c va), s)
    | _ => (.stall, s)

/-- The opcode is a prefix's (R48). -/
def isPrefix (w : Half) : Bool :=
  match (opc w).toNat with
  | 0x78 | 0x79 | 0x7A | 0x7B | 0x7C | 0x7E => true
  | _ => false

/-- A body of words ends at the end of an instruction (R59). -/
def bodyWhole (inChain : Bool) : List Half → Bool
  | [] => !inChain
  | w :: ws =>
    if (opc w).toNat = 0x7C then
      match ws with
      | [] => false
      | _ :: ws' => bodyWhole true ws'
    else bodyWhole (isPrefix w) ws

end Sys2Proof.Machine
end

