-- ==== Sys2Proof/Machine/Control.lean ====
section
/-! DEFINITION. Transfers of control (R306, R307), LOOP (R308), HALT, YIELD, TRAP and SVC (R311 to R313), and the rows of a
fetch or decoding that fails (R45, R49). -/

namespace Sys2Proof.Machine

/-- A stack pointer value stepped (R122, R307). -/
def stackStep (by_ : Int) : M (Word × Word) := do
  let v ← readP 7
  let s ← get
  pure (v, ringAdd (s.c.desc 7) v by_)

/-- `push` of R307. -/
def push (v : Word) : M Unit := do
  let sp ← stackStep (-8)
  raiseIf (sp.2.toNat % 8 != 0) cALIGN sp.2
  let s ← get
  storeBytes (s.c.issuer s.c.defscope) sp.2 (leBytes 8 v.toNat)
  writeP 7 sp.2

/-- The target of a displacement (R46). -/
def relTarget (pc : Word) (d : Int) : Word := pc + i64 (2 * d)

/-- The target in a register, ALIGN when it is odd (R46). -/
def evenTarget (t : Word) : M Word := do
  raiseIf (bit t 0) cALIGN t
  pure t

/-- The flags that a condition tests are not pending (R114). -/
def condReady (code : Nat) : M Unit := do
  let s ← get
  waitIf (s.c.pend.meets (condFlags code))

/-- B.cc (R307). -/
def bccOp (p : Pre) (cc : BitVec 4) (d : BitVec 5) : M (Option Word) := do
  condReady cc.toNat
  let s ← get
  pure (if condHolds cc.toNat s.c.flags s.c.acc.full then some (relTarget s.c.pc (widenS d p.imm)) else none)

/-- J (R307). -/
def jOp (p : Pre) (d : BitVec 9) : M (Option Word) := do
  let s ← get
  pure (some (relTarget s.c.pc (widenS d p.imm)))

/-- CALL (R307). -/
def callOp (p : Pre) (d : BitVec 9) : M (Option Word) := do
  let s ← get
  push (s.c.pc + w64 (2 * p.len false))
  pure (some (relTarget s.c.pc (widenS d p.imm)))

/-- CALLR (R307). -/
def callrOp : M (Option Word) := do
  let a ← readAcc
  let t ← evenTarget a
  let s ← get
  push (s.c.pc + 2)
  pure (some t)

/-- JR (R307). -/
def jrOp : M (Option Word) := do
  let a ← readAcc
  let t ← evenTarget a
  pure (some t)

/-- RET (R307). -/
def retOp : M (Option Word) := do
  let sp ← stackStep 0
  raiseIf (sp.2.toNat % 8 != 0) cALIGN sp.2
  let s ← get
  let bs ← loadBytes (s.c.issuer s.c.defscope) sp.2 8
  let t ← evenTarget (w64 (leNat bs))
  let up ← stackStep 8
  writeP 7 up.2
  pure (some t)

/-- Execution goes on at an address as though an instruction that ends there had completed (R308 step 4): every level that the
LOOP lies in and that ends there makes its end test. -/
def Ctx.skipTo (c : Ctx) (t : Word) : Ctx :=
  let r := loopEnd t c.loops
  { c with pc := r.2, loops := r.1, repi := 0, stalled := false, waitFrom := none, retired := c.retired + 1 }

/-- LOOP's words read ahead for R59; what cannot be fetched is not examined. -/
def loopBody (s : State) (n : Nat) : List Half := (s.fetchWords (s.c.issuer s.c.defscope) (s.c.pc + 2) n).1

/-- LOOP's traps, before the count is examined (R308 steps 1 and 2). -/
def loopChecks (l : BitVec 6) (st : R3) : M Unit := do
  let s ← get
  let n := l.toNat + 1
  let ws := loopBody s n
  raiseIf (ws.length = n && !bodyWhole false ws) cILLEGAL (w64 (7 * 2 ^ 24 + (instrWord 0x36 (l ++ st)).toNat))
  raiseIf (decide (2 ≤ s.c.loops.length)) cLOOPDEPTH 1
  let stop := s.c.pc + 2 + w64 (2 * n)
  raiseIf (s.c.loops.any fun o => !(decide (o.start.toNat ≤ (s.c.pc + 2).toNat) && decide (stop.toNat ≤ o.stop.toNat))) cLOOPDEPTH 2

/-- LOOP (R308). -/
def execLoop (l : BitVec 6) (st : R3) (s : State) : Out :=
  let go : M Word := do
    loopChecks l st
    readAcc
  match go s with
  | .error e => .next (settle false e s)
  | .ok (a, s') =>
    let s' := s'.rejoin
    let start := s.c.pc + 2
    let stop := start + w64 (2 * (l.toNat + 1))
    let count := a.toNat % 2 ^ 32
    if count = 0 then .next { s' with c := s'.c.skipTo stop }
    else
      let c := s'.c.advance 1
      .next { s' with c := { c with pc := start, loops := ⟨start, stop, count, 0, st⟩ :: s'.c.loops } }

/-- The copy commands and collectives of a context on any channel have nothing to report and are over; otherwise ENGINE,
BARRIER or a wait (R311, R225, R258). A vote's BARRIER is no report of theirs: it is a candidate of R382. -/
def engineOver : M Unit := do
  let s ← get
  let copies := s.c.reports.filter fun r => match r.unit with
    | .copy _ | .coll _ => true
    | _ => false
  match copies with
  | r :: _ => raiseEngine r
  | [] => match s.c.barReps.find? fun b => b.ch.isSome with
    | some b => raiseBarrier b
    | none => waitAbsent (s.hasCmd s.c.uid)

/-- The waits of HALT (R311 step 1). Under deterministic mode the participant is absent from their start on, as it is once it has
halted (R200). -/
def haltWaits : M Unit := do
  engineOver
  let s ← get
  waitAbsent (s.storesHeld s.c || s.c.vq ≠ [] || s.c.mq ≠ [] || s.c.reports ≠ [] || s.c.jobs.any fun j => match j with
    | .atomic _ | .atomicDone .. | .atomicRefused .. | .square _ | .dqreq .. | .stash .. => true
    | _ => false)
  set (s.drain s.c.uid)

/-- HALT, with its retain bit (R311). -/
def haltOp (retain : Bool) : M (Option Word) := do
  haltWaits
  let s ← get
  if retain && !s.c.onReflex && !s.c.isGuest then do
    let a ← readAcc
    pure (if a = 0 then none else some a)
  else pure none

/-- HALT completed: the strand ends (R311). -/
def haltDone (retain : Bool) (s : State) : Out :=
  match haltOp retain s with
  | .error e => .next (settle false e s)
  | .ok (tok, s') => .next ({ s' with c := s'.c.advance 1 }.endStrand s.c.uid tok)

/-- SVC (R313): it completes and receives the end test, then its trap is entered. -/
def svcDone (code : BitVec 9) (s : State) : Out :=
  let s' := retire 1 s
  .next (takeTrap false cSVC 0 (w64 code.toNat) s'.c.pc false s')

/-- TVAL of ILLEGAL (R49). -/
def illegalVal (why : BitVec 4) (word : BitVec 3) (w : BitVec 16) : Word :=
  w64 (why.toNat * 2 ^ 24 + word.toNat * 2 ^ 16 + w.toNat)

/-- B.cc (R307). -/
def execBcc (p : Pre) (cc : BitVec 4) (d : BitVec 5) (s : State) : Out := control (p.len false) (bccOp p cc d) s
/-- J (R307). -/
def execJ (p : Pre) (d : BitVec 9) (s : State) : Out := control (p.len false) (jOp p d) s
/-- CALL (R307). -/
def execCall (p : Pre) (d : BitVec 9) (s : State) : Out := control (p.len false) (callOp p d) s
/-- RET (R307). -/
def execRet (s : State) : Out := control 1 retOp s
/-- JR (R307). -/
def execJr (s : State) : Out := control 1 jrOp s
/-- CALLR (R307). -/
def execCallr (s : State) : Out := control 1 callrOp s
/-- HALT (R311). -/
def execHalt (s : State) : Out := haltDone false s
/-- HALT with the retain bit (R304, R311). -/
def execHaltRetain (s : State) : Out := haltDone true s
/-- TRAP (R313). -/
def execTrap (code : BitVec 9) (s : State) : Out := .next (takeTrap false cTRAPI 0 (w64 code.toNat) s.c.pc false s)
/-- SVC (R313). -/
def execSvc (code : BitVec 9) (s : State) : Out := svcDone code s
/-- The words at PC decode to no instruction (R49, R65): ILLEGAL at the first word; the index of a REP instruction that
stood there is saved (R58, R376). -/
def execIllegalInstruction (why : BitVec 4) (word : BitVec 3) (w : BitVec 16) (s : State) : Out :=
  .next (takeTrap false cILLEGAL 0 (illegalVal why word w) s.c.pc (s.c.repi ≠ 0) s)
/-- A word at PC cannot be fetched (R45). -/
def execFetchFault (cause : Byte) (addr : Word) (s : State) : Out := .next (takeTrap false cause 0 addr s.c.pc (s.c.repi ≠ 0) s)

end Sys2Proof.Machine
end

