-- ==== Sys2Proof/Machine/TrapInstr.lean ====
section
/-! DEFINITION. Privilege checks (R25, R64), ERET (R379) and WFI (R380). -/

namespace Sys2Proof.Machine

/-- The instruction word of an instruction. -/
def wordOf (i : Instr) : Nat := ((encode i).getLastD 0).toNat

/-- PRIV below a level, with the instruction word in TVAL (R25, R64, R381). -/
def needPriv (lvl : Priv) (self : Instr) : M Unit := do
  let s ← get
  raiseIf (decide (s.c.prv.code < lvl.code)) cPRIV (w64 (wordOf self))

/-- Some leading word before the instruction word is REP (R48, R57); `second` says that PFX.V's second word is next. -/
def hasRep (second : Bool) : List Half → Bool
  | [] => false
  | w :: ws =>
    if second then hasRep false ws
    else if (opc w).toNat = 0x7E then true
    else if (opc w).toNat = 0x7C then hasRep true ws
    else isPrefix w && hasRep false ws

/-- The instruction word of BARW (R321). -/
def barwWord : Half := BitVec.ofNat 16 (wordOf .barw)

/-- The trap registers that the context reads, writes and returns through (R378). -/
def Ctx.trapRegs (c : Ctx) : TrapRegs := if !c.isDisp && c.prv = .m then c.mtrap else c.trap
/-- The context with those registers changed. -/
def Ctx.setTrapRegs (c : Ctx) (t : TrapRegs) : Ctx := if !c.isDisp && c.prv = .m then { c with mtrap := t } else { c with trap := t }

/-- The context after ERET (R379): `rep` and `barw` say what TPC addresses. -/
def Ctx.eret (c : Ctx) (rep barw : Bool) : Ctx :=
  let r := c.trapRegs
  let t := r.stat
  let p := Priv.ofCode (bits t 9 8)
  let low := if p.code < c.prv.code then p else c.prv
  { c.setFlags4 t with
    pc := r.pc
    supEntry := if c.prv = .s && p = .u then some c.tvec else c.supEntry
    prv := low, gie := bit t 63, inHandler := false
    repi := if rep && bit t 62 then bits t 57 16 else 0
    wres := barw && bit t 61, wph := barw && bit t 61 && bit t 60
    stalled := false, waitFrom := none, inMwait := false, inWfi := false, inClose := false, emu := none, retired := c.retired + 1 }

/-- ERET's own effect on a state (R379). What TPC addresses is read as the fetch at the return would read it. -/
def State.eret (s : State) : State :=
  let c := s.c.eret false false
  let ws := (s.fetchWords (c.issuer c.defscope) c.pc maxWords).1
  { s with c := s.c.eret (hasRep false ws) (ws.head? = some barwWord)
           waiters := s.waiters.filter fun w => w.uid ≠ s.c.uid }

/-- WFI waits for a line both enabled and pending (R380). -/
def wfiOp : M Unit := do
  let s ← get
  if s.c.ien &&& s.c.ipend = 0 then throw (.hold { s with c := { s.c with inWfi := true, waitKind := .absent } })

/-- ERET (R379). N, Z, C, V pending on a slow access are ordered before its write (R114). -/
def execEret (s : State) : Out :=
  if s.c.pend.some' then .next (stall none .other s) else .next s.eret

/-- WFI (R380). -/
def execWfi (s : State) : Out := once 2 wfiOp s

end Sys2Proof.Machine
end

