-- ==== Sys2Proof/Machine/Wait.lean ====
section
/-! DEFINITION. The waiting instructions (R315 to R319), numbered barriers (R320, R321), votes (R322), semaphores (R323),
EVSIG (R324). -/

namespace Sys2Proof.Machine

/-- The granule of the address in a pointer, for WAITF and WAITE (R316). -/
def waitGranule (n : R3) : M Nat := do
  let s ← get
  let ea ← baseAddr (n + s.c.stagger)
  raiseIf (decide (dramBase ≤ ea.toNat) && decide (ea.toNat < dramEnd)) cACCESS ea
  let r ← access (s.c.issuer s.c.defscope) ea .read
  pure (r.key / 32)

/-- A wait for a granule's state; a poisoned granule reads as full (R316, R395). -/
def waitOp (full : Bool) (n : R3) : M Unit := do
  let g ← waitGranule n
  let s ← get
  waitAbsent (((s.gran g).full || (s.gran g).poison) != full)

/-- MONITOR (R317). -/
def monitorOp (p : Pre) (n : R3) : M Unit := do
  let s ← get
  let ea ← baseAddr (n + s.c.stagger)
  let r ← access (s.c.issuer (s.c.scopeOf p)) ea .read
  modCtx fun c => { c with monitor := some (r.key / 32), monHit := false, monLost := false }

/-- MWAIT (R318). -/
def mwaitOp : M Unit := do
  let t ← readAcc
  let s ← get
  match s.c.mwaitCode s.cyc t with
  | some k => do
    writeAcc (w64 k)
    modCtx fun c => { c with monitor := none, monHit := false, monLost := false }
  | none => throw (.hold { s with c := { s.c with inMwait := true, waitKind := .absent } })

/-- The context may use the channel (R221). -/
def Ctx.mayChan (c : Ctx) (ch : R3) : Bool := c.onReflex || (c.isGuest == decide (6 ≤ ch.toNat))

/-- The channel that COLL uses (R259). -/
def Ctx.collChan (c : Ctx) : R3 := if c.onReflex || c.isGuest then 7 else 5

/-- The context's commands under way on a channel: their numbers in order of issue and their promised times, all ones while none
is known (R224). -/
def State.chanCmds (s : State) (c : Ctx) (ch : R3) : List (Nat × Nat) :=
  let none' := 2 ^ 64 - 1
  let own : List Cmd := match c.loc with
    | none => []
    | some t => let x := (s.tile t).chans[ch.toNat]'ch.isLt
      (x.active.toList ++ x.shadow.toList).filter fun k => k.iss.uid = c.uid
  let colls := s.colls.filter fun k => k.iss.uid = c.uid && c.collChan = ch
  (own.map fun k => (k.num, k.promise.getD none')) ++ colls.map fun k => (k.num, none')

/-- Their promised times. -/
def State.chanTimes (s : State) (c : Ctx) (ch : R3) : List Nat := (s.chanCmds c ch).map fun x => x.2

/-- The promised time of the latest of them, 0 for none (R265). -/
def State.latestTime (s : State) (c : Ctx) (ch : R3) : Nat :=
  ((s.chanCmds c ch).foldl (fun (b : Nat × Nat) x => if b.1 ≤ x.1 then x else b) (0, 0)).2

/-- A report of the channel. -/
def RUnit.onChan (u : RUnit) (ch : R3) : Bool :=
  match u with
  | .copy k | .coll k => k = ch
  | _ => false

/-- The unreported stop of the channel's commands in a set, if any: ENGINE (R225, R319); otherwise an over-credit met there, BARRIER,
once the same command has no stop to report (R258). -/
def reportStop (ch : R3) (p : Report → Bool) : M Unit := do
  let s ← get
  match s.c.reports.find? fun r => r.unit.onChan ch && p r with
  | some r => raiseEngine r
  | none => match s.c.barReps.find? fun b => b.ch = some ch && s.c.canReport b with
    | some b => raiseBarrier b
    | none => pure ()

/-- SLEEPT on a channel (R319). -/
def sleeptOp (ch : R3) : M Unit := do
  let s ← get
  raiseIf (!s.c.mayChan ch) cACCESS (w64 ch.toNat)
  let t ← readAcc
  let ps := s.chanTimes s.c ch
  if t = allOnes then do
    waitAbsent (ps ≠ [])
    reportStop ch fun _ => true
  else do
    waitAbsent (decide (s.cyc < t.toNat))
    reportStop ch fun r => decide (r.promise.getD (2 ^ 64 - 1) ≤ t.toNat)
    match minOf (ps.filter fun p => p ≤ t.toNat) with
    | some p => raise cPROMISE (w64 p)
    | none => pure ()

/-- SLEEPT on a time (R319). -/
def sleeptTOp : M Unit := do
  let t ← readAcc
  let s ← get
  waitAbsent (decide (s.cyc < t.toNat))

/-- CPQ (R265). -/
def cpqOp (ch : R3) : M Unit := do
  let s ← get
  raiseIf (!s.c.mayChan ch) cACCESS (w64 ch.toNat)
  reportStop ch fun _ => true
  writeAcc (w64 (s.latestTime s.c ch))

/-! Numbered barriers (R320, R321). -/

/-- The barrier that ACC names, ACCESS for a context that may not use it (R320). -/
def barrierOf (a : Word) : M Nat := do
  let s ← get
  let b := bits a 4 0
  raiseIf (s.c.isGuest || (s.barrier s.c.dist b).grant ≠ some s.c.launch) cACCESS (w64 b)
  pure b

/-- An arrival (R321), a release: the phase before it. -/
def arriveAt (b bytes : Nat) : M Bool := do
  releaseOwn
  let s ← get
  let x := s.barrier s.c.dist b
  set (s.stepBarrier s.c.dist b { x.arrive bytes with quantum := max x.quantum (s.c.retired / s.c.quantum) })
  pure x.phase

/-- The barrier's group is every participant of the context's launch in its district (R200). -/
def State.fullGroup (s : State) (c : Ctx) (x : Barrier) : Bool :=
  x.expect = 2 * (s.liveTasks.filter fun k => k.launch = c.launch && distIdx k.tile.arr k.tile.dist = c.dist).length

/-- The quantum in which a participant is present again after BARW (R200). -/
def barwRejoin (b : Nat) : M Unit := do
  let s ← get
  let x := s.barrier s.c.dist b
  let q := if s.fullGroup s.c x then some (x.lastQuantum + 1) else s.openQuantum s.c
  match q with
  | some q => if s.c.det then modCtx fun c => { c with retired := q * c.quantum } else pure ()
  | none => pure ()

/-- BARA (R321). -/
def baraOp : M Unit := do
  let a ← readAcc
  let b ← barrierOf a
  let ph ← arriveAt b (bits a 55 32)
  emptyAcc
  addJob (.fill (w64 (b2n ph)) {} 0)

/-- BARA.SET (R321). -/
def baraSetOp : M Unit := do
  let a ← readAcc
  let b ← barrierOf a
  let s ← get
  let here (i : Issuer) : Bool := (i.loc.map fun t => distIdx t.arr t.dist) = some s.c.dist
  waitIf (s.cmds.any (fun k => k.target = .barrier b && here k.iss) || s.colls.any fun k => k.target = .barrier b && here k.iss)
  releaseOwn
  let s ← get
  let x := s.barrier s.c.dist b
  set (s.stepBarrier s.c.dist b { x with expect := max 1 (bits a 23 8), arrived := 0, pend := bits a 55 32, err := false })

/-- BARW (R321): the arrival once, then the wait for the phase to flip. -/
def barwOp : M Unit := do
  let a ← readAcc
  let b ← barrierOf a
  let s ← get
  if s.c.wres then
    if (s.barrier s.c.dist b).phase == s.c.wph then throw (.hold { s with c := { s.c with waitKind := .barw } })
    modify fun s => s.traceCtx 2 s.c b
    barwRejoin b
  else do
    let ph ← arriveAt b (bits a 55 32)
    let s ← get
    if (s.barrier s.c.dist b).phase == ph then
      let s := s.traceCtx 1 s.c b
      throw (.hold { s with c := { s.c with wres := true, wph := ph, waitKind := .barw } })
    barwRejoin b

/-- VOTE (R322): the strand's k-th vote, k from 1. -/
def voteOp (op : Nat) : M Unit := do
  let a ← readAcc
  let s ← get
  raiseIf (s.c.isGuest || s.c.isThread) cACCESS 0
  releaseOwn
  emptyAcc
  addJob (.vote (s.c.votes + 1) op a)
  modCtx fun c => { c with votes := c.votes + 1 }

/-- A tile semaphore's waiters' key. -/
def semKey (task n : Nat) : Nat := task * 16 + n

/-- No earlier waiter stands before the context on a semaphore (R323). -/
def State.semTurn (s : State) (k : Nat) : Bool :=
  match s.waiters.find? fun w => w.sem && w.key = k && s.serves w with
  | none => true
  | some w => w.uid = s.c.uid

/-- A semaphore's count. -/
def State.sem (s : State) (task n : Nat) : Nat := ((s.taskOf task).map fun k => k.sems.toList.getD n 0).getD 0

/-- SEMP (R323). -/
def sempOp (n : BitVec 4) : M Unit := do
  let s ← get
  raiseIf s.c.isGuest cACCESS (w64 n.toNat)
  let k := semKey s.c.task n.toNat
  let v := s.sem s.c.task n.toNat
  if 0 < v && s.semTurn k then
    set (s.updTask s.c.task fun t => { t with sems := vset t.sems n.toNat (v - 1) })
  else throw (.wait (some { uid := s.c.uid, key := k, sem := true }) .absent)

/-- SEMV (R323). -/
def semvOp (n : BitVec 4) : M Unit := do
  let s ← get
  raiseIf s.c.isGuest cACCESS (w64 n.toNat)
  raiseIf (decide (65535 ≤ s.sem s.c.task n.toNat)) cBARRIER (w64 n.toNat)
  releaseOwn
  modify fun s => s.updTask s.c.task fun t => { t with sems := vset t.sems n.toNat (s.sem s.c.task n.toNat + 1) }

/-- A context's tenant owns its district's Interchange (R324, R329). -/
def State.ownsEvx (s : State) (d tenant : Nat) : Bool :=
  bit (s.district d).evx.owner 63 && bits (s.district d).evx.owner 3 0 = tenant

/-- EVSIG (R324). -/
def evsigOp (n : R3) : M Unit := do
  let s ← get
  raiseIf (!s.ownsEvx s.c.dist s.c.tenant) cACCESS (w64 n.toNat)
  releaseOwn
  modify fun s => s.pulseSoon s.c.dist (56 + n.toNat)

/-- WAITF (R316). -/
def execWaitf (n : R3) (s : State) : Out := once 1 (waitOp true n) s
/-- WAITE (R316). -/
def execWaite (n : R3) (s : State) : Out := once 1 (waitOp false n) s
/-- MONITOR (R317). -/
def execMonitor (p : Pre) (n : R3) (s : State) : Out := once (p.len false) (monitorOp p n) s
/-- MWAIT (R318). -/
def execMwait (s : State) : Out := once 1 mwaitOp s
/-- SLEEPT (R319). -/
def execSleept (ch : R3) (s : State) : Out := once 1 (sleeptOp ch) s
/-- SLEEPT.T (R319). -/
def execSleeptT (s : State) : Out := once 1 sleeptTOp s
/-- CPQ (R265). -/
def execCpq (ch : R3) (s : State) : Out := once 2 (cpqOp ch) s
/-- BARA (R321). -/
def execBara (s : State) : Out := once 1 baraOp s
/-- BARA.SET (R321). -/
def execBaraSet (s : State) : Out := once 1 baraSetOp s
/-- BARW (R321). -/
def execBarw (s : State) : Out := once 1 barwOp s
/-- VOTE.AND (R322). -/
def execVoteAnd (s : State) : Out := once 1 (voteOp 0) s
/-- VOTE.OR (R322). -/
def execVoteOr (s : State) : Out := once 1 (voteOp 1) s
/-- VOTE.MAXU (R322). -/
def execVoteMaxu (s : State) : Out := once 1 (voteOp 2) s
/-- VOTE.MINU (R322). -/
def execVoteMinu (s : State) : Out := once 1 (voteOp 3) s
/-- VOTE.SUM (R322). -/
def execVoteSum (s : State) : Out := once 1 (voteOp 4) s
/-- VOTE.EQ (R322). -/
def execVoteEq (s : State) : Out := once 1 (voteOp 5) s
/-- SEMP (R323). -/
def execSemp (n : BitVec 4) (s : State) : Out := once 1 (sempOp n) s
/-- SEMV (R323). -/
def execSemv (n : BitVec 4) (s : State) : Out := once 1 (semvOp n) s
/-- EVSIG (R324). -/
def execEvsig (n : R3) (s : State) : Out := once 1 (evsigOp n) s

end Sys2Proof.Machine
end

