-- ==== Sys2Proof/Machine/Csr.lean ====
section
/-! DEFINITION. The control registers (R17, R28 to R43, R196, R240, R267, R278, R329, R333, R349, R352, R357, R373, R384, R393,
R398, R401, R402, R417, R438) and the instructions that read and write them (R370, R371). -/

namespace Sys2Proof.Machine

/-- The assigned control registers (R28). -/
inductive CsrReg where
  | status | fctl | fflags | fepol | festat | gen | genrd | genpol
  | pbase (n : R3) | pspan (n : R3) | pstep (n : R3) | ptype (n : R3)
  | defscope | esctx | mfmt | mscla | msclb | mgeo0 | mgeo1 | msat | msclo
  | sthr | slim | vocabn | vocabp | qdim | qidx | qsrd | vshare | rank | coord | cyc | timens | ien | ipend
  | tvec | tcause | tpc | tval | tstat | tscratch | erec0 | erec1 | erec2 | caps | devid | rbudget
  | tenant | ptbase | quantum | detmode | mixtrap | evxsel | evxdat | esrsel | esrdat | sqsel | sqdat
  | chsel | chcfg | fpsel | fpdat
  | chkcfg | injsel | injdat | owner | jrnlbase | kickbase | seizecfg | dsig
  deriving DecidableEq, Repr

/-- The registers of numbers 0x000 to 0x00A and 0x030 to 0x04A (R30 to R37). -/
def csrLow (n : Nat) : Option CsrReg :=
  match n with
  | 0x000 => some .status
  | 0x001 => some .fctl
  | 0x002 => some .fflags
  | 0x003 => some .fepol
  | 0x004 => some .festat
  | 0x008 => some .gen
  | 0x009 => some .genrd
  | 0x00A => some .genpol
  | 0x030 => some .defscope
  | 0x031 => some .esctx
  | 0x038 => some .mfmt
  | 0x039 => some .mscla
  | 0x03A => some .msclb
  | 0x03B => some .mgeo0
  | 0x03C => some .mgeo1
  | 0x03D => some .msat
  | 0x03E => some .msclo
  | 0x040 => some .sthr
  | 0x041 => some .slim
  | 0x042 => some .vocabn
  | 0x043 => some .vocabp
  | 0x048 => some .qdim
  | 0x049 => some .qidx
  | 0x04A => some .qsrd
  | _ => none

/-- The registers of numbers 0x050 to 0x0A0 (R38 to R43, R384, R10, R11). -/
def csrMid (n : Nat) : Option CsrReg :=
  match n with
  | 0x50 => some .vshare
  | 0x58 => some .rank
  | 0x59 => some .coord
  | 0x60 => some .cyc
  | 0x61 => some .timens
  | 0x68 => some .ien
  | 0x69 => some .ipend
  | 0x70 => some .tvec
  | 0x71 => some .tcause
  | 0x72 => some .tpc
  | 0x73 => some .tval
  | 0x74 => some .tstat
  | 0x75 => some .tscratch
  | 0x78 => some .erec0
  | 0x79 => some .erec1
  | 0x7A => some .erec2
  | 0x80 => some .caps
  | 0x81 => some .devid
  | 0xA0 => some .rbudget
  | _ => none

/-- The supervisor registers, by the low byte of the number. -/
def csrSup (n : Nat) : Option CsrReg :=
  match n with
  | 0x00 => some .tenant
  | 0x01 => some .ptbase
  | 0x02 => some .quantum
  | 0x03 => some .detmode
  | 0x04 => some .mixtrap
  | 0x08 => some .evxsel
  | 0x09 => some .evxdat
  | 0x0A => some .esrsel
  | 0x0B => some .esrdat
  | 0x0C => some .sqsel
  | 0x0D => some .sqdat
  | 0x0E => some .chsel
  | 0x0F => some .chcfg
  | 0x10 => some .fpsel
  | 0x11 => some .fpdat
  | _ => none

/-- The machine registers, by the low byte of the number. -/
def csrMach (n : Nat) : Option CsrReg :=
  match n with
  | 0x00 => some .chkcfg
  | 0x01 => some .injsel
  | 0x02 => some .injdat
  | 0x03 => some .owner
  | 0x04 => some .jrnlbase
  | 0x05 => some .kickbase
  | 0x06 => some .seizecfg
  | 0x07 => some .dsig
  | _ => none

/-- The register of a number (R28). -/
def CsrReg.ofNum (n : Nat) : Option CsrReg :=
  if n < 0x10 then csrLow n
  else if n < 0x18 then some (.pbase (BitVec.ofNat 3 n))
  else if n < 0x20 then some (.pspan (BitVec.ofNat 3 n))
  else if n < 0x28 then some (.pstep (BitVec.ofNat 3 n))
  else if n < 0x30 then some (.ptype (BitVec.ofNat 3 n))
  else if n < 0x50 then csrLow n
  else if n < 0x100 then csrMid n
  else if n < 0x200 then csrSup (n - 0x100)
  else if n < 0x300 then csrMach (n - 0x200)
  else none

/-! Values. -/

/-- The dispatch firmware executes: a dispatch core at M. -/
def State.firmware (s : State) : Bool := s.c.isDisp && s.c.prv = .m
/-- The tenant whose entry a per-tenant register shows: the one that TENANT.TID selects on a dispatch core, the context's own on
a tile (R349, R352). -/
def State.csrTenant (s : State) : Nat := if s.c.isDisp then s.tid else s.c.tenant

/-- A value's bits under a mask. -/
def keep (v : Word) (mask : Nat) : Word := v &&& w64 mask

/-- FESTAT (R32). -/
def Ctx.festat (c : Ctx) : Word :=
  w64 (b2n c.acc.full + (List.range 8).foldl (fun a i => a + b2n (c.reg (.p (BitVec.ofNat 3 i))).full * 2 ^ (1 + i) +
    b2n (c.reg (.k (BitVec.ofNat 3 i))).full * 2 ^ (9 + i)) 0)

/-- GENRD (R33). -/
def Ctx.genrdWord (c : Ctx) : Word := w64 (c.genrd[0].toNat + c.genrd[1].toNat * 2 ^ 10 + c.genrd[2].toNat * 2 ^ 20)

/-- COORD (R39). -/
def Ctx.coordWord (c : Ctx) : Word :=
  w64 (c.stage % 2 ^ 16 * 2 ^ 32 + ((c.place.code.map fun b => b.toNat).getD 0) * 2 ^ 5)

/-- TENANT (R349). -/
def State.tenantWord (s : State) (t : Nat) : Word :=
  let x := s.tenant t
  w64 (x.rfx.toNat * 2 ^ 48 + b2n x.sqen * 2 ^ 47 + x.sqlast % 1024 * 2 ^ 37 + x.sqfirst % 1024 * 2 ^ 27 + x.escw.toNat * 2 ^ 16 +
    t % 16)

/-- VSHARE of the context's core (R38). -/
def State.vshare (s : State) : Nat :=
  match s.c.place with
  | .dispatch b => (s.disp.toList.getD (b2n b) {}).vshare
  | .tile t ic => ((s.tile t).cores.toList.getD (b2n ic) {}).vshare

/-- VSHARE written; 0 is stored as 1 (R38). -/
def State.setVshare (s : State) (w : Nat) : State :=
  let w := max 1 w
  match s.c.place with
  | .dispatch b => { s with disp := vset s.disp (b2n b) { s.disp.toList.getD (b2n b) {} with vshare := w } }
  | .tile t ic => s.setTile t { s.tile t with cores := vset (s.tile t).cores (b2n ic) { (s.tile t).cores.toList.getD (b2n ic) {} with vshare := w } }

/-! Square slots (R267, R268). -/

/-- A slot's entry. -/
def State.slot (s : State) (n : Nat) : Slot := (s.slots.find? fun x => x.num = n).getD { num := n }
/-- The state with a slot's entry changed. -/
def State.setSlot (s : State) (x : Slot) : State :=
  { s with slots := (s.slots.filter fun y => y.num < x.num) ++ [x] ++ s.slots.filter fun y => x.num < y.num }

/-- The slot lies in the tenant's range (R349). -/
def State.inRange (s : State) (ten n : Nat) : Bool :=
  let t := s.tenant ten
  t.sqen && decide (t.sqfirst ≤ n) && decide (n ≤ t.sqlast)

/-- The bytes of a slot's ten buffers. -/
def slotBytes (size : Nat) : Nat := 10 * size * 64

/-- A slot of a size fits beside every other valid slot (R268). -/
def State.slotFits (s : State) (n size : Nat) : Bool :=
  decide (1 ≤ size) && decide (size ≤ 512) &&
    decide (slotBytes size + ((s.slots.filter fun x => x.valid && x.num ≠ n).map fun x => slotBytes x.size).sum ≤
      2 ^ (bits s.capsReg 35 32) * 2 ^ 20)

/-- VALID set from 0 to 1 for a tenant, with the other fields of the write (R268). -/
def State.validate (s : State) (n ten : Nat) (v : Word) : State :=
  let x := { s.slot n with mirror := bit v 62, size := bits v 9 0 }
  if s.slotFits n x.size then
    s.setSlot { x with valid := true, nospace := false, tenant := ten, count := 0, latest := none, bufs := [], pins := [], writing := none }
  else s.setSlot { x with nospace := true }

/-- What the clearing of a slot's VALID makes of a request: one without a port is refused, a publication that holds one goes on under
the slot's counter and MIRROR as they were (R268). -/
def SqReq.onClear (x : Slot) (q : SqReq) : SqReq :=
  if q.slot ≠ x.num then q
  else match q.kind with
    | .info _ => q
    | .get _ => if !q.granted && q.refused.isNone then { q with refused := some cACCESS } else q
    | .pub .. =>
      if !q.granted then (if q.refused.isNone then { q with refused := some cACCESS } else q)
      else { q with cleared := some (q.cleared.getD (x.count, x.mirror)) }

/-- VALID cleared: ungranted requests are refused, the buffers released (R268). -/
def State.invalidate (s : State) (n : Nat) : State :=
  let s := { s with square := s.square.map (SqReq.onClear (s.slot n)) }
  s.setSlot { s.slot n with valid := false, latest := none, bufs := [], pins := [], writing := none }

/-- SQDAT (R267). -/
def State.sqdat (s : State) : Word :=
  let n := bits s.c.sqsel 9 0
  let x := s.slot n
  if !(s.firmware || s.inRange s.csrTenant n) then 0
  else if bit s.c.sqsel 16 then w64 (x.read.toNat * 256 + x.writer.toNat)
  else w64 (b2n x.valid * 2 ^ 63 + b2n x.mirror * 2 ^ 62 + b2n x.nospace * 2 ^ 61 + x.tenant % 16 * 2 ^ 56 + x.size % 1024)

/-- A write of SQDAT (R267, R268). -/
def State.sqdatWrite (s : State) (v : Word) : State :=
  let n := bits s.c.sqsel 9 0
  let x := s.slot n
  if !(s.firmware || s.inRange s.csrTenant n) then s
  else if bit s.c.sqsel 16 then
    (if x.valid then s else s.setSlot { x with read := BitVec.ofNat 8 (bits v 15 8), writer := BitVec.ofNat 8 (bits v 7 0) })
  else if x.valid then (if bit v 63 then s else s.invalidate n)
  else if bit v 63 then s.validate n s.csrTenant v
  else s.setSlot { x with mirror := bit v 62, size := bits v 9 0 }

/-! Escrow windows (R278). -/

/-- ESRDAT (R278). -/
def State.esrdat (s : State) : Word :=
  let x := s.win (bits s.c.esrsel 6 4)
  let k := bits s.c.esrsel 3 0
  if k = 15 then w64 (s.pcap * 2 ^ 20 + s.poolUsed)
  else if !(s.firmware || x.tenant = s.csrTenant) || 9 ≤ k then 0
  else if k = 0 then
    w64 (b2n x.open_ * 2 ^ 63 + x.joined % 256 * 2 ^ 55 + x.tenant % 16 * 2 ^ 48 + x.entries.length * 2 ^ 20 + x.quota)
  else if k % 2 = 1 then x.rbase.toList.getD (k / 2) 0
  else w64 (x.rlen.toList.getD (k / 2 - 1) 0)

/-- A change of CTL.TENANT: the window as ESABORT would leave it, OPEN and JOINED 0, EN 0 in every context joined, saved ones too (R35,
R349). -/
def State.windowTenant (s : State) (w ten : Nat) : State :=
  let s := s.setWin w { s.win w with tenant := ten, open_ := false, joined := 0, entries := [] }
  let leave (c : Ctx) : Ctx := if c.esEn && c.esWin.toNat = w then { c with esEn := false } else c
  { s.mapCtx leave with saved := s.saved.map fun b => { b with ctxs := b.ctxs.map leave } }

/-- A write of ESRDAT (R278, R349). -/
def State.esrdatWrite (s : State) (v : Word) : State :=
  let w := bits s.c.esrsel 6 4
  let k := bits s.c.esrsel 3 0
  let x := s.win w
  if !(s.firmware || x.tenant = s.csrTenant) || 9 ≤ k then s
  else if k = 0 then
    let s := if s.firmware && bits v 51 48 ≠ x.tenant then s.windowTenant w (bits v 51 48) else s
    if x.open_ then s else s.setWin w { s.win w with quota := bits v 19 0 }
  else if x.open_ then s
  else if k % 2 = 1 then s.setWin w { x with rbase := vset x.rbase (k / 2) (keep v 0xFFFF_FFFF_FFE0) }
  else s.setWin w { x with rlen := vset x.rlen (k / 2 - 1) (bits v 31 0) }

/-! The Interchange (R329, R330). -/

/-- An element's word; zero beyond a kind's count. -/
def Interchange.elem (x : Interchange) (kind i : Nat) : Word :=
  match kind with
  | 0 => x.taps.toList.getD i 0
  | 1 => x.timers.toList.getD i 0
  | 2 => x.counters.toList.getD i 0
  | 3 => x.terms.toList.getD i 0
  | 4 => x.outputs.toList.getD i 0
  | 5 => if i = 0 then x.owner else 0
  | _ => 0

/-- A counter's word as a write stores it: EN 0 for its own signal or one above 95, VALUE := RELOAD (R330). -/
def counterWord (i : Nat) (v : Word) : Word :=
  let sig := bits v 22 16
  let en := bit v 63 && sig != 64 + i && decide (sig < 96)
  setValue (w64 (b2n en * 2 ^ 63 + sig * 2 ^ 16 + bits v 15 0)) (max 1 (bits v 15 0))

/-- A term's word as a write stores it: latches cleared, OVR cleared by a one (R330). -/
def termWord (old v : Word) : Word :=
  w64 (b2n (bit v 63) * 2 ^ 63 + b2n (bit old 39 && !bit v 39) * 2 ^ 39 + bits v 31 0)

/-- An element written; `q` is floor(clock / PERIOD) for a timer's word. -/
def Interchange.setElem (x : Interchange) (kind i : Nat) (v : Word) (q : Word → Nat) : Interchange :=
  match kind with
  | 0 => { x with taps := vset x.taps i (keep v (if i < 16 then 0x8000_0000_0000_0077 else 0x8000_0000_0000_001F)) }
  | 1 =>
    let w := keep v 0xC000_0000_FFFF_FFFF
    { x with timers := vset x.timers i w, timerQ := vset x.timerQ i (q w) }
  | 2 => { x with counters := vset x.counters i (counterWord i v) }
  | 3 => { x with terms := vset x.terms i (termWord (x.terms.toList.getD i 0) v) }
  | 4 => { x with outputs := vset x.outputs i (keep v 0x8003_F700_FFFF_FFFF) }
  | 5 => if i = 0 then { x with owner := keep v 0x8000_0000_0000_000F } else x
  | _ => x

/-- The district that EVXSEL selects: the context's own, or at M the one named, if the part has it (R7, R329). -/
def State.evxDist (s : State) : Option Nat :=
  if s.c.prv = .m then
    let arr := bit s.c.evxsel 16
    let d := bits s.c.evxsel 15 13
    if d < (if arr then s.refx else s.reas) then some (distIdx arr d) else none
  else some s.c.dist

/-- EVXDAT (R329). -/
def State.evxdat (s : State) : Word :=
  let kind := bits s.c.evxsel 11 8
  match s.evxDist with
  | none => 0
  | some d =>
    if s.c.prv = .m || kind = 5 || s.ownsEvx d s.csrTenant then (s.district d).evx.elem kind (bits s.c.evxsel 4 0) else 0

/-- A write of EVXDAT (R329); the owner word is written at M only (R330). -/
def State.evxdatWrite (s : State) (v : Word) : State :=
  let kind := bits s.c.evxsel 11 8
  match s.evxDist with
  | none => s
  | some d =>
    if s.c.prv = .m || (kind ≠ 5 && s.ownsEvx d s.csrTenant) then
      let x := s.district d
      s.setDistrict d { x with evx := x.evx.setElem kind (bits s.c.evxsel 4 0) v s.timerQ }
    else s

/-! Channel start sources (R357). -/

/-- The tile and channel that CHSEL selects; none where CHCFG reads as zero. -/
def State.chanSel (s : State) : Option (Loc × R3) :=
  let ch : R3 := BitVec.ofNat 3 (bits s.c.chsel 2 0)
  if s.c.prv = .m then
    let t : Loc := ⟨bit s.c.chsel 16, bits s.c.chsel 15 13, bits s.c.chsel 12 10⟩
    if s.hasTile t then some (t, ch) else none
  else match s.c.loc with
    | none => none
    | some t => if s.c.mayChan ch then some (t, ch) else none

/-- CHCFG (R357). -/
def State.chcfg (s : State) : Word :=
  match s.chanSel with
  | none => 0
  | some (t, ch) => let x := (s.tile t).chans[ch.toNat]'ch.isLt
    w64 (b2n x.src * 2 ^ 63 + x.out.toNat)

/-- A write of CHCFG: SRC = 1 needs the district's Interchange (R357). -/
def State.chcfgWrite (s : State) (v : Word) : State :=
  match s.chanSel with
  | none => s
  | some (t, ch) =>
    let x := (s.tile t).chans[ch.toNat]'ch.isLt
    let src := bit v 63 && (s.firmware || s.ownsEvx (distIdx t.arr t.dist) s.c.tenant)
    s.setTile t { s.tile t with chans := (s.tile t).chans.set ch.toNat { x with src := src, out := BitVec.ofNat 4 (bits v 3 0) } ch.isLt }

/-! Field ports (R417, R418). -/

/-- The ring that FPSEL selects: four classes and the transmit ring of each port. -/
def ringSel (sel : Word) : Nat := b2n (bit sel 2) * 5 + (if bit sel 4 then 4 else bits sel 1 0)
/-- A ring. -/
def State.ring (s : State) (i : Nat) : Ring := s.rings.getD i {}
/-- The state with a ring changed. -/
def State.setRing (s : State) (i : Nat) (r : Ring) : State := { s with rings := s.rings.set i r }
/-- The reflex tile that word 0 of a ring names. -/
def ringTile (w : Word) : Loc := ⟨true, bits w 58 56, bits w 55 53⟩
/-- The offset of a slot of a ring. -/
def Ring.slotOff (r : Ring) (k : Nat) : Nat := (bits r.words[1] 21 11 + k) * 2048
/-- The number of slots. -/
def Ring.slots (r : Ring) : Nat := bits r.words[1] 10 4
/-- The ring lies in the tile's first 2 MiB (R418). -/
def Ring.inside (r : Ring) : Bool := r.slotOff r.slots ≤ 0x20_0000
/-- The header granule of a slot; none where the slot leaves the tile's locked SRAM. -/
def Ring.header (r : Ring) (k : Nat) : Option Nat :=
  let t := ringTile r.words[0]
  if r.slotOff k + 2048 ≤ tileSize t then some (tileKey t (r.slotOff k) / 32) else none

/-- The field port that FPSEL selects exists on the part (R7). -/
def State.hasPort (s : State) : Bool := bit s.board (6 + b2n (bit s.c.fpsel 2))

/-- Access to the selected ring, whose word 0 names a tile (R417). -/
def State.fpOwns (s : State) (w : Word) : Bool :=
  s.hasPort && (s.firmware || (s.tenant s.csrTenant).rfx.getLsbD (8 * bits w 58 56 + bits w 55 53))

/-- A full/empty bit set by a unit that changes neither data nor tag. -/
def State.markBit (s : State) (g : Nat) (b : Bool) : State :=
  let s := if (s.gran g).full = b then s else s.trigger g none
  s.setGran g { s.gran g with full := b }

/-- A ring starts or restarts: position and SEQ 0, every header granule empty (R418). -/
def State.startRing (s : State) (i : Nat) : State :=
  let r := s.ring i
  let s := s.setRing i { r with started := true, pos := 0, seq := 0 }
  if !s.hasTile (ringTile r.words[0]) then s
  else ((List.range r.slots).filterMap r.header).foldl (fun s g => s.markBit g false) s

/-- FPDAT (R417). -/
def State.fpdat (s : State) : Word :=
  let r := s.ring (ringSel s.c.fpsel)
  if !s.fpOwns r.words[0] then 0
  else if bit s.c.fpsel 3 then w64 (r.drops * 2 ^ 32 + r.words[1].toNat) else r.words[0]

/-- A write of FPDAT, ignored without the tile that the ring's word 0 names (R417, R418). -/
def State.fpdatWrite (s : State) (v : Word) : State :=
  let i := ringSel s.c.fpsel
  let r := s.ring i
  if !s.fpOwns r.words[0] then s
  else if bit s.c.fpsel 3 then
    let left := w64 r.drops &&& ~~~(w64 (bits v 63 32))
    let s := s.setRing i { r with words := r.words.set 1 (keep v 0x3F_FFF0), drops := left.toNat }
    if bit r.words[0] 63 then s.startRing i else s
  else
    let on := bit v 63
    let s := s.setRing i { r with words := r.words.set 0 (keep v 0x87E0_FFFF_FF00_0000), started := r.started && on }
    if on && !bit r.words[0] 63 then s.startRing i else s

/-! Tenants (R349, R352, R365, R196, R201). -/

/-- TLB entries that `p` picks are dropped in the tiles and districts picked (R356). -/
def State.dropTlb (s : State) (p : Nat × Nat × Nat × Nat → Bool) (dist : Nat → Bool) : State :=
  { s with
    tiles := s.tiles.mapIdx fun i t =>
      if dist (distIdx (Loc.ofIdx i).arr (Loc.ofIdx i).dist) then { t with tlb := t.tlb.filter fun e => !p e } else t
    districts := s.districts.mapIdx fun i d => if dist i then { d with tlb := d.tlb.filter fun e => !p e } else d }

/-- A write of PTBASE for a tenant (R352). -/
def State.ptbaseWrite (s : State) (ten : Nat) (v : Word) : State :=
  (s.setTenant ten { s.tenant ten with ptbase := keep v 0xF_FFFF_FFFF_F001 }).dropTlb (fun e => e.1 = ten) fun _ => true

/-- A reflex tile assigned to a tenant: swept when another tenant had it last, then its fill generation taken (R215, R365);
none while the counter waits. -/
def State.assignTile (s : State) (t : Loc) (ten : Nat) : Option State :=
  let s :=
    if (s.tile t).lastTenant.any (fun x => x ≠ ten) then
      (s.wipe (granRange t).1 (granRange t).2 fun _ => true).mapCtx fun c => if c.loc = some t then c.zeroRegs else c
    else s
  (s.takeGen t).map fun r =>
    (r.2.setTile t { r.2.tile t with fillGen := some r.1, lastTenant := some ten, sweptFrom := none }).recheck t

/-- A reflex tile's bit cleared: its fill generation goes with the last bit (R215). -/
def State.unassignTile (s : State) (t : Loc) : State :=
  if s.tenants.any fun x => x.rfx.getLsbD (8 * t.dist + t.tile) then s
  else (s.setTile t { s.tile t with fillGen := none }).recheck t

/-- A write of TENANT with WE = 1 (R349); none while a reflex tile's fill generation waits. -/
def State.tenantEntry (s : State) (v : Word) : Option State :=
  let ten := bits v 3 0
  let old := (s.tenant ten).rfx
  let rfx : BitVec 16 := BitVec.ofNat 16 (bits v 63 48)
  let s := { s with tid := ten }.setTenant ten
    { s.tenant ten with rfx := rfx, sqen := bit v 47, sqlast := bits v 46 37, sqfirst := bits v 36 27, escw := BitVec.ofNat 8 (bits v 23 16) }
  (List.range 16).foldl (fun (r : Option State) i =>
    let t : Loc := ⟨true, i / 8, i % 8⟩
    r.bind fun s =>
      if !s.hasTile t then some s
      else if rfx.getLsbD i && !old.getLsbD i then s.assignTile t ten
      else if !rfx.getLsbD i && old.getLsbD i then some (s.unassignTile t)
      else some s) (some s)

/-- The reflex tiles that a write of TENANT with WE = 1 gives to a tenant other than their last one (R365). -/
def State.sweptTiles (s : State) (v : Word) : List Loc :=
  let ten := bits v 3 0
  let rfx : BitVec 16 := BitVec.ofNat 16 (bits v 63 48)
  if !s.firmware || !bit v 26 then []
  else ((List.range 16).filter fun i => rfx.getLsbD i && !(s.tenant ten).rfx.getLsbD i).map (fun i => (⟨true, i / 8, i % 8⟩ : Loc))
    |>.filter fun t => s.hasTile t && (s.tile t).lastTenant.any fun x => x ≠ ten

/-- A write of TENANT waits, not interruptibly, for the 1,152 cycles of its tiles' sweeps; `s0` is the state before the instruction
(R365). -/
def waitSweeps (s0 : State) (v : Word) : M Unit := do
  let s ← get
  let ts := s.sweptTiles v
  let done := ts.all fun t => (s.tile t).sweptFrom.any fun c => c + 1152 ≤ s.cyc
  let mark (s : State) (t : Loc) : State := s.setTile t { s.tile t with sweptFrom := some ((s.tile t).sweptFrom.getD s.cyc) }
  if done then pure () else throw (.hold (ts.foldl mark { s0 with c := { s0.c with waitKind := .hard } }))

/-- The physical address of a DRAM-window address under a tenant's tables, without permissions. -/
def State.tenantPhys (s : State) (ten va : Nat) : Option Nat :=
  let pt := (s.tenant ten).ptbase
  let o := va - dramBase
  if !bit pt 0 then none
  else match s.walk (bits pt 51 12) (o / 4096) with
    | none => none
    | some r =>
      let pa := (ptePage r.2.2 + (o / 4096 - r.1)) * 4096 + o % 4096
      if s.dramBytes ≤ pa then none else some pa

/-- Entry r of a capability table as its 16 bytes give it (R201). -/
def capEntry (ten r : Nat) (bs : List Byte) : Option CapRegion :=
  let num (o n : Nat) : Nat := leNat ((bs.drop o).take n)
  let base := num 0 8
  let len := num 8 4
  let w := num 12 4
  if len = 0 || base % 32 ≠ 0 || w / 2 ^ 16 ≠ 0 || w / 2 ^ 8 % 128 ≠ 0 || base < dramBase || dramEnd < base + 32 * len then none
  else some { tenant := ten, index := r, base := base, len := len, holder := BitVec.ofNat 8 w, flags := BitVec.ofNat 8 (w / 2 ^ 15 * 128) }

/-- Two regions share a byte. -/
def CapRegion.overlaps (a b : CapRegion) : Bool := decide (a.base < b.base + 32 * b.len) && decide (b.base < a.base + 32 * a.len)

/-- The directory reads a tenant's table (R201). What cannot be translated is invalid. -/
def State.readCaps (s : State) (ten : Nat) : State :=
  let base := dramBase + (s.tenant ten).detmode.toNat % 2 ^ 46 / 4096 * 4096
  let entry (r : Nat) : Option CapRegion := (s.tenantPhys ten (base + 16 * r)).bind fun pa => capEntry ten r (Mem.bytes s.mem pa 16)
  let l := (List.range 256).foldl (fun (l : List CapRegion) r => match entry r with
    | none => l
    | some e => if l.any (fun x => x.overlaps e) then l else l ++ [e]) []
  { s with caps := s.caps.filter (fun c => c.tenant ≠ ten) ++ l }

/-- A write of DETMODE (R196, R201). -/
def State.detmodeWrite (s : State) (ten : Nat) (v : Word) : State :=
  let on := bit v 0 && !bit (s.tenant ten).detmode 0
  let s := s.setTenant ten { s.tenant ten with detmode := keep v 0xFFFF_FFFF_F001 }
  if on then s.readCaps ten else s

/-! Module registers. -/

/-- The injector that INJSEL names (R398). -/
def injKey (sel : Word) : Word := if bit sel 31 then w64 (2 ^ 31 + bits sel 25 23 * 2 ^ 23) else keep sel 0x1F_F000
/-- A selection that does not exist: the spare link without CAPS.SPARE, or a tile that the part lacks (R7, R398). -/
def State.injAbsent (s : State) : Bool :=
  if bit s.injsel 31 then !s.spare else !s.hasTile ⟨bit s.injsel 20, bits s.injsel 19 17, bits s.injsel 16 14⟩
/-- The selected injector. -/
def State.injector (s : State) : Injector := (s.injectors.find? fun x => x.sel = injKey s.injsel).getD { sel := injKey s.injsel }
/-- The state with an injector changed. -/
def State.setInjector (s : State) (x : Injector) : State := { s with injectors := s.injectors.filter (fun y => y.sel ≠ x.sel) ++ [x] }

/-- INJDAT (R398). -/
def State.injdat (s : State) : Word :=
  if s.injAbsent then 0 else s.injector.dat ||| w64 (b2n s.injector.armed * 2 ^ 60 + b2n s.injector.fired * 2 ^ 59)
/-- A write of INJDAT: ignored while armed (R398). -/
def State.injdatWrite (s : State) (v : Word) : State :=
  if s.injAbsent || s.injector.armed then s
  else s.setInjector { s.injector with dat := keep v 0xE000_FFFF_FFFF_FFFF, fired := s.injector.fired && !bit v 59 }

/-- OWNER (R373). -/
def State.ownerWord (s : State) : Word := w64 (s.own.toNat * 2 ^ 56 + s.succ.toNat * 2 ^ 48 + s.epoch.toNat * 2 ^ 32 + s.left.toNat)

/-- RESIGN's effect, and CLEAR's (R374). -/
def State.resign (s : State) : State := { s with own := 0, succ := 0, left := 0, leaseCyc := 0, epoch := s.epoch + 1 }

/-- CLEAR (R374). -/
def State.clearOwner (s : State) (epoch : BitVec 16) : State := if epoch = s.epoch then s.resign else s

/-- JRNLBASE (R401). -/
def State.jrnlWord (s : State) : Word := w64 (b2n s.jrnlMir * 2 ^ 63 + s.jrnlCkpt % 8192 * 2 ^ 32 + s.jrnlHead % 8192)
/-- KICKBASE (R402). -/
def State.kickWord (s : State) : Word := w64 (min s.fifo.length 512 * 2 ^ 32 + s.kickNext % 64)
/-- SEIZECFG's writable bits: TILES for the tiles present (R333). -/
def State.seizeMask (s : State) : Nat := 0x80F0_0000_0000_0000 + (2 ^ (min (8 * s.reas) 48) - 1)

/-- The contexts that DSIG's KICK signals (R438). -/
def State.kicked (s : State) (ten : Nat) (c : Ctx) : Bool :=
  c.kind = .task && !c.isDisp && !c.halted && s.launches.any fun l => l.num = c.launch && l.tenant = ten && l.root.isSome && l.lrec.lr

/-- DSIG's KICK (R438): what was signalled, and the state. -/
def State.dsigKick (s : State) (ten : Nat) : Nat × State :=
  let pick (q : Queued) : Bool := q.root.isSome && q.tenant = ten && q.lrec.lr
  let mark (q : Queued) : Queued := if pick q then { q with marked := true } else q
  let n := (s.ctxs.filter fun c => s.kicked ten c).length + (s.allQueued.filter pick).length
  let s' := s.raiseLine 4 fun c => s.kicked ten c
  (n, { s' with districts := s'.districts.map fun d => { d with queue := d.queue.map mark }
                arrayQ := s'.arrayQ.map fun l => l.map mark })

/-- HIT of a dispatch core written (R438). -/
def State.setHit (s : State) (core n : Nat) : State :=
  { s with disp := vset s.disp core { s.disp.toList.getD core {} with dsigHit := n } }

/-- A vector of a function's MSI-X table. -/
def State.msixVec (s : State) (fn vec : Nat) : MsixVec := (s.msixFns.getD fn {}).table.toList.getD vec {}
/-- A pending bit of a function set or cleared. -/
def State.setPending (s : State) (fn vec : Nat) (b : Bool) : State :=
  let f := s.msixFns.getD fn {}
  let m : BitVec 8 := BitVec.ofNat 8 (2 ^ vec)
  { s with msixFns := s.msixFns.set fn { f with pending := if b then f.pending ||| m else f.pending &&& ~~~m } }

/-- A vector of a tenant's function sent: a message, or while it is masked a pending bit (R389, R438; log entry 116). A module that
sends vector 1 drops ACTIVE (R405). -/
def State.sendMsix (s : State) (ten vec : Nat) : State :=
  let s := { s with active := s.active && vec ≠ 1 }
  if (s.msixVec ten vec).masked then s.setPending ten vec true else { s with msix := s.msix ++ [(ten, vec)] }

/-- The host writes a vector of a function's table; one that is pending and no longer masked is sent (R389, R408; log entry 116). -/
def State.msixWrite (s : State) (fn : Nat) (vec : R3) (v : MsixVec) : State :=
  let f := s.msixFns.getD fn {}
  let due := f.pending.getLsbD vec.toNat && !v.masked
  let s := { s with msixFns := s.msixFns.set fn { f with table := f.table.set vec.toNat v vec.isLt } }
  if due then { s.setPending fn vec.toNat false with msix := s.msix ++ [(fn, vec.toNat)] } else s

/-- A command written to DSIG by a dispatch core (R438). -/
def State.dsigWrite (s : State) (core : Nat) (v : Word) : State :=
  let ten := bits v 3 0
  if bits v 63 60 = 1 then (s.dsigKick ten).2.setHit core ((s.dsigKick ten).1 % 2 ^ 16)
  else if bits v 63 60 = 2 then (s.sendMsix ten (bits v 11 8 % 8)).setHit core 1
  else s.setHit core 0

/-- The dispatch core of the context. -/
def Ctx.dispCore (c : Ctx) : Nat :=
  match c.place with
  | .dispatch b => b2n b
  | .tile _ _ => 0

/-! Reading and writing. -/

/-- A register's field-map value (R371). -/
def State.csrRead (s : State) (r : CsrReg) : Word :=
  let c := s.c
  match r with
  | .status => c.status
  | .fctl => c.fctl
  | .fflags => w64 c.fflags.toNat
  | .fepol => w64 c.fepol.toNat
  | .festat => c.festat
  | .gen => w64 c.gen.toNat
  | .genrd => c.genrdWord
  | .genpol => w64 (b2n c.gentrap)
  | .pbase n => (c.desc n).base
  | .pspan n => w64 (c.desc n).span.toNat
  | .pstep n => w64 (c.desc n).step.toNat
  | .ptype n => w64 (c.desc n).ty.toNat
  | .defscope => w64 c.defscope.toNat
  | .esctx => w64 (b2n c.esEn * 2 ^ 31 + c.esWin.toNat * 2 ^ 8 + c.esPos.toNat)
  | .mfmt => c.mfmt
  | .mscla => c.mscla
  | .msclb => c.msclb
  | .mgeo0 => c.mgeo0
  | .mgeo1 => c.mgeo1
  | .msat => c.msat
  | .msclo => c.msclo
  | .sthr => w64 c.sthr.toNat
  | .slim => w64 c.slim.toNat
  | .vocabn => w64 c.vocabn.toNat
  | .vocabp => w64 c.vocabp.toNat
  | .qdim => w64 c.qdim.toNat
  | .qidx => w64 c.qidx.toNat
  | .qsrd => w64 c.qsrd.toNat
  | .vshare => w64 s.vshare
  | .rank => w64 (c.nrank % 2 ^ 16 * 2 ^ 16 + c.rank % 2 ^ 16)
  | .coord => c.coordWord
  | .cyc => w64 s.cyc
  | .timens => Sys2Proof.i64 s.timeNs
  | .ien => w64 (b2n c.gie * 2 ^ 63 + c.ien.toNat)
  | .ipend => w64 c.ipend.toNat
  | .tvec => c.tvec
  | .tcause => c.trapRegs.cause
  | .tpc => c.trapRegs.pc
  | .tval => c.trapRegs.val
  | .tstat => c.trapRegs.stat
  | .tscratch => c.tscratch
  | .erec0 => c.erec0
  | .erec1 => c.erec1
  | .erec2 => c.erec2
  | .caps => s.capsReg
  | .devid => s.devid
  | .rbudget => w64 (c.rbudget % 2 ^ 32)
  | .tenant => s.tenantWord s.csrTenant
  | .ptbase => (s.tenant s.csrTenant).ptbase
  | .quantum => w64 (s.tenant s.csrTenant).quantum
  | .detmode => (s.tenant s.csrTenant).detmode
  | .mixtrap => w64 (b2n (s.tenant s.csrTenant).mixtrap)
  | .evxsel => c.evxsel
  | .evxdat => s.evxdat
  | .esrsel => c.esrsel
  | .esrdat => s.esrdat
  | .sqsel => c.sqsel
  | .sqdat => s.sqdat
  | .chsel => c.chsel
  | .chcfg => s.chcfg
  | .fpsel => c.fpsel
  | .fpdat => s.fpdat
  | .chkcfg => s.chkcfg
  | .injsel => s.injsel
  | .injdat => s.injdat
  | .owner => s.ownerWord
  | .jrnlbase => s.jrnlWord
  | .kickbase => s.kickWord
  | .seizecfg => s.seizecfg
  | .dsig => w64 (s.disp.toList.getD c.dispCore {}).dsigHit

/-- A pointer descriptor changed. -/
def Ctx.updDesc (c : Ctx) (n : R3) (f : PDesc → PDesc) : Ctx := { c with pd := c.pd.set n.toNat (f (c.desc n)) n.isLt }

/-- Bytes of MGEO0, a zero stored as 1 (R36). -/
def mgeo0Word (v : Word) : Word :=
  w64 (max 1 (bits v 23 16) * 65536 + max 1 (bits v 15 8) * 256 + max 1 (bits v 7 0))

/-- TSTAT as a write stores it: a PRV above the writer's own becomes the writer's own (R25, R42). -/
def tstatWrite (prv : Priv) (v : Word) : Word :=
  let p := bits v 9 8
  let p := if (p = 1 && prv = .u) || (p = 3 && prv ≠ .m) then prv.code else p
  keep (w64 (v.toNat / 2 ^ 10 * 2 ^ 10 + p * 2 ^ 8 + bits v 7 0)) 0xF3FF_FFFF_FFFF_FFFF

/-- A write of a context register, its RW fields stored (R30 to R42). -/
def Ctx.csrWrite (c : Ctx) (r : CsrReg) (v : Word) : Ctx :=
  match r with
  | .status => c.setFlags4 v
  | .fctl => { c with fctl := fctlWrite c.fctl v }
  | .fflags => { c with fflags := BitVec.ofNat 6 v.toNat }
  | .fepol => { c with fepol := BitVec.ofNat 17 v.toNat }
  | .genpol => { c with gentrap := bit v 0 }
  | .pbase n => c.updDesc n fun d => { d with base := v }
  | .pspan n => c.updDesc n fun d => { d with span := spanWrite (BitVec.ofNat 32 v.toNat) }
  | .pstep n => c.updDesc n fun d => { d with step := BitVec.ofNat 32 v.toNat }
  | .ptype n => c.updDesc n fun d => { d with ty := BitVec.ofNat 6 v.toNat }
  | .defscope => { c with defscope := if bits v 2 0 = 7 then c.defscope else BitVec.ofNat 3 v.toNat }
  | .mfmt => { c with mfmt := keep v 0x7_3F3F }
  | .mscla => { c with mscla := keep v 0x80FF }
  | .msclb => { c with msclb := keep v 0x80FF }
  | .mgeo0 => { c with mgeo0 := mgeo0Word v }
  | .mgeo1 => { c with mgeo1 := keep v 0xFF_FFFF }
  | .msat => { c with msat := keep v 7 }
  | .msclo => { c with msclo := keep v 0xFF }
  | .sthr => { c with sthr := BitVec.ofNat 32 v.toNat }
  | .slim => { c with slim := if bits v 5 0 = 0 then 1 else BitVec.ofNat 6 v.toNat }
  | .vocabn => { c with vocabn := BitVec.ofNat 32 v.toNat }
  | .vocabp => { c with vocabp := BitVec.ofNat 32 v.toNat }
  | .qdim => { c with qdim := BitVec.ofNat 6 v.toNat }
  | .qidx => { c with qidx := BitVec.ofNat 32 v.toNat }
  | .qsrd => { c with qsrd := BitVec.ofNat 6 v.toNat }
  | .ien => { c with gie := bit v 63, ien := BitVec.ofNat 5 v.toNat, inHandler := c.inHandler && !bit v 63 }
  | .ipend => { c with ipend := (c.ipend &&& ~~~(BitVec.ofNat 5 v.toNat) &&& 0x1E) ||| BitVec.ofNat 5 (bits v 0 0) }
  | .tvec => { c with tvec := w64 (v.toNat / 2 * 2) }
  | .tpc => c.setTrapRegs { c.trapRegs with pc := w64 (v.toNat / 2 * 2) }
  | .tstat => c.setTrapRegs { c.trapRegs with stat := tstatWrite c.prv v }
  | .tscratch => { c with tscratch := v }
  | .evxsel => { c with evxsel := keep v 0x1_EF1F }
  | .esrsel => { c with esrsel := keep v 0x7F }
  | .sqsel => { c with sqsel := keep v 0x1_03FF }
  | .chsel => { c with chsel := keep v 0x1_FC07 }
  | .fpsel => { c with fpsel := keep v 0x1F }
  | _ => c

/-- A write of a register under its Access codes (R371); none while it waits. -/
def State.csrWrite (s : State) (r : CsrReg) (v : Word) : Option State :=
  let ten := s.csrTenant
  match r with
  | .vshare => some (s.setVshare (bits v 3 0))
  | .tenant => if !s.firmware then some s else if bit v 26 then s.tenantEntry v else some { s with tid := bits v 3 0 }
  | .ptbase => some (if s.firmware then s.ptbaseWrite ten v else s)
  | .quantum => some (s.setTenant ten { s.tenant ten with quantum := max 64 (bits v 31 0) })
  | .detmode => some (s.detmodeWrite ten v)
  | .mixtrap => some (s.setTenant ten { s.tenant ten with mixtrap := bit v 0 })
  | .evxdat => some (s.evxdatWrite v)
  | .esrdat => some (s.esrdatWrite v)
  | .sqdat => some (s.sqdatWrite v)
  | .chcfg => some (s.chcfgWrite v)
  | .fpdat => some (s.fpdatWrite v)
  | .chkcfg => some { s with chkcfg := keep v 0xFFFF_0000_0003 }
  | .injsel => some { s with injsel := keep v 0x879F_F000 }
  | .injdat => some (s.injdatWrite v)
  | .owner => some (if s.firmware && bits v 63 60 = 6 then s.clearOwner (BitVec.ofNat 16 (bits v 47 32)) else s)
  | .jrnlbase => some { s with jrnlMir := bit v 63, jrnlCkpt := bits v 44 32 }
  | .kickbase => some { s with kickNext := bits v 5 0 }
  | .seizecfg => some { s with seizecfg := keep v s.seizeMask }
  | .dsig => some (s.dsigWrite s.c.dispCore v)
  | r => some { s with c := s.c.csrWrite r v }

/-- The W1C fields of a register as it is selected (R371). -/
def State.w1c (s : State) (r : CsrReg) : Word :=
  match r with
  | .ipend => 0x1E
  | .evxdat => if bits s.c.evxsel 11 8 = 3 then w64 (2 ^ 39) else 0
  | .injdat => w64 (2 ^ 59)
  | .fpdat => if bit s.c.fpsel 3 then 0xFFFF_FFFF_0000_0000 else 0
  | _ => 0

/-! The instructions (R370, R371). -/

/-- Which CSR instruction. -/
inductive CsrOp where
  | r
  | w
  | s
  | c
  deriving DecidableEq, Repr

/-- The word that the write writes: ACC, or R371's combination, with the W1C fields apart. -/
def CsrOp.value (op : CsrOp) (old a w1c : Word) : Word :=
  match op with
  | .r | .w => a
  | .s => (old ||| a) &&& ~~~w1c
  | .c => (old &&& ~~~a &&& ~~~w1c) ||| (a &&& w1c)

/-- The minimum level of a number (R25): the code of PRV. -/
def csrLevel (n : Nat) : Nat := match n / 256 with
  | 0 => 0
  | 1 => 1
  | _ => 3

/-- The waits of a CSR access (R371): FFLAGS (R110), STHR (R187), pending flags of STATUS (R114). -/
def csrWaits (r : CsrReg) : M Unit := do
  let s ← get
  let sampling := s.c.vq.any (fun e => e.op = .msum || e.op = .tsrch || e.op = .tmass || e.op = .tfind)
  match r with
  | .fflags => waitIf (s.c.vq ≠ [] || s.c.mq ≠ [])
  | .sthr => waitIf sampling
  | .status => waitIf s.c.pend.some'
  | _ => pure ()

/-- The register that an access names, after R28's checks. WORD of a number that PFX.I words extend names the instruction word (DESIGN CHOICE,
log entry 126: R49 gives it one word). -/
def csrTarget (self : Instr) (p : Pre) (f : BitVec 9) : M CsrReg := do
  let s ← get
  let n := widenU f p.imm
  let illegal (why : Nat) : Word := w64 (why * 2 ^ 24 + (p.len true - 1) * 2 ^ 16 + n % 2 ^ 16)
  raiseIf (n == 0x207 && !s.c.isDisp) cILLEGAL (illegal 6)
  match CsrReg.ofNum n with
  | none => raise cILLEGAL (illegal 8)
  | some r => do
    raiseIf (decide (s.c.prv.code < csrLevel n)) cPRIV (w64 (n % 2 ^ 12 * 2 ^ 16 + wordOf self))
    pure r

/-- A CSR instruction (R371). -/
def csrOp (op : CsrOp) (self : Instr) (p : Pre) (f : BitVec 9) : M Unit := do
  let s0 ← get
  let r ← csrTarget self p f
  let a ← if op = .r then pure 0 else readAcc
  csrWaits r
  let s ← get
  let old := s.csrRead r
  if op ≠ .w then writeAcc old
  if op ≠ .r then do
    let s ← get
    let v := op.value old a (s.w1c r)
    if r = .tenant then waitSweeps s0 v
    match s.csrWrite r v with
    | none => throw (.wait none .hard)
    | some s' => set s'

/-- CSRR (R371). -/
def execCsrr (p : Pre) (n : BitVec 9) (s : State) : Out := once (p.len true) (csrOp .r (.csrr p n) p n) s
/-- CSRW (R371). -/
def execCsrw (p : Pre) (n : BitVec 9) (s : State) : Out := once (p.len true) (csrOp .w (.csrw p n) p n) s
/-- CSRS (R371). -/
def execCsrs (p : Pre) (n : BitVec 9) (s : State) : Out := once (p.len true) (csrOp .s (.csrs p n) p n) s
/-- CSRC (R371). -/
def execCsrc (p : Pre) (n : BitVec 9) (s : State) : Out := once (p.len true) (csrOp .c (.csrc p n) p n) s

/-! The rows of register writes by whoever makes them. -/

/-- A TENANT write with WE = 0 (R349). -/
def evTenantSelect (tid : BitVec 4) (s : State) : Option State := some { s with tid := tid.toNat }
/-- A TENANT write with WE = 1 (R349). -/
def evTenantEntryWrite (v : Word) (s : State) : Option State := s.tenantEntry v
/-- A PTBASE write (R352). -/
def evPtbaseWrite (ten : BitVec 4) (v : Word) (s : State) : Option State := some (s.ptbaseWrite ten.toNat v)
/-- A change of a window's CTL.TENANT (R349). -/
def evEscrowTenantChange (w : R3) (ten : BitVec 4) (s : State) : Option State :=
  if (s.win w.toNat).tenant = ten.toNat then none else some (s.windowTenant w.toNat ten.toNat)
/-- VALID written from 0 to 1 for a tenant (R268). -/
def evSlotValidSet (n : BitVec 10) (ten : BitVec 4) (v : Word) (s : State) : Option State :=
  if (s.slot n.toNat).valid then none else some (s.validate n.toNat ten.toNat v)
/-- VALID written from 1 to 0 (R268). -/
def evSlotValidClear (n : BitVec 10) (s : State) : Option State :=
  if (s.slot n.toNat).valid then some (s.invalidate n.toNat) else none
/-- EN of a tenant's DETMODE is written from 0 to 1, at which the directory reads its capability table (R201). -/
def evCapabilityTableRead (ten : BitVec 4) (s : State) : Option State :=
  let w := (s.tenant ten.toNat).detmode
  if bit w 0 then none else some (s.detmodeWrite ten.toNat (w ||| 1))
/-- A ring of a field port starts (R418). -/
def evFieldRingStart (port : Bool) (ring : R3) (s : State) : Option State :=
  if ring.toNat ≤ 4 && bit (s.ring (b2n port * 5 + ring.toNat)).words[0] 63 then some (s.startRing (b2n port * 5 + ring.toNat)) else none
/-- DSIG's KICK by a dispatch core (R438). -/
def evDsigKick (core : Bool) (ten : BitVec 4) (s : State) : Option State := some (s.dsigWrite (b2n core) (w64 (2 ^ 60 + ten.toNat)))
/-- DSIG's MSIX by a dispatch core (R438). -/
def evDsigMsix (core : Bool) (ten : BitVec 4) (vec : R3) (s : State) : Option State :=
  some (s.dsigWrite (b2n core) (w64 (2 ^ 61 + vec.toNat * 256 + ten.toNat)))
/-- CLEAR by the dispatch firmware (R374). -/
def evClearOwner (epoch : BitVec 16) (s : State) : Option State := some (s.clearOwner epoch)

end Sys2Proof.Machine
end

