-- ==== Sys2Proof/Machine/Launch.lean ====
section
/-! DEFINITION. LAUNCH (R325, R403), RANKQ (R326), YIELD (R312). -/

namespace Sys2Proof.Machine

/-- The context holds the launch right (R294). -/
def Ctx.mayLaunch (c : Ctx) : Bool := c.prv ≠ .u || c.lr

/-- The address of the record, checked (R325 steps 1 and 2); a dispatch core's record may lie in its local or DRAM window too. -/
def launchAddr (n : R3) : M Word := do
  let s ← get
  let ea ← baseAddr (n + s.c.stagger)
  raiseIf (ea.toNat % 64 != 0) cALIGN ea
  let own := if s.c.isDisp then 0x20_0080 else localSize (s.c.issuer 0)
  raiseIf (!(decide (ea.toNat < own) || (decide (dramBase ≤ ea.toNat) && decide (ea.toNat < dramEnd)))) cACCESS ea
  pure ea

/-- The physical address of a root launch's record, kept for its completion entry (R402). -/
def recordPa (s : State) (ea : Word) : Word :=
  match s.resolve (s.c.issuer s.c.defscope) ea.toNat .read with
  | .ok r => if r.dram then w64 r.key else ea
  | .error _ => ea

/-- The record is the registered graph-control record of the tenant that the dispatch firmware has selected (R412). -/
def State.isGraph (s : State) (ea : Word) : Bool :=
  s.c.isDisp && decide (dramBase ≤ ea.toNat) && (s.tenant s.tid).graph = some (w64 (ea.toNat - dramBase))

/-- LAUNCH from the record's address on (R325 steps 2 to 5). The firmware launches a registered graph-control record at priority 6 with
LR = 1, whatever it holds (R293, R412). -/
def launchRecord (n : R3) : M Unit := do
  let ea ← launchAddr n
  let s ← get
  let bs ← loadGranules (s.c.issuer s.c.defscope) ea 2
  let r := if s.isGraph ea then { parseLaunch bs with prio := 6, lr := true } else parseLaunch bs
  match badLaunch s bs r s.c.prv s.c.mayLaunch with
  | some (why, v) => raise cACCESS (w64 (why * 2 ^ 56 + v % 2 ^ 56))
  | none =>
    match seedOps r.seedv r.seedops s.c.seeds with
    | .error st => raise cSEEDSTK (seedVal st.length 6)
    | .ok st => do
      waitIf (decide (64 ≤ (s.queueOf r).length))
      releaseOwn
      let s ← get
      let tenant := if s.c.isDisp then s.tid else s.c.tenant
      set ({ s with next := s.next + 1 }.enqueue
        { num := s.next, lrec := r, tenant := tenant, seeds := st, enq := s.cyc
          root := if s.c.isDisp then some (recordPa s ea) else none })

/-- The last 256 action tags, with one more (R403). -/
def noteTag (l : List Word) (tag : Word) : List Word := (l ++ [tag]).drop (l.length + 1 - 256)

/-- LAUNCH on a dispatch core: the action tag (R403). -/
def launchTagged (n : R3) : M Unit := do
  let s ← get
  let _ ← readP (n + s.c.stagger)
  let tag ← readAcc
  if tag ≠ 0 && s.launchTags.contains tag then pure ()
  else do
    launchRecord n
    if tag ≠ 0 then modify fun s => { s with launchTags := noteTag s.launchTags tag }

/-- LAUNCH (R325). -/
def execLaunch (n : R3) (s : State) : Out := once 2 (if s.c.isDisp then launchTagged n else launchRecord n) s

/-- COORD (R39). -/
def Ctx.coord (c : Ctx) : Nat :=
  match c.place with
  | .dispatch _ => 0
  | .tile t ic => c.stage % 65536 * 2 ^ 32 + (coreCode t ic).toNat * 32

/-- RANKQ.SELF (R326). -/
def rankqSelfOp : M Unit := do
  let s ← get
  writeAcc (w64 (s.c.rank % 65536 * 2 ^ 48 + s.c.coord % 2 ^ 48))

/-- The answer of RANKQ.COORD (R326). -/
def rankCoord (s : State) (r : Nat) : Word :=
  if s.c.nrank ≤ r then allOnes
  else match (s.launchOf s.c.launch).bind fun l => l.ranks[r]? with
    | none => allOnes
    | some e => w64 (b2n e.transit * 2 ^ 63 + (coreCode e.tile false).toNat / 2 * 64)

/-- A result that fills ACC after the instruction retires (R21). -/
def answerAcc (v : Word) : M Unit := do
  emptyAcc
  addJob (.fill v {} 0)

/-- RANKQ.COORD (R326). -/
def rankqCoordOp : M Unit := do
  let a ← readAcc
  let s ← get
  answerAcc (rankCoord s (a.toNat % 65536))

/-- RANKQ.LOAD (R326). -/
def rankqLoadOp : M Unit := do
  let s ← get
  answerAcc (match s.c.loc with
    | none => 0
    | some t => s.dload t.arr t.dist)

/-- RANKQ.SELF (R326). -/
def execRankqSelf (s : State) : Out := once 2 rankqSelfOp s
/-- RANKQ.COORD (R326). -/
def execRankqCoord (s : State) : Out := once 2 rankqCoordOp s
/-- RANKQ.LOAD (R326). -/
def execRankqLoad (s : State) : Out := once 2 rankqLoadOp s

/-- YIELD (R312): it completes, then the context parks when another of its core role is parked. -/
def execYield (s : State) : Out := .next (retire 1 s).yieldCtx

end Sys2Proof.Machine
end

