-- ==== Sys2Proof/Machine/Determinism.lean ====
section
/-! DEFINITION. The task queues of a district: DQREQ (R198, R199), its service on arrival and by quanta (R200); writer
capabilities: ENDORSE and its handover (R201 to R203). -/

namespace Sys2Proof.Machine

/-! Task queues. -/

/-- A launch's queue in a district. -/
def State.taskQueue (s : State) (d launch : Nat) : Option TaskQueue := (s.district d).dq.find? fun q => q.launch = launch
/-- The state with a launch's queue changed. -/
def State.setTaskQueue (s : State) (d : Nat) (q : TaskQueue) : State :=
  s.setDistrict d { s.district d with dq := (s.district d).dq.map fun x => if x.launch = q.launch then q else x }

/-- The context is of a participant of a launch's queue in a district: of a core of one of its tile tasks there (R198). -/
def Ctx.participant (c : Ctx) (d launch : Nat) : Bool := c.kind = .task && !c.isDisp && c.launch = launch && c.dist = d

/-- The quantum in which a participant is present, none while it is absent (R200): halted, or in a wait that makes it absent. One
whose BARW of the whole group has seen its phase flip is present again, though it has not yet run. -/
def State.presentIn (s : State) (c : Ctx) : Option Nat :=
  if c.halted then none
  else if !c.stalled then some (c.retired / c.quantum)
  else match c.waitKind with
    | .absent => none
    | .barw =>
      let x := s.barrier c.dist (bits c.acc.val 4 0)
      if c.wres && x.phase != c.wph && s.fullGroup c x then some (x.lastQuantum + 1) else none
    | _ => some (c.retired / c.quantum)

/-- The contexts, those of pre-empted tasks too (R197, R345). -/
def State.strandCtxs (s : State) : List Ctx := s.ctxs ++ (s.saved.filter fun v => v.taskRec.isSome).flatMap fun v => v.ctxs

/-- Of the contexts of one core, the one that has its count: the last that ran there. -/
def Ctx.speaksFor (c : Ctx) (l : List Ctx) : Bool :=
  let n (x : Ctx) : Nat := 2 * x.retired + b2n (x.role = .active)
  l.all fun x => !x.sameCore c || x.halted || decide (n x < n c) || (n x == n c && decide (c.uid ≤ x.uid))

/-- The present participants' quanta, one for each core (R198, R200). -/
def State.quanta (s : State) (d launch : Nat) : List Nat :=
  (s.strandCtxs.filter fun c => c.participant d launch && c.speaksFor s.strandCtxs).filterMap s.presentIn

/-- The queue of the moving context, created by the first DQREQ of its launch in the district; a ninth traps (R198). -/
def ownQueue : M Unit := do
  let s ← get
  let d := s.c.dist
  if (s.taskQueue d s.c.launch).isNone then do
    raiseIf (decide (8 ≤ (s.district d).dq.length)) cACCESS 0x31
    let q : TaskQueue := { launch := s.c.launch, closed := (minOf (s.quanta d s.c.launch)).getD 0 }
    set (s.setDistrict d { s.district d with dq := (s.district d).dq ++ [q] })

/-- DQREQ (R199): the request belongs to the quantum of its own retirement (R200). -/
def dqreqOp (op : Nat) : M Unit := do
  let a ← readAcc
  ownQueue
  emptyAcc
  modify State.rejoin
  let s ← get
  addJob (.dqreq op a (if s.c.det then s.c.retired / s.c.quantum else 0))

/-- A request served (R199): the queue and ACC. -/
def TaskQueue.serve (q : TaskQueue) (op : Nat) (v : Word) : TaskQueue × Word :=
  match op with
  | 0 => if 256 ≤ q.entries.length then (q, allOnes) else ({ q with entries := q.entries ++ [v] }, w64 (q.entries.length + 1))
  | 1 => match q.entries with
    | [] => (q, allOnes)
    | x :: xs => ({ q with entries := xs }, x)
  | _ => (q, w64 q.entries.length)

/-- A request of a context: the job, its op, value and quantum. -/
def Ctx.request (c : Ctx) : Option (Job × Nat × Word × Nat) :=
  c.jobs.findSome? fun j => match j with
    | .dqreq op v q => some (j, op, v, q)
    | _ => none

/-- A context's request served at its district. -/
def State.serveReq (s : State) (uid : Nat) : State :=
  match s.ctxOf uid with
  | none => s
  | some c => match c.request, s.taskQueue c.dist c.launch with
    | some (j, op, v, _), some q =>
      let r := q.serve op v
      (s.setTaskQueue c.dist r.1).updCtx uid fun c => { c with acc := ⟨r.2, true, c.gen⟩, jobs := c.jobs.erase j }
    | _, _ => s

/-- DQREQ_SERVE (R199): of the contexts without deterministic mode whose request is on its way, the one that State.pick names. -/
def evDqreqServe (s : State) : Option State :=
  ((s.ctxs.filter fun c => !c.det && c.request.isSome)[s.pick]?).map fun c => s.serveReq c.uid

/-- The first participant's requests are served before the second's (R200). -/
def logicalBefore (a b : Ctx) : Bool := decide (a.rank < b.rank) || (a.rank == b.rank && !a.isIc && b.isIc)

/-- Contexts in logical-core order. -/
def insertLogical (c : Ctx) : List Ctx → List Ctx
  | [] => [c]
  | x :: xs => if logicalBefore c x then c :: x :: xs else x :: insertLogical c xs

/-- The task queues of the module under deterministic mode: district and launch. -/
def State.detQueues (s : State) : List (Nat × TaskQueue) :=
  (List.range 8).flatMap fun d => ((s.district d).dq.filter fun q => (s.launchOf q.launch).any fun l => l.det).map fun q => (d, q)

/-- The quantum of a queue can close: every present participant has ended it (R200). -/
def State.closable (s : State) (d : Nat) (q : TaskQueue) (reqs : List Ctx) : Bool :=
  let l := s.quanta d q.launch
  l.all (fun x => decide (q.closed < x)) && (l ≠ [] || reqs ≠ [])

/-- QUANTUM_CLOSE (R200) of the queue that State.pick names. -/
def evQuantumClose (s : State) : Option State :=
  match s.detQueues[s.pick]? with
  | none => none
  | some (d, q) =>
    let reqs := s.ctxs.filter fun c => c.det && c.dist = d && c.launch = q.launch && c.request.any fun r => decide (r.2.2.2 ≤ q.closed)
    if !s.closable d q reqs then none
    else
      let s := (reqs.foldl (fun l c => insertLogical c l) []).foldl (fun s c => s.serveReq c.uid) s
      (s.taskQueue d q.launch).map fun x => s.setTaskQueue d { x with closed := x.closed + 1 }

/-- DQREQ.PUSH (R199). -/
def execDqreqPush (s : State) : Out := once 2 (dqreqOp 0) s
/-- DQREQ.POP (R199). -/
def execDqreqPop (s : State) : Out := once 2 (dqreqOp 1) s
/-- DQREQ.CNT (R199). -/
def execDqreqCnt (s : State) : Out := once 2 (dqreqOp 2) s

/-! Capabilities (R201, R203). -/

/-- A tenant's valid region of a number. -/
def State.region (s : State) (ten r : Nat) : Option CapRegion := s.caps.find? fun c => c.tenant = ten && c.index = r

/-- A record's range meets a region. -/
def CapRegion.meets (c : CapRegion) (sh : Shape) : Bool :=
  !sh.strm && decide (sh.range.1 < c.base + 32 * c.len) && decide ((c.base : Int) ≤ sh.range.2)

/-- Vector, matrix and engine writes of the context into the region are not all performed (R203). -/
def State.writesInto (s : State) (c : Ctx) (r : CapRegion) : Bool :=
  c.vq.any (fun e => e.shapes.any r.meets) || c.mq.any (fun e => e.moves.any r.meets) ||
    s.cmds.any (fun k => k.iss.uid = c.uid && r.meets k.d) || s.colls.any fun k => k.iss.uid = c.uid && r.meets k.d

/-- The holder of a region changed in the directory. -/
def State.setHolder (s : State) (r : CapRegion) (f : CapRegion → CapRegion) : State :=
  { s with caps := s.caps.map fun c => if c.tenant = r.tenant && c.index = r.index then f c else c }

/-- The holder written into the table in memory (R201). -/
def State.tableHolder (s : State) (r : CapRegion) (h : BitVec 8) : State :=
  let va := dramBase + (s.tenant r.tenant).detmode.toNat % 2 ^ 46 / 4096 * 4096 + 16 * r.index + 12
  match s.tenantPhys r.tenant va with
  | none => s
  | some pa => s.put {} { key := pa, dram := true } none [h]

/-- ENDORSE (R203). -/
def endorseOp : M Unit := do
  let a ← readAcc
  let s ← get
  let n := bits a 7 0
  match s.region s.c.tenant n with
  | none => raise cCAPFAULT (w64 n)
  | some r => do
    raiseIf (bit r.flags 7 || some r.holder ≠ s.c.place.code) cCAPFAULT (w64 n)
    raiseIf (decide (s.c.nrank ≤ bits a 31 16)) cACCESS a
    match (s.launchOf s.c.launch).bind fun l => l.ranks[bits a 31 16]? with
    | none => raise cACCESS a
    | some e => do
      waitIf (s.writesInto s.c r)
      releaseOwn
      let h := coreCode e.tile (bit a 8)
      if h = r.holder then pure ()
      else modify fun s => (s.setHolder r fun c => { c with holder := h, moving := some h }).tableHolder r h

/-- ENDORSE (R203). -/
def execEndorse (s : State) : Out := once 2 endorseOp s

/-- HANDOVER_ARRIVAL (R203). -/
def evHandoverArrival (ten : BitVec 4) (region : BitVec 8) (s : State) : Option State :=
  match s.region ten.toNat region.toNat with
  | none => none
  | some r => if r.moving.isSome then some (s.setHolder r fun c => { c with moving := none }) else none

end Sys2Proof.Machine
end

