-- ==== Sys2Proof/Machine/Engine.lean ====
section
/-! DEFINITION. The copy engine (R221 to R226, R241 to R243) and its commands CPY, CPYM, GATH and COLL (R258 to R266). -/

namespace Sys2Proof

/-- The addresses whose bytes an element of a record makes count: an lns6 element counts with its whole group (R224). -/
def Machine.Shape.cells (sh : Machine.Shape) (j : Machine.Ix) : List Nat :=
  if sh.ty = .lns6 then (List.range 3).map fun k => (sh.addr j).toNat + k else sh.bytesOf j

end Sys2Proof

namespace Sys2Proof.Machine

/-! What a command writes, and in what order (R222, R224). -/

/-- A list with each value once, at its last place. -/
def lastPlaces (l : List Nat) : List Nat := l.reverse.eraseDups.reverse

/-- A list without the elements that repeat the one before them. -/
def squash : List Nat → List Nat
  | a :: b :: r => if a = b then squash (b :: r) else a :: squash (b :: r)
  | l => l

/-- The 32-byte lines of a destination in the order in which their last element is written. -/
def Shape.lines (sh : Shape) : List Nat := lastPlaces (squash (sh.ixs.flatMap fun j => (sh.cells j).map fun a => a / 32))

/-- The destination bytes of one destination, each once. -/
def Shape.destBytes (sh : Shape) : List Nat := (sh.ixs.flatMap sh.cells).eraseDups

/-- The bytes of a line that one destination has, each once. -/
def Shape.lineBytes (sh : Shape) (l : Nat) : List Nat := ((sh.ixs.flatMap sh.cells).filter fun a => a / 32 = l).eraseDups

/-- An element has a byte in one of the lines. -/
def Shape.inLines (sh : Shape) (ls : List Nat) (j : Ix) : Bool := (sh.cells j).any fun a => ls.contains (a / 32)

/-- B of R224: the bytes of one destination. -/
def Shape.promised (sh : Shape) : Nat := if sh.strm then sh.ty.streamBytes sh.count else (sh.lines.map fun l => (sh.lineBytes l).length).sum

/-- The number of fills that a command makes: lines, or elements of a stream. -/
def Cmd.fills (k : Cmd) : Nat := if k.dests = [] then 0 else if k.d.strm then k.d.count else k.d.lines.length

/-- The lines that are not yet filled. -/
def Cmd.left (k : Cmd) : List Nat := k.d.lines.drop k.filled

/-- The elements not yet landed, by ordinal. -/
def Cmd.unlanded (k : Cmd) : List Nat :=
  let ls := k.left
  (List.range k.d.count).filter fun n => k.d.inLines ls (k.d.ix n)

/-! Promises (R224). -/

/-- The rate of a record's kind, in bytes per cycle. -/
def State.rateOf (s : State) (i : Issuer) (va : Nat) : Nat :=
  if va < rankBase then 64
  else if dramBase ≤ va then 16
  else
    let r := (va - rankBase) / 2 ^ 21
    match (s.launchOf i.launch).bind fun l => l.ranks[r]? with
    | some e =>
      if i.loc = some e.tile then 64
      else if i.loc.any fun t => t.arr = e.tile.arr && t.dist = e.tile.dist then 32 else 16
    | none => 16

/-- The rate of a command: the smallest of its records' (R224, R261). -/
def State.rate (s : State) (k : Cmd) : Nat :=
  let src := if k.a.strm then [] else [s.rateOf k.iss k.a.base.toNat]
  let dst := if k.d.strm then [] else k.dests.map fun o => s.rateOf k.iss (k.d.base.toNat + o * 2 ^ 21)
  (src ++ dst).foldl min 64

/-- P of a command issued to a channel (R224). -/
def Chan.promise (c : Chan) (cyc span : Nat) : Option Nat :=
  if c.src then none
  else match c.shadow.orElse fun _ => c.active with
    | none => some (cyc + span)
    | some a => a.promise.map fun p => max cyc p + span

/-- P as ACC receives it. -/
def promiseWord (p : Option Nat) : Word := w64 (p.getD (2 ^ 64 - 1))

/-- The channel's next command becomes active, its start source sampled (R222, R223). -/
def Chan.activate (c : Chan) (cyc : Nat) : Chan :=
  match c.shadow with
  | none => { c with active := none }
  | some k =>
    let c := { c with active := some { k with wait := if c.src then some c.out.toNat else none }, shadow := none }
    if c.src then c else c.begin cyc

/-- A command placed in a channel that has room. -/
def Chan.place (c : Chan) (k : Cmd) (cyc : Nat) : Chan :=
  if c.active.isSome then { c with shadow := some k }
  else { c with shadow := some k }.activate cyc

/-! Ownership (R222, R241). -/

/-- The destination addresses of a command, one for each line. -/
def Cmd.lineAddrs (k : Cmd) : List Nat :=
  if k.d.strm then [] else k.dests.flatMap fun o => k.d.lines.map fun l => l * 32 + o * 2 ^ 21

/-- The granules and lines that a command owns: those that its addresses lead to and that escrow does not take. -/
def State.ownedBy (s : State) (i : Issuer) (l : List Nat) : List Nat :=
  (l.filterMap fun a => if (s.redirects i a).isSome then none else match s.resolve i a .write with
    | .ok r => some (r.key / 32)
    | .error _ => none).eraseDups

/-- The fill generation of a granule that the issuer reaches only through a fill rank (R215). -/
def State.fillFor (s : State) (i : Issuer) (g : Nat) : Option Gen :=
  let t := Loc.ofIdx ((g * 32 - 2 ^ 60) / 2 ^ 24)
  let own := i.loc = some t || (s.launchOf i.launch).any fun l => l.ranks.any fun e => e.tile = t
  if own then none else (s.tile t).fillGen

/-- Granules of the scratchpads marked empty at an issue (R222). -/
def State.markEmpty (s : State) (i : Issuer) (gs : List Nat) : State :=
  gs.foldl (fun s g => if g * 32 < 2 ^ 60 then s
    else s.setFull g (s.tagFor i { key := g * 32, gran := true, fill := s.fillFor i g }) none false) s

/-- The place of a byte that an engine writes: earlier owners and earlier leases are waited for (R169, R241; log entry 112). -/
def State.engRes (s : State) (i : Issuer) (num va : Nat) : U Res :=
  match s.resolve i va .write with
  | .error .hold => .error .hold
  | .error (.cause c) => .error (.fault c va)
  | .ok r =>
    let g := r.key / 32
    if s.leasedBy (fun _ n => decide (n < num)) g || s.ownedBefore g num || s.ownedObj g then .error .hold
    else .ok r

/-- One byte written by an engine (R244): under its reserved entry where it is covered (R280), otherwise at its home. -/
def State.engPut (s : State) (i : Issuer) (num : Nat) (x : Nat × Nat × Nat) : U State :=
  match s.reserved i x.1 with
  | some w => .ok (s.poolPut w x)
  | none => do
    let r ← s.engRes i num x.1
    .ok (s.put i r none [mergeByte (s.underWrite i r x.1) x])

/-- A byte can be written by an engine. -/
def State.engCan (s : State) (i : Issuer) (num va : Nat) : U Unit :=
  match s.reserved i va with
  | some _ => .ok ()
  | none => do
    let _ ← s.engRes i num va
    .ok ()

/-- Bytes written by an engine. -/
def State.engPuts (s : State) (i : Issuer) (num : Nat) : List (Nat × Nat × Nat) → U State
  | [] => .ok s
  | x :: xs => do
    let s ← s.engPut i num x
    s.engPuts i num xs

/-! Elements. -/

/-- The row of a that a row of d has taken already (R263). -/
def Cmd.rowOf (k : Cmd) (row : Nat) : Option Nat := (k.rows.find? fun x => x.1 = row).map fun x => x.2

/-- The row of a that a row of d takes: the index as it was read, or as it is read and checked now (R263). -/
def Cmd.row (s : State) (k : Cmd) (ix : Shape) (row : Nat) : U Nat :=
  match k.rowOf row with
  | some v => .ok v
  | none => do
    let j : Ix := { j0 := row }
    let c ← s.unitCode k.iss ix j
    let scl ← s.unitScale k.iss false ix j
    match (ix.ty.scaled c scl).1.amount with
    | some v => if v < 0 || (k.a.dim 1 : Int) ≤ v then .error (.fault cSHAPE (ix.addr j).toNat) else .ok v.toNat
    | none => .error (.fault cSHAPE (ix.addr j).toNat)

/-- The source code of a command's element (R261, R263). -/
def Cmd.source (s : State) (k : Cmd) (ch : R3) (n : Nat) : U Nat :=
  let j := k.d.ix n
  if k.a.strm then
    match (s.stream k.iss ch.toNat)[n - k.taken]? with
    | none => .error .hold
    | some c => .ok c
  else match k.idx with
    | none => s.unitCode k.iss k.a j
    | some ix => do
      let v ← k.row s ix j.j1
      s.unitCode k.iss k.a { j0 := j.j0, j1 := v }

/-- A command that keeps the indices that it has read for elements (R263). -/
def Cmd.noteRows (s : State) (k : Cmd) (ns : List Nat) : Cmd :=
  match k.idx with
  | none => k
  | some ix =>
    let rows := ((ns.map fun n => (k.d.ix n).j1).eraseDups).filter fun j => (k.rowOf j).isNone
    { k with rows := k.rows ++ rows.filterMap fun j => (k.row s ix j).toOption.map fun v => (j, v) }

/-- The codes of a streaming source before an element leave the channel (R261). -/
def Cmd.release (s : State) (k : Cmd) (ch : R3) (n : Nat) : State × Cmd :=
  if k.a.strm then (s.setStream k.iss ch.toNat ((s.stream k.iss ch.toNat).drop (n - k.taken)), { k with taken := n }) else (s, k)

/-- The bytes that an element writes at a destination, those in a set of lines. -/
def Cmd.bytesAt (k : Cmd) (ls : List Nat) (o n code : Nat) : List (Nat × Nat × Nat) :=
  ((k.d.bytesFor (k.d.ix n) code).filter fun x => ls.contains (x.1 / 32)).map fun x => (x.1 + o * 2 ^ 21, x.2)

/-- The bytes of a line that a command writes at each destination, as a range: first offset and length (R240). -/
def Shape.lineRange (sh : Shape) (l : Nat) : Nat × Nat :=
  let bs := (sh.lineBytes l).map fun a => a % 32
  let lo := bs.foldl min 31
  (lo, bs.foldl max 0 + 1 - lo)

/-- MIXED at a line of a destination (R240). -/
def Cmd.mixed (s : State) (k : Cmd) (o l : Nat) : Bool :=
  k.iss.mixtrap && (match s.resolve k.iss (l * 32 + o * 2 ^ 21) .write with
    | .ok r => (s.gran (r.key / 32)).mixes (k.d.lineRange l).1 (k.d.lineRange l).2
    | .error _ => false)

/-- The first destination at which an element cannot be written, in ascending order. -/
def Cmd.badDest (s : State) (k : Cmd) (n : Nat) : List Nat → U Unit × Nat
  | [] => (.ok (), 0)
  | o :: os =>
    match ((k.d.bytesOf (k.d.ix n)).mapM fun va => s.engCan k.iss k.num (va + o * 2 ^ 21)) with
    | .error e => (.error e, o)
    | .ok _ =>
      if (k.d.bytesOf (k.d.ix n)).any fun va => k.mixed s o (va / 32) then
        (.error (.fault cMIXED ((k.d.addr (k.d.ix n)).toNat + o * 2 ^ 21)), o)
      else k.badDest s n os

/-- An element can be performed; otherwise why not, with the destination (R225, R262). -/
def Cmd.check (s : State) (k : Cmd) (ch : R3) (n : Nat) : U Unit × Nat :=
  match k.source s ch n with
  | .error e => (.error e, k.dests.headD 0)
  | .ok _ => k.badDest s n k.dests

/-- The first element of a list that cannot be performed: its ordinal, its destination and why. -/
def Cmd.firstBad (s : State) (k : Cmd) (ch : R3) : List Nat → Option (Nat × Nat × UFail)
  | [] => none
  | n :: ns => match k.check s ch n with
    | (.ok (), _) => k.firstBad s ch ns
    | (.error e, o) => some (n, o, e)

/-- Elements written at destinations, in order. -/
def Cmd.writeAll (k : Cmd) (ch : R3) (ls : List Nat) (dests : List Nat) : List Nat → State → U State
  | [], s => .ok s
  | n :: ns, s => do
    let code ← k.source s ch n
    let s ← s.engPuts k.iss k.num (dests.flatMap fun o => k.bytesAt ls o n code)
    k.writeAll ch ls dests ns s

/-! Credits (R256, R258, R320). -/

/-- The place of a completion object as a command's issuer reaches it (R215). -/
def State.objRes (s : State) (i : Issuer) (g : Nat) : Res := { key := g * 32, gran := true, fill := s.fillFor i g }

/-- A credit to a completion target: the state, and whether it exceeded PEND. -/
def State.credit (s : State) (i : Issuer) (t : Target) (n : Nat) : State × Bool :=
  match t with
  | .none => (s, false)
  | .barrier b =>
    let d := match i.loc with
      | some t => distIdx t.arr t.dist
      | none => 0
    let x := (s.barrier d b).credit n
    (s.stepBarrier d b x.1, x.2)
  | .object _ g =>
    let r := s.objRes i g
    let x := (objOf (leNat ((List.range 8).map fun j => s.peek i r (g * 32 + j)))).credit n
    (s.putObj i r none x.1, x.2)

/-- A command's credit waits for an earlier lease on its object (R169; log entry 112). -/
def State.creditHeld (s : State) (t : Target) (num : Nat) : Bool :=
  match t with
  | .object _ g => s.leasedBy (fun _ n => decide (n < num)) g
  | _ => false

/-- BARRIER's TVAL for a target: the object's address, or the barrier's number. -/
def Target.word : Target → Word
  | .none => 0
  | .object a _ => a
  | .barrier b => w64 b

/-! Filling (R222, R243). -/

/-- A granule's fill ends: it is full, and the strong access is noted (R234, R243). -/
def State.fillDone (s : State) (r : Nat × Nat) (g : Nat) : State :=
  let s := if g * 32 < 2 ^ 60 then s else s.setFull g (s.gran g).tag none true
  s.noteStrong (g * 32 + r.1) r.2

/-- The element of a that an element of d takes, none where its index has not been read yet. -/
def Cmd.reads (k : Cmd) (n : Nat) : Option Ix :=
  let j := k.d.ix n
  if k.idx.isNone then some j else (k.rowOf j.j1).map fun v => { j0 := j.j0, j1 := v }

/-- The elements `here` of a synchronising source record have been read; its granules that the elements done so far have read, and that
no element left still needs, are marked empty, each once (R260). -/
def Cmd.drain (s : State) (k : Cmd) (sh : Shape) (here done left : List (Option Ix)) : State × Cmd :=
  if !sh.sync || sh.strm then (s, k)
  else
    let s := (s.runsOf k.iss sh (here.filterMap id)).foldl (fun s r => s.noteStrong r.1 r.2) s
    let runs := s.runsOf k.iss sh (done.filterMap id)
    if left.any Option.isNone then (s, k)
    else
      let still := granulesOf (s.runsOf k.iss sh (left.filterMap id))
      let gs := (granulesOf runs).filter fun g => !still.contains g && !k.drained.contains g
      (s.setBits k.iss sh false gs, { k with drained := k.drained ++ gs })

/-- The synchronising sources of a command, a and GATH's index record, after the elements `here`, with those `left` to do. -/
def Cmd.syncSource (s : State) (k : Cmd) (here left : List Nat) : State × Cmd :=
  let done := (List.range k.d.count).filter fun n => !left.contains n
  let r := k.drain s k.a (here.map k.reads) (done.map k.reads) (left.map k.reads)
  match k.idx with
  | none => r
  | some ix =>
    let at' (n : Nat) : Option Ix := some { j0 := (k.d.ix n).j1 }
    r.2.drain r.1 ix (here.map at') (done.map at') (left.map at')

/-- A vector entry at the head of a queue of the tile takes codes from the channel (R136, R261). -/
def State.streamTaken (s : State) (t : Loc) (ch : Nat) : Bool :=
  s.ctxs.any fun c => c.loc = some t && (c.vq.head?.any fun e => e.srcs.any fun sh => sh.strm && sh.chan = ch)

/-- The next fill of a command that writes memory; nothing where it must wait or stops, or has no destination (R262). -/
def Cmd.fillLine (s : State) (k : Cmd) (ch : R3) : Option (State × Cmd) :=
  match if k.dests = [] then [] else k.left with
  | [] => none
  | l :: ls =>
    if s.creditHeld k.target k.num then none else
    let un := k.unlanded
    let here := un.filter fun n => k.d.inLines [l] (k.d.ix n)
    let last := here.getLastD 0
    let upto := un.filter fun n => n ≤ last
    match k.firstBad s ch upto with
    | some _ => none
    | none => match k.writeAll ch [l] k.dests here s with
      | .error _ => none
      | .ok s' =>
        let gs := s'.ownedBy k.iss (k.dests.map fun o => l * 32 + o * 2 ^ 21)
        let s' := gs.foldl (fun s g => s.fillDone (k.d.lineRange l) g) s'
        let left := (List.range k.d.count).filter fun n => k.d.inLines ls (k.d.ix n)
        let y := (k.noteRows s here).syncSource s' here left
        let n := (k.d.lineBytes l).length * k.dests.length
        let r := y.1.credit k.iss k.target n
        let z := y.2.release r.1 ch (left.headD k.d.count)
        some (z.1, { z.2 with filled := k.filled + 1, todo := k.todo.filter fun g => !gs.contains g, overCredit := k.overCredit || r.2 })

/-- The next element of a command that writes a stream (R261). -/
def Cmd.fillStream (s : State) (k : Cmd) (t : Loc) (ch : R3) : Option (State × Cmd) :=
  if k.d.count ≤ k.filled then none
  else
    let l := s.stream k.iss ch.toNat
    if !(s.streamTaken t ch.toNat || decide (k.d.ty.streamBytes (l.length + 1) ≤ 1024)) then none
    else match k.source s ch k.filled with
      | .error _ => none
      | .ok c =>
        let s := s.setStream k.iss ch.toNat (l ++ [c])
        let y := k.syncSource s [k.filled] ((List.range k.d.count).drop (k.filled + 1))
        some (y.1, { y.2 with filled := k.filled + 1 })

/-- A channel. -/
def State.chan (s : State) (t : Loc) (ch : R3) : Chan := (s.tile t).chans[ch.toNat]'ch.isLt
/-- The state with a channel changed. -/
def State.setChan (s : State) (t : Loc) (ch : R3) (x : Chan) : State :=
  s.setTile t { s.tile t with chans := (s.tile t).chans.set ch.toNat x ch.isLt }

/-- The channel's command that runs. -/
def Chan.running (c : Chan) : Option Cmd := if c.active.any fun k => k.started then c.active else none

/-- ENGINE_FILL (R243). -/
def evEngineFill (t : Loc) (ch : R3) (s : State) : Option State :=
  match (s.chan t ch).running with
  | none => none
  | some k =>
    (if k.d.strm then k.fillStream s t ch else k.fillLine s ch).map fun r =>
      r.1.setChan t ch { r.1.chan t ch with active := some r.2 }

/-- The context's over-credit is to be reported (R258), at the granules too that the command left empty. -/
def Ctx.overCredit (c : Ctx) (met : Bool) (w : Word) (ch : R3) (left : List Nat) (num : Nat) : Ctx :=
  if met then { c with barReps := c.barReps ++ [{ obj := w, ch := some ch, grans := left, cmd := some num }] } else c

/-- A command has left its channel: the next one becomes active, the taps pulse, CHAN is raised (R222, R327, R387). -/
def State.commandOver (s : State) (t : Loc) (ch : R3) (k : Cmd) : State :=
  let s := s.setChan t ch ((s.chan t ch).activate s.cyc)
  let s := (s.tapEngine t ch.toNat).raiseLine 2 fun c => c.uid = k.iss.uid
  s.updCtx k.iss.uid fun c => c.overCredit k.overCredit k.target.word ch k.todo k.num

/-- COPY_COMMAND_COMPLETE (R222). -/
def evCopyCommandComplete (t : Loc) (ch : R3) (s : State) : Option State :=
  match (s.chan t ch).running with
  | none => none
  | some k =>
    if k.filled < k.fills then none else some ((k.release s ch k.d.count).1.commandOver t ch k)

/-- The report of a stopped command (R225, R262, R384). -/
def Cmd.report (k : Cmd) (cyc : Nat) (ch : R3) (n o : Nat) (cause : Byte) (va : Nat) : Report :=
  let j := k.d.ix n
  { unit := .copy ch, sub := cause, addr := w64 va, pc := k.iss.pc, e1 := w64 (j.j1 * 2 ^ 32 + j.j0)
    e2 := w64 ((if k.op = .cpym then o else j.j3) * 2 ^ 32 + j.j2), grans := k.todo, promise := some (k.promise.getD (2 ^ 64 - 1)), time := cyc
    cmd := some k.num }

/-- The elements that a command has still to perform, up to the last one of its next fill; none without a destination (R262). -/
def Cmd.next (k : Cmd) : List Nat :=
  if k.dests = [] then []
  else if k.d.strm then (if k.filled < k.d.count then [k.filled] else [])
  else match k.left with
    | [] => []
    | l :: _ =>
      let un := k.unlanded
      let last := (un.filter fun m => k.d.inLines [l] (k.d.ix m)).getLastD 0
      un.filter fun n => n ≤ last

/-- The bytes of elements in lines that are not filled, each once, that are not in `seen`. -/
def Cmd.performedBytes (k : Cmd) (seen : List Nat) (ns : List Nat) : List Nat :=
  let ls := k.left
  (ns.flatMap fun n => (k.d.cells (k.d.ix n)).filter fun a => ls.contains (a / 32) && !seen.contains a).eraseDups

/-- What a stop credits for the elements performed in lines that the command does not finish (R258): those before `n` at every
destination, and `n` at `m` of them. -/
def Cmd.stopCredit (k : Cmd) (n m : Nat) : Nat :=
  let bs := k.performedBytes [] (k.next.filter fun x => x < n)
  bs.length * k.dests.length + (k.performedBytes bs [n]).length * m

/-- The context of a command has an unreported stop on the channel: another one waits until that is taken (R385; log entry 115). -/
def State.stopHeld (s : State) (i : Issuer) (ch : R3) : Bool := (s.ctxOf i.uid).any fun c => c.reports.any fun r => r.unit.onChan ch

/-- COPY_COMMAND_STOP (R225): the elements before the first that cannot be performed are in place and credited (R258), the source
granules that they finish are empty and their streamed codes gone (R260, R261); the granules not filled stay empty. -/
def evCopyCommandStop (t : Loc) (ch : R3) (s : State) : Option State :=
  match (s.chan t ch).running with
  | none => none
  | some k => if s.stopHeld k.iss ch || s.creditHeld k.target k.num then none else match k.firstBad s ch k.next with
    | some (n, o, .fault cause va) =>
      let ls := k.left
      let m := match k.source s ch n with
        | .ok _ => (k.dests.filter fun d => d < o).length
        | .error _ => 0
      let done : U State := if k.d.strm then .ok s else do
        let s ← k.writeAll ch ls k.dests (k.next.filter fun x => x < n) s
        k.writeAll ch ls (k.dests.take m) (if m = 0 then [] else [n]) s
      match done with
      | .error _ => none
      | .ok s' =>
        let before := k.next.filter fun x => x < n
        let y := (k.noteRows s before).syncSource s' before (k.unlanded.filter fun x => n ≤ x)
        let s' := (y.2.release y.1 ch n).1
        let rep := k.report s.cyc ch n o cause va
        let c := if k.d.strm || k.stopCredit n m = 0 then (s', false) else s'.credit k.iss k.target (k.stopCredit n m)
        let s' := c.1.updCtx k.iss.uid fun x => { x with reports := x.reports ++ [rep] }
        some (s'.commandOver t ch { k with overCredit := k.overCredit || c.2 })
    | _ => none

/-! Issue (R260 to R263). -/

/-- The bytes of a destination, `o` ranks on, meet a source's, whatever their layouts (R260 step 4). -/
def State.overlapsAny (s : State) (i : Issuer) (d : Shape) (o : Nat) (x : Shape) : Bool :=
  let a : Int × Int := (d.span.1 + o * 2 ^ 21, d.span.2 + o * 2 ^ 21)
  !d.strm && !x.strm && rangesMeet (s.lies i a) (s.lies i x.span) a x.span

/-- ACC of a command under REP: read once, by repetition 0, and kept for the repetitions of that instruction after it (R260). A
later repetition for which nothing is kept reads ACC (DESIGN CHOICE, log entry 115). -/
def engineAcc (i : Nat) : M Word := do
  let s ← get
  match if i = 0 then none else s.c.engAcc.find? fun x => x.1 = s.c.pc with
  | some x => pure x.2
  | none => do
    let a ← readAcc
    modCtx fun c => { c with engAcc := c.engAcc.filter (fun x => x.1 ≠ s.c.pc) ++ [(s.c.pc, a)] }
    pure a

/-- The completion target that a value names (R260 step 3). -/
def targetOf (iss : Issuer) (a : Word) : M Target := do
  let s ← get
  if a = 0 then pure .none
  else if bit a 63 then do
    raiseIf (s.c.isGuest || (s.barrier s.c.dist (bits a 4 0)).grant ≠ some s.c.launch) cACCESS a
    pure (.barrier (bits a 4 0))
  else do
    raiseIf (a.toNat % 32 != 0 || decide (rankBase + 2 ^ 37 ≤ a.toNat)) cACCESS a
    match s.resolve iss a.toNat .rmw with
    | .error .hold => wait
    | .error (.cause _) => raise cACCESS a
    | .ok r => pure (.object a (r.key / 32))

/-- A fault for the first check that fails: WHY and OPND. -/
def firstShape (tests : List (Bool × Nat × Nat)) : M Unit :=
  match tests.find? fun t => t.1 with
  | none => pure ()
  | some t => raise cSHAPE (shapeVal t.2.2 t.2.1)

/-- Equal DIM0 to DIM3 (R261). -/
def Shape.dims4 (a b : Shape) : Bool := a.sameDims b

/-- The own rules of CPY, CPYM and GATH on their records, in ascending WHY order (R260 to R263). -/
def engineChecks (op : EngOp) (i : Issuer) (ch : R3) (d a : Shape) (ix : Option Shape) (dests : List Nat) : M Unit := do
  let s ← get
  let x := ix.getD {}
  let inRank : Bool := match s.winOf i d with
    | some (.rank _) => true
    | _ => false
  let gath := op = .gath
  let strmBad (sh : Shape) : Bool := sh.strm && (op ≠ .cpy || sh.chan ≠ ch.toNat)
  firstShape
    [(d.ty ≠ a.ty, 9, 1), (gath && !x.ty.isI8N64, 9, 4),
     (gath && d.rank ≠ 2, 10, 0), (gath && (a.rank ≠ 2 || a.dim 0 ≠ d.dim 0), 10, 1),
     (gath && (x.rank ≠ 1 || x.dim 0 ≠ d.dim 1), 10, 4), (!gath && !d.dims4 a, 10, 1),
     (dests.any fun o => s.overlapsAny i d o a, 11, 1), (gath && s.overlapsAny i d 0 x, 11, 4),
     (strmBad d, 13, 0), (strmBad a || (d.strm && a.strm), 13, 1), (gath && x.strm, 13, 4),
     (op = .cpym && !inRank, 14, 0)]

/-- An operand in the DRAM window: REFLEXDRAM for a reflex strand (R260 step 5), then ACCESS for a synchronising record (R217). -/
def dramOperands (l : List Shape) : M Unit := do
  let s ← get
  let inDram := l.filter fun sh => !sh.strm && decide (dramBase ≤ sh.base.toNat)
  match inDram with
  | [] => pure ()
  | sh :: _ => raiseIf s.c.onReflex cREFLEXDRAM sh.base
  match inDram.find? Shape.sync with
  | some sh => raise cACCESS sh.base
  | none => pure ()

/-- The destination ranks of a CPYM are admitted: XLATE with the first failing address otherwise (R260 step 5). -/
def ranksAdmitted (i : Issuer) : List Nat → M Unit
  | [] => pure ()
  | va :: vas => do
    let s ← get
    match s.resolve i va .write with
    | .error (.cause c) => if c = cXLATE then raise cXLATE (w64 va) else ranksAdmitted i vas
    | .error .hold => wait
    | .ok _ => ranksAdmitted i vas

/-- The context's vector and matrix work on addresses is over. -/
def unitsFirst (i : Issuer) (l : List Nat) : M Unit := do
  let s ← get
  let keys := s.keysOf i l
  let meets (j : Issuer) (shs : List Shape) : Bool := (s.keysOf j (shs.flatMap Shape.addrs)).any fun k => keys.contains k
  waitIf (s.c.vq.any (fun e => meets e.iss e.shapes) || s.c.mq.any fun e => meets e.iss e.moves)

/-- A command that could add a stop to its channel waits while the context has one unreported there (R385; log entry 115). -/
def stopRoom (ch : R3) : M Unit := do
  let s ← get
  waitIf (s.c.reports.any fun r => r.unit.onChan ch)

/-- A command queued on its channel: ownership, empty granules, P into ACC (R260 steps 6 to 8). -/
def engineQueue (k : Cmd) (ch : R3) : M Unit := do
  let s ← get
  match s.c.loc with
  | none => wait
  | some t => do
    let c := s.chan t ch
    waitIf (c.active.isSome && c.shadow.isSome)
    stopRoom ch
    let w := k.lineAddrs
    reserveAll k.iss (k.dests.flatMap fun o => s.coveredLines k.iss k.d o)
    let s ← get
    let own := s.ownedBy k.iss w
    let span := 24 + cdiv k.d.promised (s.rate k)
    let span := if k.dests = [] then 24 else span
    let p := c.promise s.cyc span
    let k := { k with num := s.next, todo := own, issued := s.cyc, promise := p, span := span
                      wait := if c.src then some c.out.toNat else none }
    let s := { s.markEmpty k.iss own with next := s.next + 1 }
    set (s.setChan t ch ((s.chan t ch).place k s.cyc))
    writeAcc (promiseWord p)

/-- CPY, CPYM and GATH (R260 to R263). -/
def engineOp (op : EngOp) (p : Pre) (dn an ch : R3) (q : Option R3) (i : Nat) : M Unit := do
  ownWork
  let s ← get
  raiseIf (!s.c.mayChan ch) cACCESS (w64 ch.toNat)
  let iss := s.c.issuer (s.c.scopeOf p)
  let acc ← engineAcc i
  let target ← targetOf iss acc
  let d ← readRecord (s.c.field p 0 i dn) 0
  let a ← readRecord (s.c.field p 1 i an) 1
  let ix ← optRecord q 4
  let mask ← if op = .cpym then readK ((p.x.map fun x => x.k).getD 0) else pure 1
  let dests := (List.range 64).filter fun n => bit mask n
  engineChecks op iss ch d a ix dests
  dramOperands ([d, a] ++ ix.toList)
  let w := if d.strm then [] else dests.flatMap fun o => d.destBytes.map fun b => b + o * 2 ^ 21
  if op = .cpym then ranksAdmitted iss w
  capAll iss w
  unitsFirst iss (w ++ a.addrs ++ ix.toList.flatMap Shape.addrs)
  engineQueue { op := op, d := d, a := a, idx := ix, dests := dests, iss := iss, target := target } ch

/-! Collectives (R264). -/

/-- The shape of d and a under an op (R264). -/
def collDims (op : BitVec 2) (nrank : Nat) (d a : Shape) : Bool :=
  let outer (big small : Shape) : Bool :=
    decide (small.rank ≤ 3) && big.rank = small.rank + 1 && big.dim small.rank = nrank &&
      (List.range small.rank).all fun k => big.dim k = small.dim k
  match op.toNat with
  | 1 => outer d a
  | 2 => outer a d
  | _ => d.dims4 a

/-- COLL's own checks (R264). -/
def collChecks (op : BitVec 2) (i : Issuer) (d a : Shape) : M Unit := do
  let s ← get
  let sums := op = 0 || op = 2
  firstShape
    [(d.ty ≠ a.ty || (sums && d.ty = .e8), 9, 1), (sums && d.scaled, 9, 0), (sums && a.scaled, 9, 1),
     (!collDims op i.nrank d a, 10, 1), (s.overlapsAny i d 0 a, 11, 1),
     (d.strm, 13, 0), (a.strm, 13, 1),
     (s.winOf i d ≠ some .own, 14, 0), (s.winOf i a ≠ some .own, 14, 1)]

/-- COLL (R260, R264). -/
def collOp (op : BitVec 2) (p : Pre) (dn an : R3) : M Unit := do
  ownWork
  let s ← get
  let iss := s.c.issuer (s.c.scopeOf p)
  let acc ← readAcc
  let target ← targetOf iss acc
  let d ← readRecord (dn + s.c.stagger) 0
  let a ← readRecord (an + s.c.stagger) 1
  collChecks op iss d a
  capAll iss d.destBytes
  unitsFirst iss (d.addrs ++ a.addrs)
  stopRoom s.c.collChan
  waitIf (s.chanCmds s.c s.c.collChan != [])
  reserveRange iss d
  let s ← get
  let own := s.ownedBy iss (d.lines.map fun l => l * 32)
  let k : Coll := { launch := s.c.launch, ic := s.c.isIc, k := s.c.colls, rank := s.c.rank, op := op, d := d, a := a, iss := iss
                    target := target, sat := s.c.fpCtl.sat, traps := s.c.fpCtl.traps, num := s.next, todo := own }
  let s := s.markEmpty iss own
  set { s with next := s.next + 1, colls := s.colls ++ [k], c := { s.c with colls := s.c.colls + 1 } }
  writeAcc allOnes

/-- The participants of a collective, by rank; none while one is missing (R264). -/
def State.partners (s : State) (k : Coll) : Option (List Coll) :=
  (List.range k.iss.nrank).mapM fun r => s.colls.find? fun x => x.launch = k.launch && x.ic = k.ic && x.k = k.k && x.rank = r

/-- The participants agree with rank 0 (R264). -/
def agree (l : List Coll) : Bool :=
  match l with
  | [] => true
  | z :: _ => l.all fun x => x.op = z.op && x.d.ty = z.d.ty && x.a.ty = z.a.ty && x.d.dims4 z.d && x.a.dims4 z.a

/-- The sum of the codes of all ranks, taken once into a type (R264). FCTL.FTZ has no part in it: a subnormal result is delivered as
it is (DESIGN CHOICE, log entry 111). -/
def collSumCode (t : ETy) (sat : Bool) (codes : List Nat) : Nat × FF :=
  let vals := codes.map fun c => t.value c
  let rsv := orAll (vals.map fun v => v.2)
  let x := sumVals .rne (vals.map fun v => v.1)
  takeInto t true { sat := sat } (x.1, x.2 ||| rsv)

/-- An index with an outer coordinate. -/
def Ix.withOuter (j : Ix) (k v : Nat) : Ix :=
  match k with
  | 0 => { j with j0 := v }
  | 1 => { j with j1 := v }
  | 2 => { j with j2 := v }
  | _ => { j with j3 := v }

/-- An index's coordinate. -/
def Ix.coord (j : Ix) (k : Nat) : Nat :=
  match k with
  | 0 => j.j0
  | 1 => j.j1
  | 2 => j.j2
  | _ => j.j3

/-- The code and flags of a participant's element (R264). -/
def collElem (s : State) (l : List Coll) (k : Coll) (j : Ix) : U (Nat × FF) := do
  let read (x : Coll) (j : Ix) : U Nat := s.unitCode x.iss x.a j
  match k.op.toNat with
  | 0 =>
    let cs ← l.mapM fun x => read x j
    .ok (collSumCode k.d.ty k.sat cs)
  | 2 =>
    let cs ← l.mapM fun x => read x (j.withOuter k.d.rank k.rank)
    .ok (collSumCode k.d.ty k.sat cs)
  | 1 => match l[j.coord k.a.rank]? with
    | none => .ok (0, 0)
    | some x => do
      let c ← read x (j.withOuter k.a.rank 0)
      .ok (c, 0)
  | _ => match l.head? with
    | none => .ok (0, 0)
    | some x => do
      let c ← read x j
      .ok (c, 0)

/-- A participant's command as the engine writes it. -/
def Coll.cmd (k : Coll) : Cmd :=
  { op := .coll k.op, d := k.d, a := k.a, dests := [0], iss := k.iss, target := k.target, todo := k.todo, num := k.num }

/-- One element of a participant: its sources read from the state before any is written, its destination checked and written. -/
def collStep (before : State) (l : List Coll) (k : Coll) (r : State × FF) (n : Nat) : U (State × FF) := do
  let x ← collElem before l k (k.d.ix n)
  let _ ← (k.cmd.badDest r.1 n [0]).1
  let s ← r.1.engPuts k.iss k.num (k.d.bytesFor (k.d.ix n) x.1)
  .ok (s, r.2 ||| x.2)

/-- The channel of a collective's context. -/
def State.collChanOf (s : State) (k : Coll) : R3 := ((s.ctxOf k.iss.uid).map fun c => c.collChan).getD 5

/-- The elements of its own source that a participant has used when the first `n` elements of its destination are performed; a
broadcast reads rank 0's alone (R260, R264). -/
def Coll.used (k : Coll) (n : Nat) : List Ix :=
  match k.op.toNat with
  | 0 => k.a.ixs.take n
  | 1 => (((List.range n).map k.d.ix).filter fun j => j.coord k.a.rank = k.rank).map fun j => j.withOuter k.a.rank 0
  | 2 => if n < k.d.count then [] else k.a.ixs
  | _ => if k.rank = 0 then k.a.ixs.take n else []

/-- A participant's first `n` elements are performed: the granules that they complete are full, the target is credited with their
bytes, the source granules read are empty (R243, R258, R260). -/
def State.collDone (s : State) (k : Coll) (n : Nat) : State × Coll :=
  let ls := k.d.lines.filter fun l => (List.range k.d.count).all fun m => m < n || !k.d.inLines [l] (k.d.ix m)
  let gs (l : Nat) : List Nat := s.ownedBy k.iss [l * 32]
  let s := ls.foldl (fun s l => (gs l).foldl (fun s g => s.fillDone (k.d.lineRange l) g) s) s
  let used := k.used n
  let s := s.syncDone k.iss k.a false used (k.a.ixs.filter fun j => !used.contains j)
  let bytes := (((List.range n).flatMap fun m => k.d.cells (k.d.ix m)).eraseDups).length
  let r := if bytes = 0 then (s, false) else s.credit k.iss k.target bytes
  (r.1, { k with todo := k.todo.filter fun g => !(ls.flatMap gs).contains g, overCredit := k.overCredit || r.2 })

/-- A participant's command has left the machine: the over-credit is to be reported, the line raised, the taps pulse (R258, R327,
R387). -/
def State.collEnd (s : State) (k : Coll) : State :=
  let ch := s.collChanOf k
  let s := (s.updCtx k.iss.uid fun c => c.overCredit k.overCredit k.target.word ch k.todo k.num).raiseLine 2 fun c => c.uid = k.iss.uid
  match k.iss.loc with
  | none => s
  | some t => s.tapEngine t ch.toNat

/-- A participant's command is over: its elements performed, its flags in FFLAGS, FPX requested for an enabled one (R110, R264). -/
def State.collOver (s : State) (k : Coll) (ff : FF) : State :=
  let r := s.collDone k k.d.count
  let s := r.1.updCtx k.iss.uid fun c => { c with fflags := c.fflags ||| ff }
  (s.fpxFor k.iss.uid k.iss.loc ff k.traps k.iss.pc k.num).collEnd r.2

/-- A participant's command has stopped at its element `n` (R225, R264, R266, R384); its flags are not ORed in, since it does not
complete (log entry 114). -/
def State.collStop (s : State) (cause : Byte) (va : Nat) (n : Nat) (k : Coll) : State :=
  let r := s.collDone k n
  let j := k.d.ix n
  let rep : Report :=
    { unit := .coll (s.collChanOf k), sub := cause, addr := w64 va, pc := k.iss.pc, e1 := w64 (j.j1 * 2 ^ 32 + j.j0)
      e2 := w64 (j.j3 * 2 ^ 32 + j.j2), grans := r.2.todo, promise := some (2 ^ 64 - 1), time := s.cyc, cmd := some k.num }
  (r.1.updCtx k.iss.uid fun c => { c with reports := c.reports ++ [rep] }).collEnd r.2

/-- A collective's commands leave the machine. -/
def State.dropColls (s : State) (l : List Coll) : State :=
  { s with colls := s.colls.filter fun x => !l.any fun y => y.num = x.num }

/-- What a participant comes to: its flags, or the element at which it stops with the cause and address. -/
abbrev CollEnd := Coll × FF × Option (Nat × Byte × Nat)

/-- The elements of participants performed one participant after another, each up to the first that cannot be (R225); nothing while
one must wait. `before` is the state that a participant reads its sources from. -/
def collRun (before : Coll → State) (l : List Coll) : List Coll → State → Option (State × List CollEnd)
  | [], s => some (s, [])
  | k :: ks, s => match unitGo (collStep (before k) l k) (List.range k.d.count) (s, 0) with
    | .error () => none
    | .ok (r, stop) => (collRun before l ks r.1).map fun x => (x.1, (k, r.2, stop) :: x.2)

/-- A collective performed (R264): every participant's command completes, or stops at the first of its elements that cannot be
performed (R225, R266). A participant whose context has a stop on the channel unreported does not stop until that is taken (R385; log
entry 115). `before` is the state that a participant reads its sources from. -/
def State.collectiveFrom (s : State) (before : Coll → State) (k : Coll) : Option State :=
  let held (x : Coll) : Bool := s.stopHeld x.iss (s.collChanOf x)
  match s.partners k with
  | none => none
  | some l =>
    if l.any fun x => s.creditHeld x.target x.num then none
    else if !agree l then (if l.any held then none else some (l.foldl (fun s k => s.collStop cSHAPE k.d.base.toNat 0 k) (s.dropColls l)))
    else (collRun before l l s).bind fun r =>
      if r.2.any fun x => x.2.2.isSome && held x.1 then none
      else some (r.2.foldl (fun s (x : CollEnd) => match x.2.2 with
        | none => s.collOver x.1 x.2.1
        | some (n, c, va) => s.collStop c va n x.1) (r.1.dropColls l))

/-- A collective performed on what memory holds (R264). -/
def State.collective (s : State) (k : Coll) : Option State := s.collectiveFrom (fun _ => s) k

/-- The bytes that a participant reads of another's source: all its elements, under RSCAT those of its own slice, under BCAST rank
0's (R264). -/
def Coll.readsOf (k x : Coll) : List Nat :=
  (x.a.ixs.filter fun j => match k.op.toNat with
    | 2 => decide (j.coord k.d.rank = k.rank)
    | 3 => decide (x.rank = 0)
    | _ => true).flatMap x.a.bytesOf

/-- COLLECTIVE_COMPLETE (R264) of the collective that State.pick names among those under way. -/
def evCollectiveComplete (s : State) : Option State := (s.colls[s.pick]?).bind s.collective

/-- CPY (R261). -/
def execCpy (p : Pre) (d a ch : R3) (s : State) : Out := repeated true p (engineOp .cpy p d a ch none) s
/-- CPYM (R262). -/
def execCpym (p : Pre) (d a ch : R3) (s : State) : Out := repeated true p (engineOp .cpym p d a ch none) s
/-- GATH (R263). -/
def execGath (p : Pre) (d a ch : R3) (s : State) : Out :=
  repeated true p (engineOp .gath p d a ch (some ((p.x.map fun x => x.q).getD 0 + s.c.stagger))) s
/-- COLL.SUM (R264). -/
def execCollSum (p : Pre) (d a : R3) (s : State) : Out := once (p.len true) (collOp 0 p d a) s
/-- COLL.GATHER (R264). -/
def execCollGather (p : Pre) (d a : R3) (s : State) : Out := once (p.len true) (collOp 1 p d a) s
/-- COLL.RSCAT (R264). -/
def execCollRscat (p : Pre) (d a : R3) (s : State) : Out := once (p.len true) (collOp 2 p d a) s
/-- COLL.BCAST (R264). -/
def execCollBcast (p : Pre) (d a : R3) (s : State) : Out := once (p.len true) (collOp 3 p d a) s

end Sys2Proof.Machine
end

