-- ==== Sys2Proof/Machine/Escrow.lean ====
section
/-! DEFINITION. The escrow instructions: ESOPEN and ESPOS (R283), ESCOMMIT and ESABORT (R284), PGALLOC and PGFREE (R285). -/

namespace Sys2Proof.Machine

def cWhyNotJoined : Word := 1
def cWhyJoined : Word := 2

/-- A commit or abort of the window waits (R283). -/
def State.closing (s : State) (w : Nat) : Bool :=
  s.ctxs.any fun c => c.esEn && c.esWin.toNat = w && c.stalled && c.inClose

/-- ESOPEN (R283). A dispatch core belongs to no tenant (R348). -/
def esopenOp (w : R3) : M Unit := do
  let s ← get
  raiseIf s.c.esEn cWINDOW cWhyJoined
  let x := s.win w.toNat
  raiseIf (s.c.isDisp || x.tenant ≠ s.c.tenant) cACCESS (w64 w.toNat)
  waitIf (s.closing w.toNat)
  let y : EscWin := if x.open_ then x else { x with open_ := true, entries := [], joined := 0 }
  set (s.setWin w.toNat { y with joined := y.joined + 1 })
  modCtx fun c => { c with esEn := true, esWin := w, esPos := 0 }

/-- ESPOS (R283). -/
def esposOp : M Unit := do
  let s ← get
  raiseIf (!s.c.esEn) cWINDOW cWhyNotJoined
  let a ← readAcc
  raiseIf (decide (63 < a.toNat)) cACCESS a
  modCtx fun c => { c with esPos := BitVec.ofNat 6 a.toNat }

/-- ESPOS.OFF (R283). -/
def esposOffOp : M Unit := do
  let s ← get
  raiseIf (!s.c.esEn) cWINDOW cWhyNotJoined
  set (s.leaveEscrow s.c)
  modCtx fun c => { c with esEn := false }

/-- The issuer works under the window. -/
def Issuer.under (i : Issuer) (w : Nat) : Bool := i.esc.any fun x => x.1 = w

/-- Work issued under the window, by any context, one of a pre-empted task too, is under way (R284). A context that SHST wrote out is
among the contexts itself. -/
def State.winBusy (s : State) (w : Nat) : Bool :=
  (s.ctxs ++ (s.saved.filter fun b => b.taskRec.isSome).flatMap fun b => b.ctxs).any (fun c => c.vq.any (fun e => e.iss.under w) || c.leasing.any fun e => e.iss.under w) ||
    s.cmds.any (fun k => k.iss.under w) || s.colls.any fun k => k.iss.under w

/-- The checks of ESCOMMIT and ESABORT. -/
def closeChecks (w : R3) : M Unit := do
  let s ← get
  raiseIf (!(s.c.esEn && s.c.esWin = w)) cWINDOW cWhyNotJoined
  let j := (s.win w.toNat).joined
  raiseIf (j ≠ 1) cWINDOW (w64 (j % 256 * 256 + 3))

/-- The lines of a window that a commit of n positions installs: physical line and the bytes, the highest position's last. -/
def EscWin.installs (x : EscWin) (n : Nat) : List EscEntry :=
  (List.range n).flatMap fun p => x.entries.filter fun e => e.pos = p && e.bytes ≠ []

/-- One entry installed (R284). -/
def State.install (s : State) (uid : Nat) (e : EscEntry) : State :=
  e.bytes.foldl (fun s b => s.put {} { key := e.pline * 32 + b.1, dram := true } (some uid) [b.2]) s

/-- The range of the bytes of a line that entries wrote: first offset and length. -/
def lineSpan (l : List EscEntry) (pline : Nat) : Nat × Nat :=
  let os := (l.filter fun e => e.pline = pline).flatMap fun e => e.bytes.map fun b => b.1
  let lo := os.foldl min 31
  (lo, os.foldl max 0 + 1 - lo)

/-- The instant of a commit of n positions: the lines installed, as strong stores (R234), and how many. -/
def State.commit (s : State) (w n : Nat) : State × Nat :=
  let l := (s.win w).installs n
  let lines := (l.map fun e => e.pline).eraseDups
  let s := l.foldl (fun s e => s.install s.c.uid e) s
  (lines.foldl (fun s p => s.noteStrong (p * 32 + (lineSpan l p).1) (lineSpan l p).2) s, lines.length)

/-- The window idle, the context joined no more. -/
def State.closeWin (s : State) (w : Nat) : State :=
  let s := s.setWin w { s.win w with open_ := false, joined := 0, entries := [] }
  { s with c := { s.c with esEn := false } }

/-- The wait of a commit or abort: work under the window, its writes of lines that an engine owns or a lease holds (R241), and the
context's own earlier accesses (R244). -/
def closeWait (w : R3) (n : Nat) : M Unit := do
  let s ← get
  if s.winBusy w.toNat || s.accessLeft || s.storesHeld s.c || ((s.win w.toNat).installs n).any (fun e => s.busy e.pline true) then
    throw (.hold { s with c := { s.c with inClose := true, waitKind := .other } })

/-- ESCOMMIT (R284). -/
def escommitOp (w : R3) : M Unit := do
  closeChecks w
  let a ← readAcc
  raiseIf (decide (64 < a.toNat)) cACCESS a
  closeWait w a.toNat
  releaseOwn
  let s ← get
  let r := s.commit w.toNat a.toNat
  set (r.1.closeWin w.toNat)
  writeAcc (w64 r.2)

/-- ESABORT (R284). -/
def esabortOp (w : R3) : M Unit := do
  closeChecks w
  closeWait w 0
  releaseOwn
  modify fun s => s.closeWin w.toNat

/-- ESOPEN (R283). -/
def execEsopen (w : R3) (s : State) : Out := once 2 (esopenOp w) s
/-- ESPOS (R283). -/
def execEspos (s : State) : Out := once 2 esposOp s
/-- ESPOS.OFF (R283). -/
def execEsposOff (s : State) : Out := once 2 esposOffOp s
/-- ESCOMMIT (R284). -/
def execEscommit (w : R3) (s : State) : Out := once 2 (escommitOp w) s
/-- ESABORT (R284). -/
def execEsabort (w : R3) (s : State) : Out := once 2 (esabortOp w) s

/-- ESCROW_INSTALL (R284): the commit or abort at which the moving context waits ends its wait. -/
def evEscrowInstall (s : State) : Option State :=
  if !(s.c.runs && s.c.stalled && s.c.inClose) then none
  else
    let done (r : Except Stop (Unit × State)) : Option State := match r with
      | .ok (_, s') => some (retire 2 s')
      | .error _ => none
    match s.fetch with
    | (.instr (.escommit w), s') => done (escommitOp w s')
    | (.instr (.esabort w), s') => done (esabortOp w s')
    | _ => none

/-! Pages (R285). -/

/-- A pool descriptor: COUNT, CAP, LIST. -/
structure PageDesc where
  count : Nat
  cap : Nat
  list : Word
  deriving DecidableEq, Repr

/-- The descriptor in the first 16 of its bytes. -/
def pageDesc (bs : List Byte) : PageDesc := ⟨leNat (bs.take 4), leNat ((bs.drop 4).take 4), w64 (leNat ((bs.drop 8).take 8))⟩

/-- The address of the LIST element that the step uses; none where it uses none. `free` is PGFREE's page number. -/
def PageDesc.slot (d : PageDesc) (free : Option (BitVec 32)) : Option Word :=
  match free with
  | none => if d.count = 0 then none else some (d.list + w64 (4 * (d.count - 1)))
  | some _ => if d.cap ≤ d.count then none else some (d.list + w64 (4 * d.count))

/-- COUNT after the step. -/
def PageDesc.next (d : PageDesc) (free : Option (BitVec 32)) : Nat := if free.isSome then d.count + 1 else d.count - 1

/-- An atomic's request that stands for a page step's answer. -/
def pageReq (iss : Issuer) (a : Word) : AtomReq := { iss := iss, op := .swp, el := ⟨a, .n32⟩, v := 0, swap := 0, order := 3, nr := false }

/-- The refusal of a page step at an address (R252, R285). -/
def pageRefused (iss : Issuer) (a : Word) (sub : Byte) : Job := .atomicRefused (pageReq iss a) sub

/-- The place of a LIST element: the four bytes lie in one granule when LIST is aligned; a LIST outside the DRAM window has no
translation. -/
def State.listPlace (s : State) (i : Issuer) (a : Word) : Except Fail Res :=
  if a.toNat < dramBase || dramEnd ≤ a.toNat then .error (.cause cXLATE) else s.resolve i a.toNat .rmw

/-- What refuses a page step at a place: MIXED, poison (R240, R252). -/
def State.pageStop (s : State) (i : Issuer) (r : Res) : Option Byte :=
  if i.mixtrap && (s.gran (r.key / 32)).mixes (r.key % 32) 4 then some cMIXED
  else if s.poisoned r then some cPOISON else none

/-- The page step at the descriptor's home: the job that holds its answer, and the state; none while it waits. -/
def State.pageStep (s : State) (iss : Issuer) (desc : Word) (free : Option (BitVec 32)) : Option (Job × State) :=
  let i := { iss with esc := none }
  match s.resolve i desc.toNat .rmw with
  | .error .hold => none
  | .error (.cause c) => some (pageRefused iss desc c, s)
  | .ok r =>
    if s.busy (r.key / 32) true then none
    else match s.pageStop i r with
      | some c => some (pageRefused iss desc c, s)
      | none =>
        let d := pageDesc (s.readBytes i r desc.toNat 16)
        match d.slot free with
        | none => some (.atomicDone (pageReq iss desc) allOnes {} 0, s)
        | some a => match s.listPlace i a with
          | .error .hold => none
          | .error (.cause c) => some (pageRefused iss a c, s)
          | .ok p =>
            if s.busy (p.key / 32) free.isSome then none
            else match s.pageStop i p with
              | some c => some (pageRefused iss a c, s)
              | none =>
                let old := w64 (leNat (s.readBytes i p a.toNat 4))
                let s := match free with
                  | none => s
                  | some v => (s.put i p (some iss.uid) (leBytes 4 v.toNat)).noteStrong p.key 4
                let s := (s.put i r (some iss.uid) (leBytes 4 (d.next free))).noteStrong r.key 4
                some (.atomicDone (pageReq iss desc) (if free.isSome then w64 (d.next free) else old) {} 0, s)

/-- A page step of the moving context performed at its home (R285), for ATOMIC_AT_HOME. -/
def evPageStep (s : State) : Option State :=
  let f (before : List Job) (j : Job) : Option (Job × State) := match j with
    | .page iss desc free =>
      if before.any fun j => match j with
        | .load .. | .atomic _ | .store .. => true
        | _ => false
      then none
      else s.pageStep iss desc free
    | _ => none
  (firstJob f [] s.c.jobs).map fun x => { x.2.1.2 with c := { x.2.1.2.c with jobs := x.1 ++ [x.2.1.1] ++ x.2.2 } }

/-- The highest position at which the window holds a write of the descriptor (R285). -/
def EscWin.highest (x : EscWin) (line : Nat) : Nat :=
  (x.entries.filter fun e => e.vline = line && e.bytes ≠ []).foldl (fun m e => max m e.pos) 0

/-- A covered address, ACCESS otherwise. -/
def coveredBy (w : Nat) (va : Nat) : M Unit := do
  let s ← get
  raiseIf (!((s.win w).covers va)) cACCESS (w64 va)

/-- A page step's answer on its way to ACC. -/
def answerPage (j : Job) : M Unit := do
  emptyAcc
  addJob j

/-- The page step inside a window on a LIST element whose place is known: a poisoned one refuses it (R252, R395). -/
def pageInList (iss : Issuer) (w pos : Nat) (pn a : Word) (r p : Res) (d : PageDesc) (free : Option (BitVec 32)) : M Unit := do
  atHome p 4 false
  let s ← get
  match s.readFault iss p a.toNat 4 with
  | some c => answerPage (pageRefused iss a c)
  | none => do
    let old := w64 (leNat (s.readBytes iss p a.toNat 4))
    match free with
    | none => pure ()
    | some v => redirect w pos p a (leBytes 4 v.toNat)
    redirect w pos r pn (leBytes 4 (d.next free))
    answerPage (.fill (if free.isSome then w64 (d.next free) else old) {} 0)

/-- The page step inside a window, performed in the pool (R285). The capability check is made where it writes: at the descriptor, and at
the element that PGFREE writes (R202); a poisoned descriptor refuses it (R252, R395). -/
def pageInside (iss : Issuer) (w pos : Nat) (pn : Word) (r : Res) (free : Option (BitVec 32)) : M Unit := do
  coveredBy w pn.toNat
  capCheck iss pn
  atHome r 32 false
  let s ← get
  raiseIf (decide (pos < (s.win w).highest (pn.toNat / 32))) cWINDOW 4
  match s.readFault iss r pn.toNat 16 with
  | some c => answerPage (pageRefused iss pn c)
  | none => do
    let d := pageDesc (s.readBytes iss r pn.toNat 16)
    match d.slot free with
    | none => answerPage (.fill allOnes {} 0)
    | some a => do
      coveredBy w a.toNat
      if free.isSome then capCheck iss a
      match s.listPlace iss a with
      | .error .hold => wait
      | .error (.cause c) => answerPage (pageRefused iss a c)
      | .ok p => pageInList iss w pos pn a r p d free

/-- PGALLOC and PGFREE (R285). -/
def pageOp (self : Instr) (n : R3) (free : Bool) : M Unit := do
  let a ← if free then readAcc else pure 0
  let s ← get
  let pn ← baseAddr (n + s.c.stagger)
  raiseIf (s.c.det && !s.c.esEn) cDETATOM (atomWord self)
  raiseIf (pn.toNat % 32 ≠ 0) cALIGN pn
  raiseIf (decide (pn.toNat < dramBase) || decide (dramEnd ≤ pn.toNat)) cACCESS pn
  let iss := s.c.issuer 5
  let r ← access iss pn .rmw
  waitIf (decide (4 ≤ s.c.atomStops))
  releaseOwn
  let page : Option (BitVec 32) := if free then some (BitVec.ofNat 32 a.toNat) else none
  match iss.esc with
  | some (w, pos) => pageInside iss w pos pn r page
  | none => do
    capCheck iss pn
    emptyAcc
    addJob (.page iss pn page)

/-- PGALLOC (R285). -/
def execPgalloc (n : R3) (s : State) : Out := once 2 (pageOp (.pgalloc n) n false) s
/-- PGFREE (R285). -/
def execPgfree (n : R3) (s : State) : Out := once 2 (pageOp (.pgfree n) n true) s

end Sys2Proof.Machine
end

