-- ==== Sys2Proof/Machine/Isolation.lean ====
section
/-! DEFINITION. GENNEW and GENSET (R364), DBGRD and DBGWR (R366), BANKSW, SHST and SHLD (R367 to R369), TLBINV (R356), the
scrubber's sweep (R362). -/

namespace Sys2Proof.Machine

/-! Generations. -/

/-- Guests take and set no generation (R364). -/
def noGuest : M Unit := do
  let s ← get
  raiseIf s.c.isGuest cACCESS 0

/-- The tile's values that have stopped being in use are queued for their sweeps. -/
def State.recheckOwn (s : State) : State :=
  match s.c.loc with
  | none => s
  | some t => s.recheck t

/-- GENNEW (R364). -/
def gennewOp (keep : Bool) (self : Instr) : M Unit := do
  needPriv .s self
  noGuest
  let s ← get
  match s.c.loc.bind s.takeGen with
  | none => wait
  | some (v, s') => do
    set s'
    modCtx fun c => { c with
      genrd := if keep then #v[c.gen, c.genrd[0], c.genrd[1]] else c.genrd
      gen := v }
    writeAcc (w64 v.toNat)
    modify State.recheckOwn

/-- The generations that GENSET may name: those of the context and of its tile task's partner (R364). -/
def State.genAllowed (s : State) : List Gen :=
  let partner := s.others.filter fun c => c.kind = .task && s.c.kind = .task && c.task = s.c.task && c.role ≠ .off && c.isIc ≠ s.c.isIc
  (s.c :: partner).flatMap fun c => c.gen :: c.genrd.toList

/-- GENSET (R364). -/
def gensetOp : M Unit := do
  needPriv .s .genset
  noGuest
  let a ← readAcc
  let s ← get
  let g : Gen := BitVec.ofNat 10 (bits a 39 30)
  let r (i : Nat) : Gen := BitVec.ofNat 10 (bits a (10 * i + 9) (10 * i))
  let ok (v : Gen) : Bool := s.genAllowed.contains v
  raiseIf (s.c.prv ≠ .m && (g = 0 || !ok g || [r 0, r 1, r 2].any fun v => v ≠ 0 && !ok v)) cACCESS a
  modCtx fun c => { c with gen := g, genrd := #v[r 0, r 1, r 2] }
  modify State.recheckOwn

/-- GENNEW (R364). -/
def execGennew (s : State) : Out := once 2 (gennewOp false .gennew) s
/-- GENNEW.KEEP (R364). -/
def execGennewKeep (s : State) : Out := once 2 (gennewOp true .gennewKeep) s
/-- GENSET (R364). -/
def execGenset (s : State) : Out := once 2 gensetOp s

/-- GENERATION_SWEEP (R362): the first value queued on the tile. -/
def evGenerationSweep (t : Loc) (v : Gen) (s : State) : Option State :=
  match (s.tile t).sweeps with
  | [] => none
  | w :: ws => if w = v then some ((s.setTile t { s.tile t with sweeps := ws }).sweep t v) else none

/-! Debugger access (R366). -/

/-- The place that a debugger's address names; every check of R366 made, engine ownership and leases waited for. -/
def dbgPlace (n : R3) (write : Bool) : M Res := do
  let s ← get
  let a ← readP (n + s.c.stagger)
  let t : Loc := ⟨bit a 28, bits a 27 25, bits a 24 22⟩
  let off := bits a 21 0
  raiseIf (!s.hasTile t || tileSize t ≤ off) cACCESS a
  raiseIf (off % 8 ≠ 0) cALIGN a
  let r : Res := { key := tileKey t off, gran := true, far := s.c.loc ≠ some t }
  atHome r 8 write
  pure r

/-- DBGRD (R366). -/
def dbgrdOp (n q : R3) : M Unit := do
  needPriv .m (.dbgrd n q)
  let s ← get
  let g ← readP (q + s.c.stagger)
  let r ← dbgPlace n false
  let hit := (s.gran (r.key / 32)).tag.toNat = bits g 9 0
  let v : Word := if hit then w64 (leNat (Mem.bytes s.mem r.key 8)) else 0
  let fs : FlagSet := { z := some (decide hit) }
  if s.late r then deferResult true fs.mask (.fill v fs 0) else writeResult (some v, fs)

/-- DBGRD.TAG (R366). -/
def dbgrdTagOp (n q : R3) : M Unit := do
  needPriv .m (.dbgrdTag n q)
  let s ← get
  let _ ← readP (q + s.c.stagger)
  let r ← dbgPlace n false
  let x := s.gran (r.key / 32)
  let v := w64 (b2n x.full * 1024 + x.tag.toNat)
  if s.late r then deferResult true {} (.fill v {} 0) else writeAcc v

/-- The generation that DBGWR writes under: Pq[9:0], or with Pq[11] = 1 that of the tile's current arming, ACCESS where it is not
armed (R366, R435). -/
def dbgGen (n : R3) (g : Word) : M Gen := do
  let s ← get
  if !bit g 11 then pure (BitVec.ofNat 10 (bits g 9 0))
  else do
    let a ← readP (n + s.c.stagger)
    match (s.tile ⟨bit a 28, bits a 27 25, bits a 24 22⟩).arming with
    | some x => pure x.gen
    | none => raise cACCESS a

/-- DBGWR (R366, R435). -/
def dbgwrOp (n q : R3) : M Unit := do
  needPriv .m (.dbgwr n q)
  let a ← readAcc
  let s ← get
  let g ← readP (q + s.c.stagger)
  let r ← dbgPlace n true
  let v ← dbgGen n g
  let s ← get
  let i := { s.c.issuer 5 with gen := v, esc := none }
  set ((s.put i r (some s.c.uid) (leBytes 8 a.toNat)).setFull (r.key / 32) i.gen (some s.c.uid) (bit g 10))

/-- DBGRD (R366). -/
def execDbgrd (n q : R3) (s : State) : Out := once 2 (dbgrdOp n q) s
/-- DBGRD.TAG (R366). -/
def execDbgrdTag (n q : R3) (s : State) : Out := once 2 (dbgrdTagOp n q) s
/-- DBGWR (R366). -/
def execDbgwr (n q : R3) (s : State) : Out := once 2 (dbgwrOp n q) s

/-! Banks and saved contexts (R367 to R369). -/

/-- The tile is one that SEIZECFG offers for seizure (R333, R367). -/
def State.seizable (s : State) (t : Loc) : Bool := bit s.seizecfg 63 && !t.arr && bit s.seizecfg t.idx

/-- The places where BANKSW, SHLD and SHST trap (R367); the tile otherwise. -/
def bankPlace (store : Bool) : M (Loc × Bool) := do
  let s ← get
  match s.c.place with
  | .dispatch _ => raise cACCESS 0
  | .tile t ic => do
    raiseIf (t.arr || s.c.isGuest || (s.tile t).arming.isSome || (!store && s.seizable t)) cACCESS 0
    pure (t, ic)

/-- Opaque bytes stored over a block of `n` granules from an address on; the place of the first byte is in the storage. -/
def storeGranules (i : Issuer) (va : Word) (bs : List Byte) : Nat → M Unit
  | 0 => pure ()
  | n + 1 => do
    storeBytes i va (bs.take 32)
    storeGranules i (va + 32) (bs.drop 32) n

/-- The size of a saved context block, in granules (R368). -/
def blockGranules : Nat := 512

/-- The block's address: 64-byte aligned, wholly in the local window or the DRAM window (R19, R368). -/
def blockPlace (n : R3) (size : Nat) (dram : Bool) : M Word := do
  let s ← get
  let a ← baseAddr (n + s.c.stagger)
  raiseIf (a.toNat % 64 ≠ 0) cALIGN a
  let w := s.window (s.c.issuer 1) a.toNat (a.toNat + size - 1)
  raiseIf (!(w = some .own || (dram && w = some .dram))) cACCESS a
  pure a

/-- The context has a response to come that SHST waits for (R369), or an access that is not yet performed. -/
def Ctx.awaits (c : Ctx) : Bool := c.jobs.any fun j => match j with
  | .atomic _ | .atomicDone .. | .atomicRefused .. | .square _ | .dqreq .. | .load .. => true
  | _ => false

/-- What the opaque bytes of a block that the context writes out depend on. Under deterministic mode it is nothing but the core and how
many blocks its task has written out there (R205; log entry 12). -/
def State.blockKey (s : State) : Nat :=
  if s.c.det then
    2 ^ 64 + (2 * s.c.rank + b2n s.c.isIc) * 2 ^ 32 +
      (s.saved.filter fun v => v.task = s.c.task && v.taskRec.isNone && v.ctxs.any fun c => c.isIc == s.c.isIc).length
  else s.steps

/-- SHST (R369): the shadow context leaves the machine for a block of opaque bytes; what they stand for is kept (log entry 12). -/
def shstOp (n : R3) : M Unit := do
  needPriv .s (.shst n)
  let (t, ic) ← bankPlace true
  let s ← get
  match s.shadowOf t ic with
  | none => raise cACCESS 0
  | some h => do
    waitIf (h.awaits || s.c.vq ≠ [] || s.storesHeld s.c || s.storesHeld h)
    let a ← blockPlace n (32 * blockGranules) true
    let s ← get
    let bs := opaqueAt s.blockKey (32 * blockGranules)
    storeGranules (s.c.issuer 1) a bs blockGranules
    modify fun s => (s.drain s.c.uid).drain h.uid
    modify fun s =>
      let s := s.updCtx h.uid fun c => { c.loseMonitor with role := .off }
      let kept := (s.ctxOf h.uid).getD h
      let sv : Saved := { key := a.toNat, bytes := bs, tenant := s.c.tenant, tile := t, task := s.c.task, ctxs := [kept] }
      { s with saved := s.saved ++ [sv], steps := s.steps + 1 }
    modify fun s => s.recheck t

/-- The shadow bank of the core is empty (R369). -/
def emptyShadow (t : Loc) (ic : Bool) : M Unit := do
  let s ← get
  raiseIf (s.shadowOf t ic).isSome cACCESS 0

/-- A context that SHST wrote out comes into the shadow bank: the one that is kept out of the banks, or its copy where that one
has been loaded before or is gone; its generations are in use again (R362, R369). -/
def State.unshelve (s : State) (t : Loc) (ic : Bool) (h : Ctx) : State :=
  let back (c : Ctx) : Ctx := { c with role := .shadow, place := .tile t ic, bankIx := s.freeBank t ic }
  let s := match s.ctxOf h.uid with
    | some c =>
      if c.role = Role.off && !c.halted then s.updCtx h.uid back
      else { s.addCtx (back { h with uid := s.next }) with next := s.next + 1 }
    | none => s.addCtx (back h)
  s.recheck t

/-- SHLD (R369): a block that SHST wrote for this tenant, tile and tile task, unchanged (R27). -/
def shldOp (n : R3) : M Unit := do
  needPriv .s (.shld n)
  let (t, ic) ← bankPlace false
  emptyShadow t ic
  let s ← get
  let v ← readP (n + s.c.stagger)
  let a ← blockPlace n (32 * blockGranules) true
  let bs ← loadGranules (s.c.issuer 1) a blockGranules
  let s ← get
  match (s.saved.reverse.find? fun v => v.bytes = bs && v.tenant = s.c.tenant && v.tile = t && v.task = s.c.task).bind
      fun v => v.ctxs.head? with
  | none => raise cACCESS v
  | some h => set (s.unshelve t ic h)

/-- SHLD.IMG (R369, R334). -/
def shldImgOp (n : R3) : M Unit := do
  needPriv .s (.shldImg n)
  let (t, ic) ← bankPlace false
  emptyShadow t ic
  let s ← get
  let v ← readP (n + s.c.stagger)
  let a ← blockPlace n 256 false
  let bs ← loadGranules (s.c.issuer 1) a 8
  match parseImage bs with
  | none => raise cACCESS v
  | some im => do
    let s ← get
    let c := (s.c.ofTask s.next).loadImage im
    set { s.addCtx { c with role := .shadow, bankIx := s.freeBank t ic, pc := im.pc, genrd := Vector.replicate 3 0
                            prv := if im.sup then .s else .u } with next := s.next + 1 }

/-- BANKSW's traps (R367, R369). -/
def bankswOp : M Unit := do
  needPriv .s .banksw
  let (t, ic) ← bankPlace false
  let s ← get
  raiseIf (s.shadowOf t ic).isNone cACCESS 0

/-- The banks of the moving context's core swapped, the incoming context moving next (R26). -/
def State.swapHere (s : State) : State :=
  match s.c.place with
  | .dispatch _ => s
  | .tile t ic => match s.shadowOf t ic with
    | none => s
    | some h => (s.swapBanks t ic).select h.uid

/-- BANKSW (R369): it completes, then the banks are swapped. -/
def execBanksw (s : State) : Out :=
  match bankswOp s with
  | .error e => .next (settle false e s)
  | .ok (_, s') => .next (retire 2 s').swapHere
/-- SHLD (R369). -/
def execShld (n : R3) (s : State) : Out := once 2 (shldOp n) s
/-- SHLD.IMG (R369). -/
def execShldImg (n : R3) (s : State) : Out := once 2 (shldImgOp n) s
/-- SHST (R369). -/
def execShst (n : R3) (s : State) : Out := once 2 (shstOp n) s

/-! TLBINV (R356). -/

/-- The districts within a scope: 3 district, 4 array, 5 device; the whole module on a dispatch core, for every scope. -/
def Ctx.scopeHas (c : Ctx) (scope : R3) (d : Nat) : Bool :=
  c.isDisp || scope = 5 || (if scope = 4 then c.onReflex == distArr d else d == c.dist)

/-- TLBINV: every earlier store and atomic of the strand performed, then the entries dropped. Engines translate each element as
it is performed, so none is left translated through a dropped entry. -/
def tlbinvOp (lvl : Priv) (self : Instr) (scope : R3) (pick : Word → Nat → Nat × Nat × Nat × Nat → Bool) (va : Bool) : M Unit := do
  needPriv lvl self
  let a ← if va then readAcc else pure 0
  let s ← get
  waitIf (s.c.jobs.any fun j => match j with
    | .atomic _ | .page .. => true
    | _ => false)
  drainOwn
  modify fun s => s.dropTlb (pick a s.csrTenant) (s.c.scopeHas scope)

/-- A TLB entry's page holds an address of the DRAM window. -/
def tlbHolds (ten : Nat) (a : Word) (e : Nat × Nat × Nat × Nat) : Bool :=
  decide (dramBase ≤ a.toNat) && decide (a.toNat < dramEnd) && tlbHit ten ((a.toNat - dramBase) / 4096) e

/-- TLBINV.VA (R356). -/
def execTlbinvVa (sc : R3) (s : State) : Out := once 2 (tlbinvOp .s (.tlbinvVa sc) sc (fun a ten e => tlbHolds ten a e) true) s
/-- TLBINV.TEN (R356). -/
def execTlbinvTen (sc : R3) (s : State) : Out := once 2 (tlbinvOp .s (.tlbinvTen sc) sc (fun _ ten e => e.1 = ten) false) s
/-- TLBINV.ALL (R356). -/
def execTlbinvAll (sc : R3) (s : State) : Out := once 2 (tlbinvOp .m (.tlbinvAll sc) sc (fun _ _ _ => true) false) s

end Sys2Proof.Machine
end

