-- ==== Sys2Proof/Machine/Square.lean ====
section
/-! DEFINITION. The Square's instructions MBPUB, MBGET and MBINFO (R272 to R276) and what the Square controller does with their
requests (R268 to R271, R277, R405). -/

namespace Sys2Proof.Machine

/-! Issue (R276). -/

/-- Square requests of the context that are under way. -/
def State.squareOut (s : State) (uid : Nat) : Nat := (s.square.filter fun q => q.uid = uid).length

/-- The context may not use the slot (R276 step 3): `pub` gives MBPUB's byte count. -/
def State.slotDenied (s : State) (x : Slot) (pub : Option Nat) : Bool :=
  !x.valid || (!s.c.isDisp && x.tenant ≠ s.c.tenant) || (match pub with
    | some c => (!s.c.isDisp && s.c.place.code ≠ some x.writer) || decide (64 * x.size < c)
    | none => !s.c.isDisp && !x.read.getLsbD s.c.dist)

/-- A dispatch core's read-only local memory holds the bytes (R400). -/
def State.dispHolds (s : State) (lo hi : Nat) : Bool := s.c.isDisp && decide (0x10_0000 ≤ lo) && decide (hi < 0x20_0080)

/-- The slot that ACC names. -/
def slotNum (a : Word) : Nat := bits a 9 0

/-- A request sent: numbered, its answer due in ACC. -/
def sendSquare (q : SqReq) : M Unit := do
  let s ← get
  waitIf (decide (2 ≤ s.squareOut s.c.uid + (s.c.reports.filter fun r => r.unit = .square).length))
  emptyAcc
  addJob (.square s.next)
  modify fun s => { s with next := s.next + 1, square := s.square ++ [{ q with num := s.next, uid := s.c.uid }] }

/-- The addresses of a range, one for each granule. -/
def granAddrs (lo n : Nat) : List Nat := (List.range (cdiv n 32)).map fun k => lo + 32 * k

/-- MBPUB (R273): the source granules are leased at issue, once the strand's earlier accesses are performed (R241). -/
def mbpubOp (n : R3) : M Unit := do
  let a ← readAcc
  let s ← get
  let pn ← baseAddr (n + s.c.stagger)
  let x := s.slot (slotNum a)
  let c := if bits a 31 16 = 0 then 64 * x.size else bits a 31 16
  raiseIf (s.slotDenied x (some c)) cACCESS a
  raiseIf (pn.toNat % 32 ≠ 0) cALIGN pn
  let iss := s.c.issuer s.c.defscope
  raiseIf (!(s.window iss pn.toNat (pn.toNat + c - 1) = some .own || s.dispHolds pn.toNat (pn.toNat + c - 1))) cACCESS pn
  unitsFirst iss ((List.range c).map fun k => pn.toNat + k)
  ownWork
  let s ← get
  sendSquare { num := 0, uid := 0, slot := slotNum a, kind := .pub pn c (BitVec.ofNat 16 (bits a 47 32)), iss := iss
               lease := s.ownedBy iss (granAddrs pn.toNat c) }

/-- An address lies in a rank slot to which R208 does not admit the issuer. -/
def State.rankDenied (s : State) (i : Issuer) (va : Nat) : Bool :=
  decide (rankBase ≤ va) && decide (va < rankBase + 2 ^ 37) && (match s.resRank i va with
    | .error (.cause c) => c = cXLATE
    | _ => false)

/-- MBGET (R274): the destination granules are owned from issue and marked empty. -/
def mbgetOp (n : R3) : M Unit := do
  let a ← readAcc
  let s ← get
  let pn ← baseAddr (n + s.c.stagger)
  let x := s.slot (slotNum a)
  raiseIf (s.slotDenied x none) cACCESS a
  raiseIf (pn.toNat % 32 ≠ 0) cALIGN pn
  let iss := s.c.issuer 5
  let size := 32 + 64 * x.size
  raiseIf (match s.window iss pn.toNat (pn.toNat + size - 1) with
    | some .own => false
    | some (.rank _) => s.rankDenied iss pn.toNat
    | _ => true) cACCESS pn
  unitsFirst iss ((List.range size).map fun k => pn.toNat + k)
  ownWork
  let s ← get
  let own := s.ownedBy iss (granAddrs pn.toNat size)
  sendSquare { num := 0, uid := 0, slot := slotNum a, kind := .get pn, iss := iss, own := own }
  modCtx fun c => { c with sqLast := some (slotNum a) }
  modify fun s => s.markEmpty iss own

/-- MBINFO (R275). -/
def mbinfoOp (sel : BitVec 2) : M Unit := do
  let a ← readAcc
  let s ← get
  raiseIf (s.slotDenied (s.slot (slotNum a)) none) cACCESS a
  sendSquare { num := 0, uid := 0, slot := slotNum a, kind := .info sel, iss := s.c.issuer s.c.defscope }

/-- MBPUB (R273). -/
def execMbpub (n : R3) (s : State) : Out := once 2 (mbpubOp n) s
/-- MBGET (R274). -/
def execMbget (n : R3) (s : State) : Out := once 2 (mbgetOp n) s
/-- MBINFO.VER (R275). -/
def execMbinfoVer (s : State) : Out := once 2 (mbinfoOp 0) s
/-- MBINFO.TIME (R275). -/
def execMbinfoTime (s : State) : Out := once 2 (mbinfoOp 1) s
/-- MBINFO.WHO (R275). -/
def execMbinfoWho (s : State) : Out := once 2 (mbinfoOp 2) s
/-- MBINFO.FLAGS (R275). -/
def execMbinfoFlags (s : State) : Out := once 2 (mbinfoOp 3) s

/-! Ports (R269, R270). -/

/-- The request is a publication. -/
def SqReq.isPub (q : SqReq) : Bool :=
  match q.kind with
  | .pub .. => true
  | _ => false
/-- The request is a read of a version. -/
def SqReq.isGet (q : SqReq) : Bool :=
  match q.kind with
  | .get _ => true
  | _ => false
/-- The request waits for a port. -/
def SqReq.waits (q : SqReq) : Bool := !q.granted && q.refused.isNone

/-- The first of the requests in order of arrival, those of the reflex array before the others (R270). -/
def portNext (l : List SqReq) : Option SqReq :=
  match l.find? fun q => q.iss.onReflex with
  | some q => some q
  | none => l.head?

/-- The state with a request changed. -/
def State.updReq (s : State) (q : SqReq) : State := { s with square := s.square.map fun x => if x.num = q.num then q else x }
/-- The state without a request. -/
def State.dropReq (s : State) (num : Nat) : State := { s with square := s.square.filter fun x => x.num ≠ num }

/-- The buffers of a slot that are not free: latest, pinned, written. -/
def State.bufsUsed (s : State) (x : Slot) : List Nat :=
  x.latest.toList ++ (s.square.filter fun q => x.pins.contains q.num || x.writing = some q.num).filterMap fun q => q.buf

/-- The lowest-numbered free buffer of a slot (R269). -/
def State.freeBuf (s : State) (x : Slot) : Option Nat := (List.range 10).find? fun b => !(s.bufsUsed x).contains b

/-- A publication may be granted a port: every earlier one of its context has flipped, and none of its slot is under way. -/
def State.pubReady (s : State) (q : SqReq) : Bool :=
  q.isPub && q.waits && (s.slot q.slot).writing.isNone && !s.square.any fun x => x.isPub && x.uid = q.uid && decide (x.num < q.num)

/-- The source bytes of a publication, which an owner issued before it may still fill and one issued after it waits for (R169, R241); a
stop where a granule is poisoned or stale under TRAP (R273, R276). -/
def State.pubBytes (s : State) (q : SqReq) (addr : Word) (c : Nat) : U (List Byte) := do
  let l ← s.unitBytes { q.iss with lease := q.lease, order := q.num } false ((List.range c).map fun k => addr.toNat + k)
  .ok (l.map fun b => b.2)

/-- SQUARE_WRITE_GRANT (R270, R273): the copy into the buffer ends the lease; a poisoned source refuses the request. -/
def evSquareWriteGrant (s : State) : Option State :=
  if 2 ≤ (s.square.filter fun q => q.isPub && q.granted && q.refused.isNone).length then none
  else match portNext (s.square.filter s.pubReady) with
    | none => none
    | some q => match q.kind with
      | .pub addr c _ => match s.pubBytes q addr c with
        | .error .hold => none
        | .error (.fault cause va) => some (s.updReq { q with refused := some cause, failAt := w64 va, lease := [] })
        | .ok bs =>
          let x := s.slot q.slot
          some ((s.updReq { q with granted := true, buf := s.freeBuf x, payload := bs, lease := [] }).setSlot
            { x with writing := some q.num })
      | _ => none

/-! The flip (R269, R271, R273, R277). -/

/-- The jobs of a context that stand before the answer of a request. -/
def jobsBefore (num : Nat) : List Job → List Job
  | [] => []
  | j :: js => if j = .square num then [] else j :: jobsBefore num js

/-- Every access that the request's context made before it is performed: its stores are, and it waits for no other (R273). -/
def State.settled (s : State) (q : SqReq) : Bool :=
  (s.ctxOf q.uid).all fun c => !(jobsBefore q.num c.jobs).any fun j => match j with
    | .load .. | .atomic _ | .page .. => true
    | j => s.heldStore j

/-- ACC of a request's context filled with its answer, its job over. -/
def State.answer (s : State) (q : SqReq) (v : Word) : State :=
  s.updCtx q.uid fun c => { c with acc := ⟨v, true, c.gen⟩, jobs := c.jobs.erase (.square q.num) }

/-- The version that a flip makes latest. -/
def State.newVersion (s : State) (x : Slot) (q : SqReq) (c : Nat) (uf : BitVec 16) : Version :=
  let mir := s.spare && x.mirror
  { num := x.count + 1, stamp := Sys2Proof.i64 s.timeNs, wrank := BitVec.ofNat 32 q.iss.rank
    flags := BitVec.ofNat 32 (b2n mir * 2 ^ 16 + uf.toNat), payload := q.payload.take c }

/-- A version becomes a slot's latest; the readers of the slot are signalled (R387), and Ewedex records the flip with the publisher's
coordinate (R422). -/
def State.publish (s : State) (x : Slot) (b : Nat) (v : Version) (by' : Option (BitVec 8)) : State :=
  let x' := { x with count := v.num, latest := some b, writing := none, bufs := x.bufs.filter (fun y => y.1 ≠ b) ++ [(b, v)] }
  ((s.setSlot x').raiseLine 3 fun c => c.sqLast = some x.num).trace 3 (some x.tenant) by' x.num

/-- A version sent across the spare link, when it is one that is mirrored (R277). -/
def State.mirror (s : State) (slot : Nat) (v : Version) : State :=
  if bit (v.flags.setWidth 64) 16 then { s with mirrored := s.mirrored ++ [(slot, v)] } else s

/-- FLIP (R269, R273, R277) of the granted publication that State.pick names, among those whose earlier accesses are performed. One
whose slot was cleared under it completes with the next number of the old counter, and no slot holds its version (R268). -/
def evFlip (s : State) : Option State :=
  match (s.square.filter fun q => q.isPub && q.granted && s.settled q)[s.pick]? with
  | none => none
  | some q => match q.kind with
    | .pub _ c uf =>
      let s := s.drain q.uid
      let x := s.slot q.slot
      let r : State × Version := match q.cleared with
        | none => let v := s.newVersion x q c uf; (s.publish x (q.buf.getD 0) v q.iss.place.code, v)
        | some (n, m) => (s, s.newVersion { x with count := n, mirror := m } q c uf)
      some (((r.1.mirror q.slot r.2).answer q r.2.num).dropReq q.num)
    | _ => none

/-! Reading (R274, R275). -/

/-- The latest version of a slot. -/
def Slot.version (x : Slot) : Option Version := x.latest.bind fun b => (x.bufs.find? fun y => y.1 = b).map fun y => y.2

/-- SQUARE_READ_GRANT (R270, R274): the latest buffer is pinned. -/
def evSquareReadGrant (s : State) : Option State :=
  if 8 ≤ (s.square.filter fun q => q.isGet && q.granted).length then none
  else match portNext (s.square.filter fun q => q.isGet && q.waits) with
    | none => none
    | some q =>
      let x := s.slot q.slot
      let s := s.trace 4 (some x.tenant) q.iss.place.code x.num 0 q.iss.pc
      some ((s.updReq { q with granted := true, buf := x.latest, got := x.version }).setSlot { x with pins := x.pins ++ [q.num] })

/-- The header of R271, and the payload. -/
def versionBytes (v : Option Version) : List Byte :=
  match v with
  | none => List.replicate 32 0
  | some v => leBytes 8 v.num.toNat ++ leBytes 8 v.stamp.toNat ++ leBytes 4 v.wrank.toNat ++ leBytes 4 v.payload.length ++
      leBytes 4 v.flags.toNat ++ List.replicate 4 0 ++ v.payload

/-- The request refused, or its answer given: the buffer's pin ends. -/
def State.unpin (s : State) (q : SqReq) : State :=
  let x := s.slot q.slot
  if x.pins.contains q.num then s.setSlot { x with pins := x.pins.erase q.num } else s

/-- The strong accesses of an engine's fill, one for each granule (R234, R243). -/
def State.fillGranules (s : State) (i : Issuer) (lo n : Nat) : State :=
  (granAddrs lo n).foldl (fun s a => (s.ownedBy i [a]).foldl (fun s g => s.fillDone (0, min 32 (lo + n - a)) g) s) s

/-- The first granule of an engine's fill that MIXED forbids, as the address written there (R240). -/
def State.fillMixed (s : State) (i : Issuer) (lo n : Nat) : Option Nat :=
  if !i.mixtrap then none
  else (granAddrs lo n).find? fun a => (s.ownedBy i [a]).any fun g => (s.gran g).mixes 0 (min 32 (lo + n - a))

/-- An MBGET's engine writes (R240, R274). -/
def State.getLands (s : State) (q : SqReq) (addr : Nat) (bs : List Byte) : U State :=
  match s.fillMixed q.iss addr bs.length with
  | some a => .error (.fault cMIXED a)
  | none => s.engPuts q.iss q.num (bs.zipIdx.map fun b => (addr + b.2, 0, b.1.toNat))

/-- MBGET_COMPLETE (R274) of the granted read that State.pick names. -/
def evMbgetComplete (s : State) : Option State :=
  match (s.square.filter fun q => q.isGet && q.granted)[s.pick]? with
  | none => none
  | some q => match q.kind with
    | .get addr =>
      let bs := versionBytes q.got
      match s.getLands q addr.toNat bs with
      | .error .hold => none
      | .error (.fault cause va) => some ((s.unpin q).updReq { q with granted := false, refused := some cause, failAt := w64 va })
      | .ok s =>
        let s := s.fillGranules q.iss addr.toNat bs.length
        some (((s.unpin q).answer q ((q.got.map fun v => v.num).getD 0)).dropReq q.num)
    | _ => none

/-- The field that MBINFO's SEL selects (R275). -/
def infoWord (sel : BitVec 2) (v : Option Version) : Word :=
  match v with
  | none => 0
  | some v => match sel.toNat with
    | 0 => v.num
    | 1 => v.stamp
    | 2 => w64 (v.wrank.toNat * 2 ^ 32 + v.payload.length)
    | _ => w64 v.flags.toNat

/-- MBINFO_RESPONSE (R275) of the MBINFO that State.pick names: it reaches the controller and is answered. -/
def evMbinfoResponse (s : State) : Option State :=
  match (s.square.filter fun q => !q.isPub && !q.isGet)[s.pick]? with
  | none => none
  | some q => match q.kind with
    | .info sel => some ((s.answer q (infoWord sel (s.slot q.slot).version)).dropReq q.num)
    | _ => none

/-- SQUARE_REFUSAL (R276) of the refused request that State.pick names: ENGINE is due, ACC is filled with zero. -/
def evSquareRefusal (s : State) : Option State :=
  match (s.square.filter fun q => q.refused.isSome)[s.pick]? with
  | none => none
  | some q =>
    let r : Report := { unit := .square, sub := q.refused.getD 0, addr := q.failAt, pc := q.iss.pc, time := s.cyc }
    some (((s.answer q 0).updCtx q.uid fun c => { c with reports := c.reports ++ [r] }).dropReq q.num)

/-! The standby module (R405). -/

/-- MIRROR_RECEIVE: a mirrored version becomes the latest of the slot of the same number and SIZE; without one it is dropped. -/
def evMirrorReceive (slot : BitVec 10) (units : BitVec 10) (version stamp : Word) (wrank uflags : BitVec 32) (payload : List Byte)
    (s : State) : Option State :=
  let x := s.slot slot.toNat
  if !s.spare || s.active then none
  else if !x.valid || x.size ≠ units.toNat then some s
  else
    let v : Version := { num := version, stamp := stamp, wrank := wrank, flags := uflags ||| 0x1_0000
                         payload := payload.take (64 * x.size) }
    match s.freeBuf x with
    | none => some s
    | some b =>
      let w := x.writing
      let s := s.publish x b v none
      some (s.setSlot { s.slot slot.toNat with writing := w })

end Sys2Proof.Machine
end

