-- ==== Sys2Proof/Machine/Seizure.lean ====
section
/-! DEFINITION. Seizure of reason tiles: SEIZE, SEIZE.ARM, RELEASE and their messages (R335 to R339, R365); full pre-emption:
PREEMPT, RESUME and their phases (R343 to R347). -/

namespace Sys2Proof.Machine

/-! Issue (R335). -/

/-- The context may use the forms: a reflex thread, or a tile task of a reflex launch. -/
def Ctx.reflexWork (c : Ctx) : Bool := c.onReflex && !c.isGuest

/-- The lowest bit of a mask that another lacks. -/
def lowestOutside (m tiles : Nat) : Option Nat := (List.range 64).find? fun i => m.testBit i && !tiles.testBit i

/-- Checks 3 and 4 of R335. -/
def seizeChecks (form : Bool) (k : Word) : M Unit := do
  let s ← get
  raiseIf (!s.c.reflexWork || (form && (!bit s.seizecfg 63 || bits s.seizecfg 55 52 ≠ s.c.tenant))) cACCESS 0
  if form then
    match lowestOutside k.toNat (bits s.seizecfg 47 0) with
    | some i => raise cACCESS (w64 i)
    | none => pure ()

/-- The bits of a mask that pick tiles of a property. -/
def maskOf (p : Loc → Bool) (m : Word) : Word :=
  w64 (((List.range 48).filter fun i => bit m i && p (Loc.ofIdx i)).foldl (fun a i => a + 2 ^ i) 0)

/-- SEIZE (R337). -/
def seizeOp (k : R3) : M Unit := do
  needPriv .s (.seize k)
  let m ← readK k
  seizeChecks true m
  emptyAcc
  addJob (.seize false false m 0 0)

/-- A shadow bank of the tile holds a context. -/
def State.shadowed (s : State) (t : Loc) : Bool := (s.shadowOf t false).isSome || (s.shadowOf t true).isSome

/-- A tile armed with two images for the moving context's launch, its channels 6 and 7 at reset (R336, R357, R365); nothing where
the counter waits. -/
def State.arm (s : State) (t : Loc) (sc ic : Image) : Option State :=
  (s.takeGen t).map fun r =>
    let s := r.2
    let ti := s.tile t
    let s := if ti.lastArm.any (fun x => x ≠ s.c.tenant) then s.wipe (tileKey t 0x14_0000 / 32) (tileKey t 0x18_0000 / 32) fun _ => true else s
    let a : Arming := { launch := s.c.launch, tenant := s.c.tenant, gen := r.1, rank := s.c.rank, nrank := s.c.nrank, sc := sc, ic := ic }
    let chans := resetChans (s.tile t).chans fun i => decide (6 ≤ i)
    (s.setTile t { s.tile t with arming := some a, lastArm := some s.c.tenant, chans := chans }).recheck t

/-- The named tiles armed in ascending order; a wait for the scrubber starts again from the start (R336). -/
def armTiles (sc ic : Image) : List Loc → M Unit
  | [] => pure ()
  | t :: ts => do
    let s ← get
    match s.arm t sc ic with
    | none => wait
    | some s' => do
      set s'
      armTiles sc ic ts

/-- The local window read by hardware for the moving context, `n` granules from an offset on: stale granules give zeros (R215); what
an engine owns is waited for (R241). -/
def hardwareRead (off : Nat) : Nat → M (List Byte)
  | 0 => pure []
  | n + 1 => do
    let s ← get
    match s.c.loc with
    | none => pure []
    | some t => do
      atHome (atTile (s.c.issuer 0) t off) 32 false
      let r ← hardwareRead (off + 32) n
      pure (s.readLocal (s.c.issuer 0) t off 32 ++ r)

/-- SEIZE.ARM arms a tile: present, its cores in service (R394), neither seized nor held, its shadow banks empty (R336). -/
def State.armable (s : State) (t : Loc) : Bool :=
  s.hasTile t && s.inService t && (s.tile t).seizedBy.isNone && (s.tile t).held.isNone && !s.shadowed t

/-- SEIZE.ARM (R336). -/
def seizeArmOp (k : R3) : M Unit := do
  needPriv .s (.seizeArm k)
  let m ← readK k
  let a ← readAcc
  seizeChecks true m
  let s ← get
  raiseIf (a.toNat % 64 ≠ 0 || decide (localSize (s.c.issuer 0) < a.toNat + 512)) cACCESS a
  let bs ← hardwareRead a.toNat 16
  match parseImage (bs.take 256), parseImage (bs.drop 256) with
  | some sc, some ic => do
    let done := maskOf s.armable m
    armTiles sc ic (maskTiles done)
    emptyAcc
    addJob (.fill done {} 0)
  | _, _ => do
    emptyAcc
    addJob (.fill 0 {} 0)

/-- RELEASE (R338). -/
def releaseOp (k : R3) : M Unit := do
  needPriv .s (.release k)
  let m ← readK k
  seizeChecks false m
  let s ← get
  let mine := maskOf (fun t => (s.tile t).seizedBy = some s.c.launch) m
  emptyAcc
  addJob (.seize false true mine 0 0)
  modify fun s => (maskTiles mine).foldl (fun s t => s.setTile t { s.tile t with releasing := true }) s

/-- SEIZE (R337). -/
def execSeize (k : R3) (s : State) : Out := once 2 (seizeOp k) s
/-- SEIZE.ARM (R336). -/
def execSeizeArm (k : R3) (s : State) : Out := once 2 (seizeArmOp k) s
/-- RELEASE (R338). -/
def execRelease (k : R3) (s : State) : Out := once 2 (releaseOp k) s

/-! At the tile (R332, R336 to R339). -/

/-- A guest from its image (R336). -/
def State.guest (s : State) (t : Loc) (a : Arming) (ic : Bool) (uid : Nat) : Ctx :=
  let im := if ic then a.ic else a.sc
  let l := s.launchOf a.launch
  let c : Ctx :=
    { uid := uid, kind := .guest, place := .tile t ic, tenant := a.tenant, launch := a.launch, rank := a.rank, nrank := a.nrank
      gen := a.gen, genrd := Vector.replicate 3 0, reflex := false, prv := if im.sup then .s else .u, pc := im.pc
      det := l.any fun l => l.det, quantum := (l.map fun l => l.quantum).getD 0x1000, mixtrap := l.any fun l => l.mixtrap
      stage := (l.map fun l => l.lrec.stage).getD 0, lr := l.any fun l => l.lrec.lr
      bankIx := s.freeBank t ic }
  { (c.loadImage im) with role := .active }

/-- A tile seized: the reason contexts drop into the shadow banks, the guests are active (R337, R26). -/
def State.seizeTile (s : State) (t : Loc) (a : Arming) : State :=
  let sc := s.guest t a false s.next
  let ic := s.guest t a true (s.next + 1)
  let s := (s.mapCtx fun c => if c.loc = some t && c.role = .active then s.swapOut c else c).strayWaits false
  let s := { (s.addCtx sc).addCtx ic with next := s.next + 2 }
  (s.setTile t { s.tile t with seizedBy := some a.launch }).trace 5 (some a.tenant) (some (coreCode t false))

/-- The tiles whose seize messages are on their way: the context and the tile. -/
def State.seizing (s : State) : List (Nat × Nat) :=
  s.ctxs.flatMap fun c => c.jobs.flatMap fun j => match j with
    | .seize _ false todo _ _ => ((List.range 48).filter fun i => bit todo i).map fun i => (c.uid, i)
    | _ => []

/-- A tile struck from what a job waits for; `hit` adds it to the result. -/
def Job.tileDone (i : Nat) (rel hit : Bool) (j : Job) : Job :=
  match j with
  | .seize arm r todo done b =>
    if r = rel && bit todo i then .seize arm r (todo &&& ~~~(w64 (2 ^ i))) (if hit then done ||| w64 (2 ^ i) else done) b else j
  | j => j

/-- SEIZE_MESSAGE (R337) of the message that State.pick names: the tile is seized when its arming owner is the context's launch and
it is neither seized nor in its re-arm; its cores are in service (R394). Where the reflex thread has halted meanwhile, the tile is to
be released again (R338). -/
def evSeizeMessage (s : State) : Option State :=
  match s.seizing[s.pick]? with
  | none => none
  | some (uid, i) =>
    let t := Loc.ofIdx i
    let ti := s.tile t
    let own := ((s.ctxOf uid).map fun c => c.launch).getD 0
    let ended := (s.ctxOf uid).any fun c => c.isThread && c.halted
    let go := match ti.arming with
      | some a => if a.launch = own && ti.seizedBy.isNone && !ti.rearming && s.inService t then some a else none
      | none => none
    let s := s.updCtx uid fun c => { c with
      jobs := c.jobs.map (Job.tileDone i false go.isSome)
      seized := if go.isSome then c.seized ||| w64 (2 ^ i) else c.seized }
    some (match go with
      | some a =>
        let s := s.seizeTile t a
        if ended then s.setTile t { s.tile t with releasing := true } else s
      | none => s)

/-- The guests of a tile. -/
def State.guests (s : State) (t : Loc) : List Ctx := s.ctxs.filter fun c => c.loc = some t && c.kind = .guest

/-- Every guest of the tiles has issued its first instruction (R337). -/
def State.guestsIssued (s : State) (m : Word) : Bool :=
  (maskTiles m).all fun t => (s.guests t).all fun c => decide (0 < c.retired) || c.stalled || c.halted || c.inHandler

/-- The tile's guests have no unit work and no access under way (R338 step 1); a store that a guest has retired is performed. -/
def State.guestsIdle (s : State) (t : Loc) : Bool :=
  (s.guests t).all fun c => c.vq = [] && c.mq = [] && !s.hasCmd c.uid && !c.jobs.any fun j => match j with
    | .atomic _ | .load .. | .page .. | .square _ => true
    | j => s.heldStore j

/-- The cores of a tile that hold no active context take their next one (R301). -/
def State.refillCores (s : State) (t : Loc) : State :=
  let s := if (s.activeOf t false).isNone then s.nextOnCore t false false else s
  if (s.activeOf t true).isNone then s.nextOnCore t true false else s

/-- TILE_RELEASE (R338) of the releasing tile that State.pick names. -/
def evTileRelease (s : State) : Option State :=
  match ((s.tilesOf false).filter fun t => (s.tile t).releasing && s.guestsIdle t)[s.pick]? with
  | none => none
  | some t =>
    let s := (s.guests t).foldl (fun s c => (s.drain c.uid).leaveEscrow c) s
    let s := s.mapCtx fun c => if c.loc = some t && c.kind = .guest then { c with esEn := false } else c
    let s := s.mapCtx fun c => if c.loc = some t && c.role = .shadow then { c with role := .active } else c
    let s := (s.dropCtx fun c => c.loc = some t && c.kind = .guest).refillCores t
    let ti := s.tile t
    let s := s.trace 6 (ti.arming.map fun a => a.tenant) (some (coreCode t false))
    let s := s.setTile t { ti with banks := ti.banks.set 2 .cleared, seizedBy := none, releasing := false, rearming := true }
    some (s.mapCtx fun c => { c with
      seized := c.seized &&& ~~~(w64 (2 ^ t.idx)), jobs := c.jobs.map (Job.tileDone t.idx true true) })

/-- REARM (R339) of the tile that State.pick names. -/
def evRearm (s : State) : Option State :=
  (((s.tilesOf false).filter fun t => (s.tile t).rearming)[s.pick]?).map fun t => s.setTile t { s.tile t with rearming := false }

/-! Full pre-emption (R343 to R347). -/

/-- The bytes of a save area before the image of the reservation (R344). -/
def saveSize : Nat := 0x3_0000

/-- The save area's address, a pointer's as an address base (R19): 4 KiB aligned, in DRAM. -/
def saveArea (n : R3) : M Nat := do
  let s ← get
  let a ← baseAddr (n + s.c.stagger)
  raiseIf (a.toNat % 4096 ≠ 0) cALIGN a
  raiseIf (decide (s.dramBytes < a.toNat + saveSize)) cACCESS a
  pure a.toNat

/-- PREEMPT (R343). -/
def preemptOp (n : R3) : M Unit := do
  needPriv .m (.preempt n)
  let a ← readAcc
  let area ← saveArea n
  raiseIf (bit a 12) cACCESS a
  emptyAcc
  addJob (.preempt ⟨false, bits a 11 9, bits a 8 6⟩ area)

/-- RESUME (R347). -/
def resumeOp (n : R3) : M Unit := do
  needPriv .m (.resume n)
  let area ← saveArea n
  emptyAcc
  addJob (.resume area)

/-- PREEMPT (R343). -/
def execPreempt (n : R3) (s : State) : Out := once 2 (preemptOp n) s
/-- RESUME (R347). -/
def execResume (n : R3) (s : State) : Out := once 2 (resumeOp n) s

/-- The contexts of a task on its tile. -/
def State.ctxsOn (s : State) (k : Task) : List Ctx := s.ctxs.filter fun c => c.task = k.num && c.kind = .task && c.loc = some k.tile

/-- A job of a context replaced by the fill of ACC with a value. -/
def Ctx.jobFill (c : Ctx) (j : Job) (v : Word) : Ctx := { c with jobs := c.jobs.map fun x => if x = j then .fill v {} 0 else x }

/-- Bytes written into DRAM from a physical address on. -/
def State.dramWrite (s : State) (pa : Nat) (bs : List Byte) : State := s.putAll {} pa bs (bs.length / 32 + 2)

/-- The header of a save area (R344). -/
def saveHeader (done : Bool) (spad : Nat) : List Byte := leBytes 8 (spad * 2 ^ 32 + b2n done)

/-- What phase one makes of a context: out of its bank, one in a shadow bank apart, which stays behind it; a halted one and one that
SHST has written out stay as they are. -/
def State.freezeCtx (s : State) (c : Ctx) : Ctx :=
  if c.role = .off then c
  else
    let role : Role := if c.role = .shadow then .shadow else .off
    { (if c.role = .active then s.swapOut c else c).loseMonitor with role := role, frozen := true }

/-- Phase one (R345): the task is frozen, its contexts leave the cores, its execution state is in the save area. -/
def State.freeze (s : State) (k : Task) (area spad : Nat) : State :=
  let bs := s.opaqueBytes saveSize
  let mine (c : Ctx) : Bool := c.task = k.num && c.kind = .task && c.loc = some k.tile
  let s := (s.mapCtx fun c => if mine c then s.freezeCtx c else c).strayWaits false
  let s := s.dramWrite area (bs.take 0x2_F000 ++ saveHeader false spad ++ bs.drop 0x2_F008)
  let s := s.setTile k.tile { s.tile k.tile with held := some { task := k.num, area := area } }
  { s with steps := s.steps + 1 }

/-- The orders on their way: the context, the job, the tile and the area. -/
def State.orders (s : State) : List (Nat × Job × Loc × Nat) :=
  s.ctxs.flatMap fun c => c.jobs.filterMap fun j => match j with
    | .preempt t area => if (s.tile t).seizedBy.isSome then none else some (c.uid, j, t, area)
    | _ => none

/-- PREEMPT_ORDER_ARRIVAL (R345) of the order that State.pick names; one for a seized tile waits for its release (R346). -/
def evPreemptOrderArrival (s : State) : Option State :=
  match s.orders[s.pick]? with
  | none => none
  | some (uid, j, t, area) =>
    let answer (s : State) (v : Word) : State := s.updCtx uid fun c => c.jobFill j v
    match s.tasks.filter fun k => k.tile = t with
    | [k] =>
      if (s.tile t).held.isSome then some (answer s 0)
      else
        let spad := ((s.launchOf k.launch).map fun l => l.lrec.spad).getD 0
        some (answer (s.freeze k area spad) 1)
    | _ => some (answer s 0)

/-- Responses that phase two waits for have come, and the task's commands are over (R345). -/
def State.taskQuiet (s : State) (k : Task) : Bool :=
  (s.ctxsOn k).all fun c => !s.hasCmd c.uid && !c.jobs.any fun j => match j with
    | .atomic _ | .atomicDone .. | .atomicRefused .. | .square _ | .dqreq .. | .page .. | .load .. => true
    | _ => false

/-- The granules of a task's reservation, with what the generations of its strands let them read of them. -/
def State.spadImage (s : State) (k : Task) (base spad : Nat) : List (Gran × List Byte) :=
  let cs := s.ctxsOn k
  match cs.head? with
  | none => []
  | some c =>
    let i := { c.issuer 0 with genrd := cs.flatMap fun x => (x.gen :: x.genrd.toList).filter fun g => g ≠ 0 }
    (List.range (spad / 32)).map fun j => (s.gran (tileKey k.tile (base + 32 * j) / 32), s.readLocal i k.tile (base + 32 * j) 32)

/-- PREEMPT_SAVE_DONE (R345) of the held tile that State.pick names: the reservation is written, DONE is set, the tile is free. The
tile's windows of FPX requests have closed by then, so that a request of the task is not lost (R151, log entry 118). -/
def evPreemptSaveDone (s : State) : Option State :=
  let held (t : Loc) : Option (Preempt × Task) := (s.tile t).held.bind fun h => (s.taskOf h.task).map fun k => (h, k)
  match (((s.tilesOf false).filterMap held).filter fun x => s.taskQuiet x.2 && (s.tile x.2.tile).fpWindow = [])[s.pick]? with
  | none => none
  | some (h, k) =>
    let s := (s.ctxsOn k).foldl (fun s c => s.drain c.uid) s
    let spad := ((s.launchOf k.launch).map fun l => l.lrec.spad).getD 0
    let cs := s.ctxsOn k
    let base := ((cs.head?).map fun c => c.spadBase).getD 0
    let img := s.spadImage k base spad
    let s := (s.dramWrite (h.area + saveSize) (s.opaqueBytes spad)).dramWrite (h.area + 0x2_F000) (saveHeader true spad)
    let ti := s.tile k.tile
    let sv : Saved :=
      { key := h.area, bytes := Mem.bytes s.mem h.area (saveSize + spad), tenant := ((cs.head?).map fun c => c.tenant).getD 0
        tile := k.tile, task := k.num, ctxs := cs, banks := ti.banks.toList.take 2, taskRec := some k, spad := img }
    let s := s.fifoPush (coreEntry 3 sv.tenant (coreCode k.tile false) 0)
    let s := { s with saved := s.saved ++ [sv], steps := s.steps + 1, tasks := s.tasks.filter fun x => x.num ≠ k.num }
    let s := s.dropCtx fun c => c.task = k.num && c.kind = .task && c.loc = some k.tile
    let s := s.setTile k.tile { s.tile k.tile with held := none }
    some ((s.powerOff k.tile).recheck k.tile)

/-- The reservation restored at its offsets under the task's GEN (R347). -/
def State.restoreSpad (s : State) (t : Loc) (g : Gen) (base : Nat) (img : List (Gran × List Byte)) : State :=
  img.zipIdx.foldl (fun s x =>
    let key := tileKey t (base + 32 * x.2)
    { s with mem := Mem.write s.mem key x.1.2 }.setGran (key / 32) { tag := g, full := x.1.1.full, poison := x.1.1.poison }) s

/-- A granule's number after its tile's storage has come to another tile. -/
def moveGran (a b : Loc) (g : Nat) : Nat :=
  if tileKey a 0 / 32 ≤ g && g < tileKey a (tileSize a) / 32 then g - tileKey a 0 / 32 + tileKey b 0 / 32 else g

/-- A context that comes back on another tile: its work and its reports name the new tile (R347). -/
def Ctx.moveTo (t : Loc) (c : Ctx) : Ctx :=
  match c.place with
  | .dispatch _ => c
  | .tile old ic =>
    let g := moveGran old t
    let iss (i : Issuer) : Issuer := { i with place := .tile t ic, lease := i.lease.map g }
    let me (e : MEntry) : MEntry := { e with iss := iss e.iss, lease := e.lease.map g }
    { c with
      place := .tile t ic, vq := c.vq.map fun e => { e with iss := iss e.iss }, mq := c.mq.map me, emu := c.emu.map me
      reports := c.reports.map fun r => { r with grans := r.grans.map g }
      barReps := c.barReps.map fun r => { r with grans := r.grans.map g }
      retry := c.retry.map fun r => { r with iss := iss r.iss } }

/-- A saved task put onto a tile (R347): its contexts come back parked when they land; one that was in a shadow bank is in the
shadow bank again, and one that SHST had written out stays out. The reservation is tagged with the GEN that the task's first strand
holds (log entry 118). -/
def State.restore (s : State) (v : Saved) (k : Task) (l : Launch) (t : Loc) : State :=
  let s := s.readyTile t l false
  let ti := s.tile t
  let b (i : Nat) : Bank := v.banks.getD i {}
  let s := s.setTile t { ti with banks := (ti.banks.set 0 (b 0)).set 1 (b 1) }
  let base := ((v.ctxs.head?).map fun c => c.spadBase).getD 0
  let s := s.restoreSpad t (((v.ctxs.head?).map fun c => c.gen).getD k.gen) base v.spad
  let back (c : Ctx) : Ctx :=
    if !c.frozen then c.moveTo t
    else { c.moveTo t with frozen := false, bankIx := true, role := if c.role = .shadow then .shadow else .transit }
  let s := { s with others := s.others ++ v.ctxs.map back, tasks := s.tasks ++ [{ k with tile := t, moving := true }] }
  let s := s.updLaunch l.num fun l => { l with ranks := l.ranks.set k.rank { tile := t, transit := true } }
  (s.noteGens t).recheck t

/-- A RESUME of the moving context (R347), for REGISTER_FILL: answered at once where the save is not good; else the task is sent to a
tile when one is there for it, and then lands there, which is the answer. -/
def resumeStep (s : State) (area : Nat) : Option (Option Word × State) :=
  match s.goodSave area with
  | none => some (some 0, s)
  | some (v, k, l) => match s.taskOf k.num with
    | some k' => let s := s.land k'; some (some 1, { s with saved := s.saved.erase v })
    | none => (s.resumeTile v l).map fun t => (none, s.restore v k l t)

end Sys2Proof.Machine
end

