-- ==== Sys2Proof/Machine/Recovery.lean ====
section
/-! DEFINITION. Recovery: kills, SEAL and restarts (R394 to R397), checkers (R391, R393), injectors (R398, R399), the journal and the
kick scan (R401, R402), takeover (R404), soft errors (R407); the end of a reflex thread by its budget (R386). -/

namespace Sys2Proof.Machine

/-! Cores. -/

/-- A core's own state. -/
def State.coreAt (s : State) (n : CoreName) : Core := (s.tile n.tile).cores.toList.getD (b2n n.ic) {}
/-- The state with a core's own state changed. -/
def State.setCore (s : State) (n : CoreName) (x : Core) : State :=
  s.setTile n.tile { s.tile n.tile with cores := vset (s.tile n.tile).cores (b2n n.ic) x }

/-- The core that ACC names; ACCESS where none is present (R390). -/
def namedCore : M CoreName := do
  let a ← readAcc
  let s ← get
  let n := coreOf (BitVec.ofNat 8 (bits a 12 5))
  raiseIf (!s.hasTile n.tile) cACCESS a
  pure n

/-- A recovery instruction's result: ACC is empty at retire and is then filled (R390). -/
def recoveryResult (v : Word) : M Unit := do
  emptyAcc
  addJob (.fill v {} 0)

/-! Ending contexts (R394). -/

/-- The contexts that end when those held that `p` picks do: with them the partner strands of their tile tasks, and both guests of
a tile. -/
def State.doomed (s : State) (p : Ctx → Bool) : List Ctx :=
  let hit := s.ctxs.filter fun c => c.role ≠ .off && p c
  s.ctxs.filter fun c => c.role ≠ .off && (p c || hit.any fun h =>
    h.loc = c.loc && ((c.kind = .task && h.kind = .task && h.task = c.task) || (c.kind = .guest && h.kind = .guest)))

/-- A channel without the commands of some contexts. -/
def Chan.strip (c : Chan) (u : List Nat) (cyc : Nat) : Chan :=
  let keep (k : Option Cmd) : Option Cmd := k.filter fun k => !u.contains k.iss.uid
  let c' := { c with shadow := keep c.shadow }
  if c.active.isSome && (keep c.active).isNone then ({ c' with active := none }).activate cyc else c'

/-- The channel holds a command of some contexts. -/
def Chan.has (c : Chan) (u : List Nat) : Bool := (c.active.toList ++ c.shadow.toList).any fun k => u.contains k.iss.uid

/-- The granules that commands and MBGETs of some contexts own, with the generations that their fills would take (R396). -/
def State.ownedOf (s : State) (u : List Nat) : List (Nat × Gen) :=
  let own (i : Issuer) (l : List Nat) : List (Nat × Gen) := l.map fun g => (g, (s.fillFor i g).getD i.gen)
  (s.cmds.filter fun k => u.contains k.iss.uid).flatMap (fun k => own k.iss k.todo) ++
    (s.colls.filter fun k => u.contains k.iss.uid).flatMap (fun k => own k.iss k.todo) ++
    (s.square.filter fun q => u.contains q.uid).flatMap fun q => own q.iss q.own

/-- The commands and collectives of some contexts stop, their Square requests are discarded. -/
def State.stopWork (s : State) (u : List Nat) : State :=
  let gone := (s.square.filter fun q => u.contains q.uid).map fun q => q.num
  let slot (x : Slot) : Slot :=
    { x with pins := x.pins.filter (fun n => !gone.contains n), writing := x.writing.filter fun n => !gone.contains n }
  let stopped := (s.tilesOf false ++ s.tilesOf true).flatMap fun t =>
    ((List.range 8).filter fun ch => ((s.tile t).chans.toList.getD ch {}).has u).map fun ch => (t, ch)
  let s := stopped.foldl (fun s x => s.tapEngine x.1 x.2) s
  { s with
    tiles := s.tiles.map fun t => { t with chans := t.chans.map fun c => c.strip u s.cyc }
    colls := s.colls.filter fun k => !u.contains k.iss.uid
    square := s.square.filter fun q => !u.contains q.uid
    slots := s.slots.map slot }

/-- The tiles that a list of contexts was seizing with a release or a seize under way lose those jobs with the contexts; a tile
whose guests ended counts as released (R394 step 5). -/
def State.guestsGone (s : State) (ts : List Loc) : State :=
  ts.foldl (fun s t =>
    let ti := s.tile t
    let s := s.mapCtx fun c => if c.loc = some t && c.role = .shadow then { c with role := .active } else c
    let s := s.mapCtx fun c => { c with
      seized := c.seized &&& ~~~(w64 (2 ^ t.idx)), jobs := c.jobs.map (Job.tileDone t.idx true false) }
    s.setTile t { ti with banks := ti.banks.set 2 .cleared, seizedBy := none, releasing := false, rearming := true }) s

/-- Contexts ended: what they have under way is discarded, their threads' tiles are released, their tasks leave the tile. -/
def State.endCtxs (s : State) (l : List Ctx) : State :=
  let u := l.map fun c => c.uid
  let tasks := s.tasks.filter fun k => l.any fun c => c.kind = .task && c.task = k.num
  let guests := (s.tilesOf false).filter fun t => l.any fun c => c.kind = .guest && c.loc = some t
  let homes := (s.tilesOf false ++ s.tilesOf true).filter fun t => l.any fun c => c.loc = some t
  let s := l.foldl (fun s c => (s.releaseAll c).leaveEscrow c) s
  let s := (s.stopWork u).dropCtx fun c => u.contains c.uid
  let s := tasks.foldl (fun s k => s.leaveTile k (((s.launchOf k.launch).map fun l => l.tenant).getD 0) none) s
  let s := s.guestsGone guests
  homes.foldl (fun s t => (s.refillCores t).recheck t) s

/-- The tile tasks of a list of contexts: launch and rank. -/
def State.ranksOf (s : State) (l : List Ctx) : List (Nat × Nat) :=
  (s.tasks.filter fun k => l.any fun c => c.kind = .task && c.task = k.num).map fun k => (k.launch, k.rank)

/-- A rank's task was ended by a kill (R397). -/
def State.killRank (s : State) (r : Nat × Nat) : State :=
  s.updLaunch r.1 fun l => { l with ranks := l.ranks.mapIdx fun i e => if i = r.2 then { e with killed := true } else e }

/-- A core killed (R394): the number of contexts ended, and the state; a killed core is not killed again. -/
def State.kill (s : State) (n : CoreName) : Nat × State :=
  let x := s.coreAt n
  if x.killed then (0, s)
  else
    let l := s.doomed fun c => c.place = .tile n.tile n.ic
    let ranks := s.ranksOf l
    let own := s.ownedOf (l.map fun c => c.uid)
    let s := s.endCtxs l
    let s := ranks.foldl State.killRank s
    (l.length, s.setCore n { s.coreAt n with killed := true, ended := ranks, orphans := x.orphans ++ own })

/-- A kill by hardware: its completion entries, one for each tenant whose contexts it ended (R394, R402). -/
def State.hardKill (s : State) (n : CoreName) (cause : Byte) : State :=
  if (s.coreAt n).killed then s
  else
    let ts := ((s.doomed fun c => c.place = .tile n.tile n.ic).map fun c => c.tenant).eraseDups
    let ts := if ts = [] then [0] else ts
    ts.foldl (fun s t => s.fifoPush (coreEntry 2 t (coreCode n.tile n.ic) cause)) (s.kill n).2

/-- kill.task (R394): the contexts bound to a tile end, and their ranks with them. -/
def State.killTile (s : State) (t : Loc) : Nat × State :=
  let l := s.doomed fun c => c.loc = some t
  let ranks := s.ranksOf l
  let more := (s.launches.flatMap fun x => (x.ranks.zipIdx.filter fun e => e.1.tile = t && e.1.killed).map fun e => (x.num, e.2))
  let s := s.endCtxs l
  (l.length, (ranks ++ more).foldl (fun s r => s.endRank r.1 r.2) s)

/-- kill.core (R394). -/
def killCoreOp : M Unit := do
  needPriv .m .killCore
  let n ← namedCore
  emptyAcc
  let s ← get
  set (s.kill n).2
  addJob (.fill (w64 (s.kill n).1) {} 0)

/-- kill.task (R394). -/
def killTaskOp : M Unit := do
  needPriv .m .killTask
  let n ← namedCore
  emptyAcc
  let s ← get
  set (s.killTile n.tile).2
  addJob (.fill (w64 (s.killTile n.tile).1) {} 0)

/-- A rank enqueued alone at priority 7, its rank-table entry in transit until it binds (R397). -/
def State.restartRank (s : State) (r : Nat × Nat) : State :=
  match s.launchOf r.1 with
  | none => s
  | some l =>
    let q : Queued := { num := l.num, lrec := { l.lrec with prio := 7, retain := 0 }, tenant := l.tenant, seeds := l.seeds, enq := s.cyc
                        root := l.root, only := some r.2 }
    (s.updLaunch r.1 fun l => { l with ranks := l.ranks.mapIdx fun i e => if i = r.2 then { e with transit := true } else e }).enqueue q

/-- kill.restart (R397). -/
def killRestartOp : M Unit := do
  needPriv .m .killRestart
  let n ← namedCore
  emptyAcc
  let s ← get
  let rs := (s.coreAt n).ended.filter fun r => (s.launchOf r.1).any fun l => (l.ranks[r.2]?).any fun e => e.killed && !e.ended && !e.transit
  let s' := rs.foldl State.restartRank s
  set (s'.setCore n { s'.coreAt n with ended := [] })
  addJob (.fill (w64 rs.length) {} 0)

/-- A granule that a killed core's work owned is made full, zero, tagged and poisoned (R396). -/
def State.poisonOwned (s : State) (o : Nat × Gen) : State :=
  let g := o.1
  let tag : Gen := if g * 32 < 2 ^ 60 then 0 else o.2
  let s := s.trigger g none
  { s with mem := Mem.clear s.mem (g * 32) (g * 32 + 32) }.setGran g { tag := tag, full := true, poison := true }

/-- SEAL (R396). -/
def sealOp : M Unit := do
  needPriv .m .seal
  let n ← namedCore
  let s ← get
  let x := s.coreAt n
  if !x.killed then recoveryResult allOnes
  else do
    let o := (x.orphans.map fun p => p.1).eraseDups
    emptyAcc
    modify fun s =>
      let s := x.orphans.foldl State.poisonOwned s
      s.setCore n { x with sealed := true, orphans := [] }
    addJob (.fill (w64 o.length) {} 0)

/-- kill.core (R394). -/
def execKillCore (s : State) : Out := once 2 killCoreOp s
/-- kill.task (R394). -/
def execKillTask (s : State) : Out := once 2 killTaskOp s
/-- kill.restart (R397). -/
def execKillRestart (s : State) : Out := once 2 killRestartOp s
/-- SEAL (R396). -/
def execSeal (s : State) : Out := once 2 sealOp s

/-! Checkers (R391, R393). -/

/-- CHKCFG.SCLEN and RESEN (R393). -/
def State.sclen (s : State) : Bool := bit s.chkcfg 0
def State.resen (s : State) : Bool := bit s.chkcfg 1

/-- A mismatch corrected by retry on any core: CORR, which saturates (R393). -/
def State.countCorr (s : State) : State :=
  { s with chkcfg := w64 (min (bits s.chkcfg 47 32 + 1) 0xFFFF * 2 ^ 32 + s.chkcfg.toNat % 4) }

/-- A mismatch corrected by retry on a tile's core: its own count too (R393). -/
def State.corrected (s : State) (n : CoreName) : State :=
  let s := s.countCorr
  s.setCore n { s.coreAt n with corrected := (s.coreAt n).corrected + 1, forced := false }

/-- CHKCTL.RD (R393). -/
def chkctlRdOp : M Unit := do
  needPriv .m .chkctlRd
  let n ← namedCore
  let s ← get
  recoveryResult (w64 (b2n (s.coreAt n).killed * 2 ^ 63 + (s.coreAt n).corrected % 2 ^ 32))

/-- CHKCTL.CLR (R393). -/
def chkctlClrOp : M Unit := do
  needPriv .m .chkctlClr
  let n ← namedCore
  recoveryResult 0
  modify fun s => s.setCore n { s.coreAt n with corrected := 0 }

/-- CHKCTL.TEST (R393): the mismatch is forced at the first execution, then the retry is awaited for 1,024 cycles. -/
def chkctlTestOp : M Unit := do
  needPriv .m .chkctlTest
  let n ← namedCore
  let s ← get
  if s.c.waitFrom.isNone then throw (.hold (s.setCore n { s.coreAt n with forced := true }))
  else if !(s.coreAt n).forced then recoveryResult 1
  else if s.cyc < s.c.waitFrom.getD s.cyc + 1024 then throw (.hold s)
  else recoveryResult 0

/-- CHKCTL.RD (R393). -/
def execChkctlRd (s : State) : Out := once 2 chkctlRdOp s
/-- CHKCTL.CLR (R393). -/
def execChkctlClr (s : State) : Out := once 2 chkctlClrOp s
/-- CHKCTL.TEST (R393). -/
def execChkctlTest (s : State) : Out := once 2 chkctlTestOp s

/-- CORE_KILL (R394): by MCHK, by a recurring CHECK or by an uncorrectable error in the core's state. -/
def evCoreKill (n : CoreName) (cause : Byte) (s : State) : Option State :=
  if !s.hasTile n.tile || (s.coreAt n).killed || !(cause = cMCHK || cause = cCHECK || cause = 1) then none
  else some (s.hardKill n cause)

/-- CORRECTED_ERROR (R407) in the storage of a core that is present (R7): no value changes; it is recorded. -/
def evCorrectedError (t : Option CoreName) (s : State) : Option State :=
  if t.any fun n => !s.hasTile n.tile then none else some (s.trace 11 none (t.map fun n => coreCode n.tile n.ic))

/-! Injectors (R399). -/

/-- INJARM (R399). -/
def injarmOp : M Unit := do
  needPriv .m .injarm
  let _ ← readAcc
  let s ← get
  let on := !s.injAbsent && bits s.injector.dat 63 62 ≠ 0
  recoveryResult (w64 (b2n on))
  if on then modify fun s => s.setInjector { s.injector with armed := true, seen := 0 } else pure ()

/-- INJARM.OFF (R399). -/
def injarmOffOp : M Unit := do
  needPriv .m .injarmOff
  let _ ← readAcc
  let s ← get
  recoveryResult (w64 (b2n (!s.injAbsent && s.injector.fired)))
  if s.injAbsent then pure () else modify fun s => s.setInjector { s.injector with armed := false }

/-- INJARM (R399). -/
def execInjarm (s : State) : Out := once 2 injarmOp s
/-- INJARM.OFF (R399). -/
def execInjarmOff (s : State) : Out := once 2 injarmOffOp s

/-- The spare link retrains: system-scope atomics whose responses are outstanding are lost (R253, R399). -/
def State.retrain (s : State) : State := s.mapCtx Ctx.loseTagged

/-- The number of the flit at which an injector acts: N, 0 acting as 1 (R398). -/
def Injector.at' (x : Injector) : Nat := max 1 (bits x.dat 31 0)

/-- Flits leave on an injector's link; an armed one counts those before the flit that it acts on (R399). -/
def Injector.count (x : Injector) (n : Nat) : Injector := if x.armed then { x with seen := min (x.seen + n) (x.at' - 1) } else x

/-- Flits leave on the link of the injector of a place (R399). -/
def State.flits (s : State) (k n : Nat) : State :=
  { s with injectors := s.injectors.mapIdx fun i x => if i = k then x.count n else x }

/-- A corruption of every retransmission (R398). -/
def Injector.persists (x : Injector) : Bool := bits x.dat 63 62 = 1 && bit x.dat 61

/-- An injector acts: FIRED, disarmed, with the records of the injection and of the retries (R399). -/
def State.inject (s : State) (x : Injector) : State :=
  let at' := if bit x.sel 31 then none else some (coreCode ⟨bit x.sel 20, bits x.sel 19 17, bits x.sel 16 14⟩ false)
  let retries := if x.persists then 8 else if bits x.dat 63 62 = 3 then 0 else 1
  let s := { s with injectors := s.injectors.map fun y => if y.sel = x.sel then { y with armed := false, fired := true } else y }
  (List.range (1 + retries)).foldl (fun s _ => s.trace 10 none at') s

/-- SPARE_LINK_RETRAIN (R253, R399). -/
def evSpareLinkRetrain (s : State) : Option State := if s.spare then some s.retrain else none

/-! The journal (R401). -/

/-- One bit of the CRC-32 of IEEE 802.3, least significant bit first. -/
def crcBit (c : BitVec 32) : BitVec 32 := if c.getLsbD 0 then (c >>> 1) ^^^ 0xEDB88320 else c >>> 1

/-- CRC-32 over one more byte. -/
def crcByte (c : BitVec 32) (b : Byte) : BitVec 32 := (List.range 8).foldl (fun c _ => crcBit c) (c ^^^ b.setWidth 32)

/-- CRC-32 of IEEE 802.3. -/
def crc32 (bs : List Byte) : BitVec 32 := ~~~(bs.foldl crcByte 0xFFFFFFFF)

/-- A record written at HEAD in both copies (R401). -/
def State.journal (s : State) (rec' : List Byte) : State :=
  let m := Mem.write s.mem (dispKey false (0x10_0000 + 64 * s.jrnlHead)) rec'
  { s with mem := Mem.write m (dispKey false (0x18_0000 + 64 * s.jrnlHead)) rec', jrnlHead := (s.jrnlHead + 1) % 8192 }

/-- A payload written as the next record, and sent across the spare link (R401). -/
def State.writeRecord (s : State) (payload : List Byte) : State :=
  let seq := s.jrnlSeq + 1
  let rec' := leBytes 4 (crc32 payload).toNat ++ leBytes 4 (seq % 2 ^ 32) ++ payload
  let s := { s.journal rec' with jrnlSeq := seq }
  if s.jrnlMir && s.spare then { s with mirrorOut := s.mirrorOut ++ [rec'] } else s

/-- The key of a byte of a dispatch core's local window (R400). -/
def dispLocal (standby : Bool) (off : Nat) : Nat := dispKey (standby && decide (off < 0x8_0000)) off

/-- JRNL (R401). The payload lies at Pn as an address base (R19); the traps give Pn. -/
def jrnlOp (n : R3) : M Unit := do
  needPriv .m (.jrnl n)
  let _ ← readAcc
  let s ← get
  let ea ← baseAddr (n + s.c.stagger)
  let pn ← readP (n + s.c.stagger)
  let a := ea.toNat
  raiseIf (a % 8 ≠ 0) cALIGN pn
  raiseIf (!(decide (a + 56 ≤ 0x8_0000) || (decide (0x10_0000 ≤ a) && decide (a + 56 ≤ 0x20_0080)))) cACCESS pn
  raiseIf ((s.jrnlHead + 1) % 8192 = s.jrnlCkpt) cACCESS (w64 s.jrnlHead)
  releaseOwn
  emptyAcc
  let s ← get
  let k := dispLocal (s.c.place = .dispatch true) a
  let s := s.writeRecord ((List.range 56).map fun j => s.peek (s.c.issuer 0) { key := k } (k + j))
  set s
  addJob (.fill (w64 s.jrnlSeq) {} 0)

/-- JRNL (R401). -/
def execJrnl (n : R3) (s : State) : Out := once 2 (jrnlOp n) s

/-- JOURNAL_MIRROR_RECEIVE (R405): a standby module keeps the record in its own journal. -/
def evJournalMirrorReceive (rec' : List Byte) (s : State) : Option State :=
  if !s.spare || s.active || rec'.length ≠ 64 then none else some (s.journal rec')

/-! The kick scan (R402). -/

/-- kickscan.one (R402). -/
def kickscanOneOp : M Unit := do
  needPriv .m .kickscanOne
  let s ← get
  match ((List.range 64).map fun i => (s.kickNext + i) % 64).find? fun b => bit s.kicks b with
  | none => recoveryResult allOnes
  | some b => do
    recoveryResult (w64 b)
    modify fun s => { s with kicks := s.kicks &&& ~~~(w64 (2 ^ b)), kickNext := (b + 1) % 64 }

/-- kickscan.all (R402). -/
def kickscanAllOp : M Unit := do
  needPriv .m .kickscanAll
  let s ← get
  recoveryResult s.kicks
  modify fun s => { s with kicks := 0 }

/-- kickscan.cpl (R402). -/
def kickscanCplOp : M Unit := do
  needPriv .m .kickscanCpl
  let s ← get
  recoveryResult (s.fifo.headD allOnes)
  modify fun s => { s with fifo := s.fifo.tail }

/-- kickscan.one (R402). -/
def execKickscanOne (s : State) : Out := once 2 kickscanOneOp s
/-- kickscan.all (R402). -/
def execKickscanAll (s : State) : Out := once 2 kickscanAllOp s
/-- kickscan.cpl (R402). -/
def execKickscanCpl (s : State) : Out := once 2 kickscanCplOp s

/-! Dispatch failures (R404, R13). -/

/-- The standby dispatch core is in service: CAPS.DSTBY, and no failure of it or takeover by it before. -/
def State.dstby (s : State) : Bool := bit s.capsReg 9 && !s.standbyLeads && (s.disp.toList.getD 1 {}).alive

/-- A dispatch core is stopped until module reset. -/
def State.stopDisp (s : State) (standby : Bool) : State :=
  let s := { s with disp := vset s.disp (b2n standby) { s.disp.toList.getD (b2n standby) {} with alive := false } }
  s.mapCtx fun c => if c.place = .dispatch standby then { c with halted := true } else c

/-- The standby entered at its TVEC at M (R404 step 2). -/
def Ctx.takeOver (c : Ctx) (why : Nat) : Ctx :=
  { c with
    halted := false, prv := .m, gie := false, inHandler := true, pc := c.tvec
    trap := { cause := w64 cMCHK.toNat, pc := c.pc, val := w64 why, stat := tstatWord c false } }

/-- The dispatch core in charge fails (R404): takeover, or with no standby the end of admissions and vector 1 to every tenant
(R13). -/
def State.dispFail (s : State) (why : Nat) : State :=
  if s.dstby then
    let s := s.stopDisp false
    { s.mapCtx fun c => if c.place = .dispatch true then c.takeOver why else c with standbyLeads := true }
  else
    let s := s.stopDisp s.standbyLeads
    { ((List.range 16).foldl (fun s t => s.sendMsix t 1) s) with active := false }

/-- A dispatch core takes a machine check: the one in charge, or the standby, which leaves the module as under DSTBY = 0. -/
def State.dispCheck (s : State) (standby : Bool) (why : Nat) : State :=
  if standby == s.standbyLeads then s.dispFail why
  else if standby then s.stopDisp true
  else s

/-- A dispatch core is in service: not stopped, and the standby only where CAPS.DSTBY is 1. -/
def State.dispAlive (s : State) (standby : Bool) : Bool :=
  (s.disp.toList.getD (b2n standby) {}).alive && (!standby || bit s.capsReg 9)

/-- A machine check of a dispatch core (R404, R407): with State.pick 0 of the core in charge, otherwise of the standby before any
takeover. -/
def evDispatchTakeover (why : BitVec 2) (s : State) : Option State :=
  let standby := if s.pick = 0 then s.standbyLeads else true
  if why = 0 || !s.dispAlive standby then none else some (s.dispCheck standby why.toNat)

/-- CHECKER_MISMATCH (R391): a first mismatch is retried and counted (R393); a second one kills a tile's core (R394) and is a machine check
of a dispatch core (R404). -/
def evCheckerMismatch (n : CheckedCore) (again : Bool) (s : State) : Option State :=
  if !s.sclen then none
  else match n with
    | .tile n =>
      if !s.hasTile n.tile || (s.coreAt n).killed then none
      else if again then some (s.hardKill n cMCHK) else some (s.corrected n)
    | .dispatch b => if !s.dispAlive b then none else if again then some (s.dispCheck b 2) else some s.countCorr

/-! Soft errors (R407). -/

/-- ECC_UNCORRECTABLE (R407). A refetch of an instruction cache line changes no value. -/
def evEccUncorrectable (site : EccSite) (s : State) : Option State :=
  let poison (key : Nat) : State := s.setGran (key / 32) { s.gran (key / 32) with poison := true }
  match site with
  | .granule t g => if s.hasTile t && decide (g * 32 < tileSize t) then some (poison (tileKey t (g * 32))) else none
  | .sector pa => if pa < s.dramBytes then some (poison pa) else none
  | .icache n => if s.hasTile n.tile then some s else none
  | .coreState n => if !s.hasTile n.tile || (s.coreAt n).killed then none else some (s.hardKill n 1)
  | .dispatchMemory b => if s.dispAlive b then some (s.dispCheck b 1) else none
  | .dispatchState b => if s.dispAlive b then some (s.dispCheck b 3) else none

/-! The end of a reflex thread by its budget (R386). -/

/-- Atomics of the moving context performed at their homes, as far as they can be. -/
def State.sendAtomics (s : State) : Nat → State
  | 0 => s
  | n + 1 => match evAtomicAtHome s with
    | none => s
    | some s' => s'.sendAtomics n

/-- The moving context, a thread, is ended by hardware (R386): what it has not begun is discarded; atomics already sent are
performed (State.pick 0) or lost at most once; granted Square requests and copy commands go on. -/
def State.endThread (s : State) : State :=
  match s.c.place, s.c.kind with
  | .tile t ic, .thread .. =>
    let s := if s.pick = 0 then s.sendAtomics s.c.jobs.length else s
    let c := s.c
    let s := (((s.drain c.uid).trace 9 (some c.tenant) c.place.code).releaseAll c).leaveEscrow c
    let s := { s with square := s.square.filter fun q => q.uid ≠ c.uid || q.granted }
    let s := s.mapCtx fun x => if x.uid = c.uid then { x with role := .off } else x
    let s := if c.role = .active then s.nextOnCore t ic c.bankIx else s
    (s.dropCtx fun x => x.uid = c.uid).recheck t
  | _, _ => s

end Sys2Proof.Machine
end

