-- ==== Sys2Proof/Machine/Outside.lean ====
section
/-! DEFINITION. Where the module meets the world: the host link (R408, R409), OWNER (R372 to R374), the management window (R410, R421),
device commands (R351, R411, R412), field ports (R416 to R418), time (R419), contact pins (R420), Ewedex (R422, R423), power,
boot and reset (R40, R406, R424, R425), the hot spare (R405, R414); and time's passing. -/

namespace Sys2Proof.Machine

/-! Time's passing. -/

/-- Thirtieths of a reference tick in one main clock cycle, at the clock step in force (R40, R424). -/
def clockRate (step : Nat) : Nat :=
  match step with
  | 0 => 30
  | 1 => 35
  | 2 => 42
  | _ => 60

/-- RBUDGET and the grace of a thread in the active bank count down (R43, R386); an MWAIT's waiting is counted (R318). An entry whose
BUDGET is 0 never runs out (DESIGN CHOICE, log entry 126: R43 does not say). -/
def Ctx.elapse (c : Ctx) (n : Nat) : Ctx :=
  let c := { c with spurious := if c.inMwait then c.spurious.map fun m => m + n else c.spurious }
  if c.role = .active && c.isThread then
    { c with rbudget := c.rbudget - n, budgetDue := c.budgetDue || (decide (0 < c.rbudget) && decide (c.rbudget ≤ n))
             grace := c.grace.map fun g => g - n }
  else c

/-- `n` main clock cycles pass (R40, R373). LEFT is what is left of the lease in whole units, so that it falls with the first cycle of
each unit, as in the example under R374 (DEDUCED, log entry 120). -/
def State.elapse (s : State) (n : Nat) : State :=
  let f := s.refFrac + n * clockRate s.clockStep
  let l := s.leaseCyc + n
  let s := { s with cyc := s.cyc + n, refTicks := s.refTicks + f / 30, refFrac := f % 30 }
  let s := if s.left = 0 then s
    else { s with left := BitVec.ofNat 32 (s.left.toNat - (cdiv l 1024 - cdiv s.leaseCyc 1024)), leaseCyc := l % 1024 }
  s.mapCtx fun c => c.elapse n

/-! Ewedex (R422, R423). -/

/-- The number of records that the ring holds. -/
def State.ewRecords (s : State) : Nat := 2 ^ bits s.ewctl 60 56 / 32

/-- The 32 bytes of a record. R422 says what bytes 20 to 31 hold and not where (log entry 121). -/
def State.ewBytes (s : State) (r : EwRec) : List Byte :=
  leBytes 8 r.cyc ++ leBytes 8 (Sys2Proof.i64 r.ns).toNat ++ [BitVec.ofNat 8 r.ty, (r.tenant.map fun t => BitVec.ofNat 8 t).getD (Config.freeByte s.steps 17)] ++
    leBytes 2 (r.coord.toNat * 32) ++
    (if r.ty = 13 then leBytes 8 s.ewdrop ++ List.replicate 4 0 else (List.range 12).map fun i => Config.traceByte r.ty r.num r.cause r.pc (20 + i))

/-- A record at HEAD of the ring, which has room. -/
def State.ewWrite (s : State) (r : EwRec) : State :=
  let s' := s.dramWrite (bits s.ewbase 51 12 * 4096 + 32 * s.ewhead) (s.ewBytes r)
  { s' with ewhead := (s.ewhead + 1) % s.ewRecords, steps := s.steps + 1, ewdrop := if r.ty = 13 then 0 else s.ewdrop }

/-- A record written or dropped; the first after a drop stands behind one of TYPE 13. -/
def State.ewPut (s : State) (r : EwRec) : State :=
  let full (s : State) : Bool := (s.ewhead + 1) % s.ewRecords = s.ewtail
  if full s then { s with ewdrop := s.ewdrop + 1 }
  else
    let s := if s.ewdrop = 0 then s else s.ewWrite { r with ty := 13, tenant := none, coord := 0 }
    if full s then { s with ewdrop := s.ewdrop + 1 } else s.ewWrite r

/-- The records that are due reach the ring. -/
def State.ewFlush (s : State) : State := s.ewq.foldl State.ewPut { s with ewq := [] }

/-- A write of EWCTL (R423): LOG2 within 12 to 30, kept while EN = 1; EN from 0 to 1 starts the ring anew. -/
def State.ewctlWrite (s : State) (v : Word) : State :=
  let was := bit s.ewctl 63
  let lg := if was then bits s.ewctl 60 56 else min 30 (max 12 (bits v 60 56))
  let s := { s with ewctl := w64 (b2n (bit v 63) * 2 ^ 63 + lg * 2 ^ 56 + bits v 47 32 * 2 ^ 32 + bits v 13 1 * 2) }
  if bit v 63 && !was then { s with ewhead := 0, ewtail := 0 } else s

/-- EWCTL_ENABLE (R423): a write that sets EN from 0 to 1. -/
def evEwctlEnable (v : Word) (s : State) : Option State :=
  if bit v 63 && !bit s.ewctl 63 then some (s.ewctlWrite v) else none

/-! The host link (R408, R409). -/

/-- HOST_KICK (R408). -/
def evHostKick (vf q : BitVec 4) (s : State) : Option State :=
  if 4 ≤ q.toNat then none else some { s with kicks := s.kicks ||| w64 (2 ^ (4 * vf.toNat + q.toNat)) }

/-- The physical address of a byte of a virtual function's window, checked as an S access (R354, R409). -/
def State.hostPhys (s : State) (ten : Nat) (write : Bool) (o : Nat) : Option Nat :=
  let pt := (s.tenant ten).ptbase
  if !bit pt 0 || 2 ^ 46 ≤ o then none
  else (s.walk (bits pt 51 12) (o / 4096)).bind fun r =>
    let pa := (ptePage r.2.2 + (o / 4096 - r.1)) * 4096 + o % 4096
    if !permits r.2.2 false (if write then .write else .read) || s.dramBytes ≤ pa then none else some pa

/-- The physical addresses of a request of `len` bytes; none for an Unsupported Request. -/
def State.hostBytes (s : State) (fn : Option (BitVec 4)) (write : Bool) (off : Nat) : Nat → Option (List Nat)
  | 0 => some []
  | n + 1 =>
    let a := match fn with
      | none => if off < s.dramBytes then some off else none
      | some t => s.hostPhys t.toNat write off
    a.bind fun a => (s.hostBytes fn write (off + 1) n).map fun l => a :: l

/-- HOST_DRAM_REQUEST (R409): performed when no engine owns a line of it; one that fails its check writes nothing. -/
def evHostDramRequest (fn : Option (BitVec 4)) (off : Nat) (wr : Option (List Byte)) (len : Nat) (s : State) : Option State :=
  let n := match wr with
    | none => len
    | some bs => bs.length
  match s.hostBytes fn wr.isSome off n with
  | none => some s
  | some l =>
    if l.any fun a => s.busy (a / 32) wr.isSome then none
    else match wr with
      | none => some s
      | some bs => some ((l.zip bs).foldl (fun s x => s.put { place := .dispatch false } { key := dramKey x.1, dram := true } none [x.2]) s)

/-! OWNER (R372 to R374). -/

/-- A master's identity is valid (R372). -/
def isMaster (m : BitVec 8) : Bool :=
  m = 0x01 || (decide (0x10 ≤ m.toNat) && decide (m.toNat < 0x20)) || m = 0x30 || m = 0x40

/-- A master reaches this part: the spare module over the spare link, which the GM3230 does not have (R7, R372, R413). -/
def State.hasMaster (s : State) (m : BitVec 8) : Bool := isMaster m && (m ≠ 0x40 || s.spare)

/-- A lease as it is loaded: 0 stored as 1. -/
def leaseOf (l : BitVec 32) : BitVec 32 := if l = 0 then 1 else l

/-- A new owner. -/
def State.own' (s : State) (m : BitVec 8) (lease : BitVec 32) : State :=
  { s with own := m, succ := 0, left := leaseOf lease, leaseCyc := 0, epoch := s.epoch + 1 }

/-- A command of OWNER by a master (R374), by its OP; what does not take effect changes nothing. -/
def State.ownerCmd (s : State) (m : BitVec 8) (op : Nat) (arg : BitVec 8) (epoch : BitVec 16) (lease : BitVec 32) : State :=
  if !s.hasMaster m || epoch ≠ s.epoch then s
  else match op with
    | 1 => if s.own = 0 || s.left = 0 then s.own' m lease else s
    | 2 => if s.own = m && s.left ≠ 0 then { s with left := leaseOf lease, leaseCyc := 0 } else s
    | 3 => if s.own = m && s.left ≠ 0 && isMaster arg && arg ≠ m then { s with succ := arg } else s
    | 4 => if s.succ = m && s.left ≠ 0 then s.own' m lease else s
    | 5 => if s.own = m then s.resign else s
    | _ => s

/-- CLAIM (R374). -/
def evClaim (m : BitVec 8) (epoch : BitVec 16) (lease : BitVec 32) (s : State) : Option State := some (s.ownerCmd m 1 0 epoch lease)
/-- BEAT (R374). -/
def evBeat (m : BitVec 8) (epoch : BitVec 16) (lease : BitVec 32) (s : State) : Option State := some (s.ownerCmd m 2 0 epoch lease)
/-- NAME (R374). -/
def evNameSucc (m : BitVec 8) (epoch : BitVec 16) (succ : BitVec 8) (s : State) : Option State := some (s.ownerCmd m 3 succ epoch 0)
/-- ACK (R374). -/
def evAckOwner (m : BitVec 8) (epoch : BitVec 16) (lease : BitVec 32) (s : State) : Option State := some (s.ownerCmd m 4 0 epoch lease)
/-- RESIGN (R374). -/
def evResign (m : BitVec 8) (epoch : BitVec 16) (s : State) : Option State := some (s.ownerCmd m 5 0 epoch 0)

/-! Boot, reset and power (R40, R406, R424, R425). -/

/-- MODULE_RESET (R40, R17, R211): counters, tags and registers at their reset values, the strap sampled (R414). DRAM, always-on storage
and the surroundings stay; boot follows. -/
def State.moduleReset (s : State) : State :=
  { State.reset with
    mem := s.mem.filter fun c => c.1 < 2 ^ 60
    board := s.board, capsReg := s.board, devid := s.devid, altImage := s.altImage, boots := s.boots, bootTries := s.bootTries, booted := false
    bootJrnl := s.bootJrnl, bootStep := s.bootStep, clockStep := s.bootStep
    msix := s.msix, mirrored := s.mirrored, mirrorOut := s.mirrorOut, sent := s.sent
    inputs := s.inputs, pick := s.pick, slow := s.slow, steps := s.steps }

/-- MODULE_RESET (R40). -/
def evModuleReset (s : State) : Option State := if s.powered then some s.moduleReset else none

/-- CAPS as boot latches it: units that failed and were left off read as absent (R11, R406): the standby, the spare link, and the
field ports that `ports` names. -/
def capsAfter (caps : Word) (standbyOff spareOff : Bool) (ports : Nat) : Word :=
  caps &&& ~~~(w64 (b2n standbyOff * 512 + b2n spareOff * 256 + ports % 4 * 64))

/-- After a failure of the step boot stops (R406). -/
def bootStops (k : Nat) : Bool := k = 1 || k = 10 || k = 11 || k = 16

/-- A step that can be skipped: one after whose failure something is left off (DEDUCED, log entry 122). -/
def bootSkips (k : Nat) : Bool := k = 3 || k = 12 || k = 14 || k = 15

/-- The codes that a step of an attempt may have after the code of the attempt before (R406): after 2 it is done differently, after 5 it
is skipped, where it cannot be there is no further attempt; after 3 or 4 it may be done as it then was, or as at first. -/
def bootMay (k : Nat) (was now : Nat) : Bool :=
  match was with
  | 2 => !bootStops k && (now = 0 || now = 4 || now = 5)
  | 5 => bootSkips k && (now = 0 || now = 3)
  | 3 => now ≤ 3
  | 4 => now ≤ 5 && now ≠ 3
  | _ => now ≤ 2

/-- The code of a step in the record of the last attempt, 0 when there is none. -/
def State.bootWas (s : State) (k : Nat) : Nat :=
  if s.boots = 0 then 0 else leNat ((s.bootJrnl.drop ((s.boots - 1) % 8 * 16)).take 8) / 16 ^ (k - 1) % 16

/-- The codes from step `k` on: steps that are not reached follow one that failed, and none after them or after a failure at which boot
stops is reached (R406, log entry 122). -/
def bootOrder : Nat → List Nat → Bool
  | _, [] => true
  | k, c :: cs =>
    bootOrder (k + 1) cs && (!(c = 0 || (c = 2 && bootStops k)) || cs.all fun x => decide (x = 0)) &&
      (cs.head? ≠ some 0 || c = 0 || c = 2 || c = 5)

/-- The codes of an attempt follow the record of the last one (R406). -/
def State.bootCodes (s : State) (codes : List Nat) : Bool :=
  codes.length = 16 && codes.head? ≠ some 0 && bootOrder 1 codes && codes.zipIdx.all fun x => bootMay (x.2 + 1) (s.bootWas (x.2 + 1)) x.1

/-- An attempt runs at 1.2 GHz: one of the steps 4, 5, 8 and 9 is done differently (R406). -/
def bootSlow (codes : List (BitVec 4)) : Bool := [4, 5, 8, 9].any fun k => codes.getD (k - 1) 0 = 4 || codes.getD (k - 1) 0 = 5

/-- The main clock of an attempt in MHz (R406). -/
def bootMhz (codes : List (BitVec 4)) : Nat := if bootSlow codes then 1200 else 1400

/-- BOOT (R406): an attempt is recorded; it succeeds when every step has passed, been skipped or passed when done differently.
State.pick's bits 1:0 name the field ports left off when step 15 was not simply passed, bit 2 whether the failure of step 3 was
the standby's; where it was the primary's the two cores exchange roles, and the names primary and standby here are those of the roles. -/
def State.boot (s : State) (codes : List (BitVec 4)) (mhz : BitVec 32) : State :=
  let n := s.boots + 1
  let word := codes.reverse.foldl (fun a c => a * 16 + c.toNat) 0
  let at' := (n - 1) % 8 * 16
  let jr := s.bootJrnl.take at' ++ bootRecord word n mhz.toNat ++ s.bootJrnl.drop (at' + 16)
  let s := { s with boots := n, bootTries := s.bootTries + 1, bootJrnl := jr }
  let code (k : Nat) : BitVec 4 := codes.getD (k - 1) 0
  let off (k : Nat) : Bool := code k = 3 || code k = 4
  if codes.all fun c => c = 1 || c = 3 || c = 4 then
    let step := if bootSlow codes then 1 else 0
    { s with
      booted := true, bootStep := step, clockStep := step, own := 0, succ := 0, left := 0, epoch := 0
      capsReg := capsAfter s.board (off 12 || (off 3 && s.pick.testBit 2)) (off 14) (if off 15 then s.pick % 4 else 0) }
  else s

/-- BOOT (R406): at most 4 attempts per power-on; the clock recorded is the attempt's. -/
def evBoot (codes : List (BitVec 4)) (mhz : BitVec 32) (s : State) : Option State :=
  if !s.powered || s.booted || !s.bootCodes (codes.map BitVec.toNat) || 4 ≤ s.bootTries || mhz.toNat ≠ bootMhz codes then none
  else some (s.boot codes mhz)

/-- POWER_ON (R425): the rails come up, DRAM and always-on storage are lost, boot starts. -/
def evPowerOn (s : State) : Option State :=
  if s.powered then none
  else some
    { s.moduleReset with
      mem := [], powered := true, boots := 0, bootTries := 0, bootJrnl := List.replicate 128 0, bootStep := 0, clockStep := 0 }

/-- POWER_DOWN (R425). -/
def evPowerDown (s : State) : Option State := if s.powered then some { s with powered := false, active := false } else none

/-- The power limit in watts of a MODE (R424). -/
def State.powerLimit (s : State) (mode : Nat) : Nat :=
  let big := bits s.devid 47 32 = 0x3260
  match mode with
  | 0 => if big then 120 else 90
  | 1 => if big then 180 else 140
  | _ => if big then 260 else 190

/-- POWER_INTERVAL (R424): the temperature is read, the clock steps down, up or stays. -/
def evPowerInterval (mw : Nat) (tj : BitVec 16) (s : State) : Option State :=
  let top : BitVec 16 := BitVec.ofNat 16 (bits s.temp 31 16)
  let top := if top.toInt < tj.toInt then tj else top
  let lim := 1000 * s.powerLimit (bits s.pwrmode 1 0)
  let tlim : Int := bits s.pwrmode 23 16
  let step :=
    if lim < mw || tlim < tj.toInt then min 3 (s.clockStep + 1)
    else if mw * 100 < lim * 95 && tj.toInt + 5 ≤ tlim then max s.bootStep (s.clockStep - 1)
    else s.clockStep
  some { s with temp := w64 (top.toNat * 65536 + tj.toNat), clockStep := step }

/-! The management window (R410, R411). -/

/-- PWRMODE (R424). -/
def State.pwrWord (s : State) : Word := w64 (s.pwrmode.toNat + s.clockStep * 256)

/-- MSTAT of a master (R410). -/
def State.mstatOf (s : State) (m : BitVec 8) : Word := kvGet 0 s.mstat m.toNat

/-- A read of a register of a master's window (R410). -/
def State.mgmtRead (s : State) (m : BitVec 8) (off : Nat) : Word :=
  match off with
  | 0x000 => s.ownerWord
  | 0x008 => s.capsReg
  | 0x010 => s.devid
  | 0x018 => s.pwrWord
  | 0x020 => s.temp
  | 0x040 => s.ewbase
  | 0x048 => s.ewctl
  | 0x050 => w64 s.ewhead
  | 0x058 => w64 s.ewtail
  | 0x088 => s.darg
  | 0x090 => s.dstat
  | 0x098 => s.mstatOf m
  | _ => 0

/-- A device-control command of a master is refused for want of ownership (R374). -/
def State.refuses (s : State) (m : BitVec 8) : Bool := s.own ≠ 0 && s.left ≠ 0 && s.own ≠ m
/-- REF is set in the master's MSTAT. -/
def State.setRef (s : State) (m : BitVec 8) : State := { s with mstat := kvSet 0 s.mstat m.toNat (s.mstatOf m ||| 1) }

/-- DSTAT.BUSY (R411). -/
def State.dbusy (s : State) : Bool := bit s.dstat 63
/-- DSTAT of a finished command. -/
def doneStat (op res : Nat) : Word := w64 (op % 256 * 256 + res)

/-- A write of DCMD (R411). -/
def State.dcmdWrite (s : State) (m : BitVec 8) (v : Word) : State :=
  if s.dbusy then s.setRef m
  else
    let op := bits v 7 0
    if v.toNat / 256 ≠ 0 || op = 0 || 4 < op then { s with dstat := doneStat op 1 }
    else { s with dstat := w64 (2 ^ 63 + op * 256), dcmdArg := s.darg }

/-- A write of PWRMODE (R424). -/
def State.pwrWrite (s : State) (v : Word) : State :=
  let mode := if bits v 1 0 = 3 then bits s.pwrmode 1 0 else bits v 1 0
  { s with pwrmode := w64 (min 125 (max 70 (bits v 23 16)) * 65536 + mode) }

/-- A write of a register that needs ownership, by a master that has it (R410). -/
def State.deviceWrite (s : State) (m : BitVec 8) (off : Nat) (v : Word) : State :=
  match off with
  | 0x018 => s.pwrWrite v
  | 0x028 => if v = 0x5E5E then s.moduleReset else s
  | 0x040 => if bit s.ewctl 63 then s else { s with ewbase := keep v 0xF_FFFF_FFFF_F000 }
  | 0x048 => s.ewctlWrite v
  | 0x058 => { s with ewtail := bits v 25 0 }
  | 0x080 => s.dcmdWrite m v
  | 0x088 => { s with darg := v }
  | _ => s

/-- The offsets that need ownership (R410). -/
def needsOwner (off : Nat) : Bool := [0x018, 0x028, 0x040, 0x048, 0x058, 0x080, 0x088].contains off

/-- A write of a whole register of a master's window (R410). -/
def State.mgmtWrite (s : State) (m : BitVec 8) (off : Nat) (v : Word) : State :=
  if !s.hasMaster m then s
  else if off = 0 then
    s.ownerCmd m (bits v 63 60) (BitVec.ofNat 8 (bits v 55 48)) (BitVec.ofNat 16 (bits v 47 32)) (BitVec.ofNat 32 (bits v 31 0))
  else if off = 0x098 then { s with mstat := kvSet 0 s.mstat m.toNat (s.mstatOf m &&& ~~~v) }
  else if needsOwner off then (if s.refuses m then s.setRef m else s.deviceWrite m off v)
  else s

/-- The value that a write of half a register stores: the other half unchanged, and zero in a command (R410). -/
def State.halfWord (s : State) (m : BitVec 8) (off : Nat) (half : Option Bool) (v : Word) : Word :=
  let old : Word := if off = 0 || off = 0x028 || off = 0x080 || off = 0x098 then 0 else s.mgmtRead m off
  match half with
  | none => v
  | some true => w64 (bits v 31 0 * 2 ^ 32 + bits old 31 0)
  | some false => w64 (bits old 63 32 * 2 ^ 32 + bits v 31 0)

/-- MRESET (R410). -/
def evMreset (m : BitVec 8) (v : Word) (s : State) : Option State := if s.hasMaster m then some (s.mgmtWrite m 0x028 v) else none

/-- SMBus command 0x10 (R421); the pointer's low byte first (log entry 8). -/
def evSmbusSetPointer (block : List Byte) (pecOk : Bool) (s : State) : Option State :=
  let o := leNat block
  some (if !pecOk || block.length ≠ 2 || o % 8 ≠ 0 then s else { s with smbPtr := o })
/-- SMBus command 0x11 (R421). -/
def evSmbusRead (pecOk : Bool) (s : State) : Option State :=
  some (if pecOk then { s with smbOut := leBytes 8 (s.mgmtRead 0x30 s.smbPtr).toNat } else s)
/-- SMBus command 0x12 (R421), under master 0x30. -/
def evSmbusWrite (block : List Byte) (pecOk : Bool) (s : State) : Option State :=
  some (if !pecOk || block.length ≠ 8 then s else s.mgmtWrite 0x30 s.smbPtr (w64 (leNat block)))

/-! Device commands (R351, R411, R412). -/

/-- A command is under way with this OP and argument, and a dispatch core serves it. -/
def State.serves' (s : State) (op : Nat) (arg : Word) : Bool :=
  s.dbusy && bits s.dstat 15 8 = op && s.dcmdArg = arg && s.dispAlive s.standbyLeads

/-- The command is finished with a result: BUSY and RES change together. -/
def State.finish (s : State) (op res : Nat) : State := { s with dstat := doneStat op res }

/-- A record of Clesto firmware (R440): OP, the tenant, A. -/
def State.firmRecord (s : State) (op ten a : Nat) : State :=
  s.writeRecord (leBytes 8 (ten * 256 + op) ++ leBytes 8 a ++ List.replicate 40 0)

/-- A tenant's ADMIT record in force: A, none for a tenant that is not admitted (R412, R440). -/
def State.liveAdmit (s : State) (t : Nat) : Option Nat :=
  if (s.tenant t).admitted then (s.tenant t).graph.map fun g => dramBase + g.toNat else none

/-- The record that CKPT names is an ADMIT in force, or no tenant is admitted and CKPT is at HEAD (R441). -/
def State.ckptHolds (s : State) : Bool :=
  let r := Mem.bytes s.mem (dispKey false (0x10_0000 + 64 * s.jrnlCkpt)) 64
  let w := leNat ((r.drop 8).take 8)
  if s.jrnlCkpt = s.jrnlHead then ((List.range 16).filterMap s.liveAdmit).isEmpty
  else w % 256 = 1 && s.liveAdmit (w / 256 % 16) = some (leNat ((r.drop 16).take 8))

/-- CKPT moves to the oldest ADMIT in force, every one of them being rewritten first (R441). -/
def State.moveCkpt (s : State) : State :=
  let h := s.jrnlHead
  let s := (List.range 16).foldl (fun s t => match s.liveAdmit t with
    | some a => s.firmRecord 1 t a
    | none => s) s
  { s with jrnlCkpt := h }

/-- The firmware's journal before it writes a record: CKPT moves while there is still room for every ADMIT in force (log entry 123). -/
def State.makeRoom (s : State) : State :=
  if (s.jrnlCkpt + 8191 - s.jrnlHead) % 8192 ≤ 17 then s.moveCkpt else s

/-- The tenant's admission recorded, and CKPT kept at the oldest ADMIT in force (R412, R440, R441). -/
def State.admitRecord (s : State) (ten a : Nat) (x : Tenant) : State :=
  let s := (s.makeRoom.firmRecord 1 ten a).setTenant ten x
  if s.ckptHolds then s else s.moveCkpt

/-- An admission block as read (R412). -/
structure Admission where
  ten : Nat
  ptb : Word
  entry : Word
  gcr : Nat
  icx : Nat
  deriving DecidableEq, Repr

/-- The first check of ADMIT: the block in DRAM, its alignment and reserved fields, PTB.EN (R412). -/
def State.readAdmission (s : State) (a : Nat) : Option Admission :=
  let bs := Mem.bytes s.mem a 64
  let num (o n : Nat) : Nat := leNat ((bs.drop o).take n)
  if a % 64 ≠ 0 || s.dramBytes < a + 64 || 16 ≤ num 0 8 || num 8 8 % 2 = 0 || keep (w64 (num 0x10 8)) 0xFFFF_FFFF_F8FF_0000 ≠ w64 (num 0x10 8) ||
      num 0x18 8 % 64 ≠ 0 || 2 ^ 16 ≤ num 0x20 8 || (bs.drop 0x28).any fun b => b ≠ 0 then none
  else some { ten := num 0 8, ptb := w64 (num 8 8), entry := w64 (num 0x10 8), gcr := num 0x18 8, icx := num 0x20 8 }

/-- The third check of ADMIT: something named belongs to another tenant, or a district is absent (R412). -/
def State.admitTaken (s : State) (a : Admission) : Bool :=
  let rfx := bits a.entry 63 48
  let others := ((List.range 16).filter fun t => t ≠ a.ten).map fun t => s.tenant t
  let range (x : Tenant) : Bool :=
    x.sqen && bit a.entry 47 && decide (x.sqfirst ≤ bits a.entry 46 37) && decide (bits a.entry 36 27 ≤ x.sqlast)
  let taken (x : Tenant) : Bool := x.rfx.toNat &&& rfx ≠ 0 || x.escw.toNat &&& bits a.entry 23 16 ≠ 0 || range x
  let district (i : Nat) : Bool :=
    let arr := decide (8 ≤ i)
    let w := (s.district (distIdx arr (i % 8))).evx.owner
    decide ((if arr then s.refx else s.reas) ≤ i % 8) || (bit w 63 && bits w 3 0 ≠ a.ten)
  others.any taken || ((List.range 16).any fun i => a.icx.testBit i && district i) ||
    (List.range 16).any fun i => rfx.testBit i && decide (s.refx ≤ i / 8)

/-- Interchanges' owner words that `p` picks set. -/
def State.setOwners (s : State) (p : Nat → Interchange → Bool) (v : Word) : State :=
  { s with districts := s.districts.mapIdx fun i d => if p i d.evx then { d with evx := { d.evx with owner := v } } else d }

/-- The writes of ADMIT, in their order (R412); none while a reflex tile's fill generation waits. -/
def State.admitTo (s : State) (a : Admission) : Option State :=
  (s.tenantEntry (w64 (a.entry.toNat + 2 ^ 26 + a.ten))).map fun s' =>
    let s := ({ s' with tid := s.tid }).ptbaseWrite a.ten a.ptb
    let s := (List.range 8).foldl (fun s w => if bit a.entry (16 + w) && (s.win w).tenant ≠ a.ten then s.windowTenant w a.ten else s) s
    let s := s.setOwners (fun i _ => a.icx.testBit (if i < 6 then i else 8 + (i - 6))) (w64 (2 ^ 63 + a.ten))
    s.admitRecord a.ten (dramBase + a.gcr) { s.tenant a.ten with admitted := true, graph := some (w64 a.gcr) }

/-- ADMIT (R411, R412). -/
def evAdmitTenant (darg : Word) (s : State) : Option State :=
  if !s.serves' 1 darg then none
  else match s.readAdmission darg.toNat with
    | none => some (s.finish 1 2)
    | some a =>
      if (s.tenant a.ten).admitted then some (s.finish 1 4)
      else if s.admitTaken a then some (s.finish 1 3)
      else (s.admitTo a).map fun s => s.finish 1 0

/-- The tenant's queued records are discarded and its running work is ended (R351 steps 1 and 2). -/
def State.endTenant (s : State) (ten : Nat) : State :=
  let drop (l : List Queued) : List Queued := l.filter fun q => q.tenant ≠ ten
  let ds := s.districts.map fun d => { d with queue := drop d.queue }
  let s := { s with kicks := s.kicks &&& ~~~(w64 (15 * 2 ^ (4 * ten))), districts := ds, arrayQ := s.arrayQ.map drop }
  let s := s.endCtxs (s.doomed fun c => !c.isDisp && c.tenant = ten)
  let gone := s.launches.filter fun l => l.tenant = ten
  let s := (s.tasks.filter fun k => gone.any fun l => l.num = k.launch).foldl (fun s k =>
    (s.setTile k.tile { s.tile k.tile with held := none }).leaveTile k ten none) s
  gone.foldl State.endLaunch s

/-- The removal of a tenant (R351). A window's next CTL.TENANT is not stated: some other tenant's number. -/
def State.remove (s : State) (ten : Nat) : State :=
  let s := s.endTenant ten
  let other := (ten + 1 + (Config.freeWord s.steps).toNat % 15) % 16
  let s := { s with steps := s.steps + 1 }
  let s := (List.range 8).foldl (fun s w => if (s.win w).tenant = ten && (s.tenant ten).escw.getLsbD w then s.windowTenant w other else s) s
  let s := ((s.slots.filter fun x => x.valid && s.inRange ten x.num).map fun x => x.num).foldl State.invalidate s
  let s := s.ptbaseWrite ten ((s.tenant ten).ptbase &&& ~~~1)
  let tid := s.tid
  let s := (s.tenantEntry (w64 ((s.tenant ten).sqlast % 1024 * 2 ^ 37 + (s.tenant ten).sqfirst % 1024 * 2 ^ 27 + 2 ^ 26 + ten))).getD s
  let s := { s with tid := tid }.setOwners (fun _ x => bit x.owner 63 && bits x.owner 3 0 = ten) 0
  s.admitRecord ten 0 { s.tenant ten with admitted := false, graph := none }

/-- REMOVE (R351, R411). -/
def evRemoveTenant (darg : Word) (s : State) : Option State :=
  if !s.serves' 2 darg then none
  else if !(s.tenant (bits darg 3 0)).admitted then some (s.finish 2 4)
  else some ((s.remove (bits darg 3 0)).finish 2 0)

/-- SEIZE (R333, R411). -/
def evDcmdSeize (darg : Word) (s : State) : Option State :=
  if !s.serves' 3 darg then none else some ({ s with seizecfg := keep darg s.seizeMask }.finish 3 0)

/-- FWUPD (R411): the image is checked and written; State.pick other than 0 says that the flash write fails. -/
def evFwupd (darg : Word) (s : State) : Option State :=
  if !s.serves' 4 darg then none
  else
    let a := darg.toNat
    let num (o n : Nat) : Nat := leNat (Mem.bytes s.mem (a + o) n)
    let len := num 0 4
    if a % 64 ≠ 0 || s.dramBytes < a + 16 + len || num 8 8 ≠ 0 || (crc32 (Mem.bytes s.mem (a + 16) len)).toNat ≠ num 4 4 then
      some (s.finish 4 2)
    else if s.pick ≠ 0 then some (s.finish 4 5)
    else some ({ s with altImage := some (Mem.bytes s.mem (a + 16) len) }.finish 4 0)

/-! Field ports, time, contact pins (R416 to R420). -/

/-- The field port is in service (R11). -/
def State.fport (s : State) (port : Bool) : Bool := bit s.capsReg (6 + b2n port)

/-- An input pulses in every district that is present. -/
def State.pulseAll (s : State) (sig : Nat) : State :=
  (List.range 8).foldl (fun s i => if (if i < 6 then decide (i < s.reas) else decide (i - 6 < s.refx)) then s.pulse i sig else s) s

/-- CONTACT_EDGE (R420). -/
def evContactEdge (pin : R3) (s : State) : Option State := some (s.pulseAll (48 + pin.toNat))

/-- The class that a frame is delivered to: the lowest enabled one that matches (R417). -/
def State.classOf (s : State) (port : Bool) (pcp : R3) (etype : BitVec 16) : Option Nat :=
  (List.range 4).find? fun c =>
    let r := s.ring (b2n port * 5 + c)
    bit r.words[0] 63 && r.slots ≠ 0 && bits r.words[0] 47 32 = etype.toNat && bit r.words[0] (24 + pcp.toNat)

/-- A frame counted as dropped, saturating (R417). -/
def State.dropFrame (s : State) (i : Nat) : State := s.setRing i { s.ring i with drops := min ((s.ring i).drops + 1) (2 ^ 32 - 1) }

/-- A slot's header (R418). -/
def slotHeader (stamp : Int) (len : Nat) (port : Bool) (cls seq : Nat) : List Byte :=
  leBytes 8 (Sys2Proof.i64 stamp).toNat ++ leBytes 2 len ++ [BitVec.ofNat 8 (b2n port), BitVec.ofNat 8 cls] ++ leBytes 4 seq ++ List.replicate 16 0

/-- The identity of a port's accesses: the tile task of lowest rank bound to the tile (R418). -/
def State.portIssuer (s : State) (t : Loc) : Option Issuer :=
  ((s.lowestTask t).bind fun k => s.ctxOfTask k.num).map fun c => { c.issuer 5 with esc := none }

/-- A frame written into the ring's slot: the frame granules, then the header granule, each marked full (R418). -/
def State.deliver (s : State) (i : Nat) (port : Bool) (cls : Nat) (iss : Issuer) (frame : List Byte) : State :=
  let r := s.ring i
  let key := tileKey (ringTile r.words[0]) (r.slotOff r.pos)
  let s := s.putAll iss (key + 32) frame (frame.length / 32 + 2)
  let s := (List.range (cdiv frame.length 32)).foldl (fun s g => s.setFull (key / 32 + 1 + g) iss.gen none true) s
  let s := (s.putAll iss key (slotHeader s.timeNs frame.length port cls r.seq) 2).setFull (key / 32) iss.gen none true
  (s.setRing i { s.ring i with pos := (r.pos + 1) % r.slots, seq := (r.seq + 1) % 2 ^ 32 }).pulseAll (40 + 4 * b2n port + cls)

/-- FRAME_RECEIVE (R416 to R418). -/
def evFrameReceive (port : Bool) (pcp : R3) (etype : BitVec 16) (frame : List Byte) (s : State) : Option State :=
  if !s.fport port || etype = 0x88F7 then none
  else match s.classOf port pcp etype with
    | none => some s
    | some c =>
      let i := b2n port * 5 + c
      let r := s.ring i
      let t := ringTile r.words[0]
      some (match r.header r.pos, s.portIssuer t with
        | some h, some iss =>
          if !r.started || !s.hasTile t || !r.inside || 2016 < frame.length || (s.gran h).full || (s.gran h).poison then s.dropFrame i
          else s.deliver i port c iss frame
        | _, _ => s.dropFrame i)

/-- The transmit ring of a port, when it has a full slot to send: the ring, the header granule and the identity (R405, R418). -/
def State.sendable (s : State) (port : Bool) : Option (Nat × Nat × Issuer) :=
  let i := b2n port * 5 + 4
  let r := s.ring i
  let t := ringTile r.words[0]
  if !s.active || !s.fport port || !bit r.words[0] 63 || !r.started || r.slots = 0 || !s.hasTile t then none
  else match r.header r.pos, s.portIssuer t with
    | some h, some iss => if (s.gran h).full then some (i, h, iss) else none
    | _, _ => none

/-- FRAME_TRANSMIT (R418) by the port that State.pick names. -/
def evFrameTransmit (s : State) : Option State :=
  let port := s.pick = 1
  if 2 ≤ s.pick then none
  else (s.sendable port).map fun (i, h, iss) =>
    let r := s.ring i
    let t := ringTile r.words[0]
    let off := r.slotOff r.pos
    let len := leNat (s.readLocal iss t (off + 8) 2)
    let frame := s.readLocal iss t (off + 32) (min len 2016)
    let s := s.putAll iss (h * 32) (leBytes 8 (Sys2Proof.i64 s.timeNs).toNat) 2
    let s := s.setFull h iss.gen none false
    { s.setRing i { s.ring i with pos := (r.pos + 1) % r.slots, seq := (r.seq + 1) % 2 ^ 32 } with sent := s.sent ++ [(decide port, frame)] }

/-- PTP_FRAME (R416) at the port that State.pick names: the timestamp unit takes the time. -/
def evPtpFrame (s : State) : Option State :=
  if 2 ≤ s.pick || !s.fport (s.pick = 1) then none else some { s with ptp := some (decide (s.pick = 1), s.timeNs) }

/-- Timers on TIMENS after a step backwards wait for the next multiple of their period (R330). -/
def State.settleTimers (s : State) : State :=
  let f (x : Interchange) : Interchange :=
    { x with timerQ := Vector.ofFn fun i : Fin 8 => if bit x.timers[i] 62 then min x.timerQ[i] (s.timerQ x.timers[i]) else x.timerQ[i] }
  { s with districts := s.districts.map fun d => { d with evx := f d.evx } }

/-- TIMENS_DISCIPLINE (R419): a slew of at most 500 ppm of the time since the last, or a step of more than 1 ms, which Ewedex
records; it needs a port (R13). -/
def evTimensDiscipline (slew : Bool) (amount : Int) (s : State) : Option State :=
  if !s.fport false && !s.fport true then none
  else if slew then
    if (s.refTicks - s.slewAt) * 5 / 7 < amount.natAbs * 2000 then none
    else some ({ s with timeOff := s.timeOff + amount, slewAt := s.refTicks }.settleTimers)
  else if amount.natAbs ≤ 1000000 then none
  else some (({ s with timeOff := s.timeOff + amount, slewAt := s.refTicks }.settleTimers).trace 12 none none)

/-! The hot spare (R405, R414). -/

/-- ACTIVE_ASSERT (R405): the partner's pin has been read low for 1,024 cycles. -/
def evActiveAssert (s : State) : Option State := if s.active || s.cyc < s.activeFrom then none else some { s with active := true }

/-- ACTIVE_TIE (R414): both assert in one cycle; the secondary, or a module strapped as its partner (State.pick 1), withdraws. -/
def evActiveTie (s : State) : Option State :=
  if s.active || s.cyc < s.activeFrom then none
  else if bit s.capsReg 10 || s.pick = 1 then some { s with activeFrom := s.cyc + 4 + 1024 } else some { s with active := true }

/-- A record of the journal from the copy whose check passes (R404 step 3). -/
def State.goodRecord (s : State) (i : Nat) : Option (List Byte) :=
  let rec' (base : Nat) : List Byte := Mem.bytes s.mem (dispKey false (base + 64 * i)) 64
  let ok (r : List Byte) : Bool := (crc32 (r.drop 8)).toNat = leNat (r.take 4)
  if ok (rec' 0x10_0000) then some (rec' 0x10_0000) else if ok (rec' 0x18_0000) then some (rec' 0x18_0000) else none

/-- The effect of a record on a replay that re-admits tenants (R405, R440). -/
def State.replayRecord (s : State) (r : List Byte) : State :=
  let w := leNat ((r.drop 8).take 8)
  let a := leNat ((r.drop 16).take 8)
  let t := w / 256 % 16
  if w % 256 ≠ 1 then s
  else if a = 0 then s.setTenant t { s.tenant t with admitted := false, graph := none }
  else s.setTenant t { s.tenant t with admitted := true, graph := some (w64 (a - dramBase)) }

/-- The records from an index on, `n` at most, until HEAD or a record that fails in both copies. -/
def State.replay (s : State) (i : Nat) : Nat → State
  | 0 => s
  | n + 1 => if i = s.jrnlHead then s else match s.goodRecord i with
    | none => s
    | some r => (s.replayRecord r).replay ((i + 1) % 8192) n

/-- A tenant's registered graph-control record launched by the firmware at priority 6 with LR = 1 (R293, R412): its ROOT record is
journalled first, and the launch carries its SEQ[31:0] as its action tag (R403, R440, R441). -/
def State.launchGraph (s : State) (ten : Nat) (pa : Word) : State :=
  let s := s.makeRoom.firmRecord 2 ten (dramBase + pa.toNat)
  let bs := Mem.bytes s.mem pa.toNat 64
  let r := { parseLaunch bs with prio := 6, lr := true }
  match badLaunch s bs r .m true, seedOps r.seedv r.seedops [] with
  | none, .ok st =>
    { s with next := s.next + 1, launchTags := noteTag s.launchTags (w64 (s.jrnlSeq % 2 ^ 32)) }.enqueue
      { num := s.next, lrec := r, tenant := ten, seeds := st, enq := s.cyc, root := some pa }
  | _, _ => s

/-- The queue of a registered record has room for it (R295). -/
def State.rootRoom (s : State) (pa : Word) : Bool := decide ((s.queueOf (parseLaunch (Mem.bytes s.mem pa.toNat 64))).length < 64)

/-- The graph-control tasks that the firmware is still to start, in order; one whose queue is full is waited for before its ROOT record is
written, since no other record comes between that and its LAUNCH (R295, R325, R441; log entry 123). -/
def State.startRoots (s : State) : Nat → State
  | 0 => s
  | n + 1 => match s.rootsDue with
    | [] => s
    | (t, pa) :: rest =>
      if s.dispAlive s.standbyLeads && s.rootRoom pa then State.startRoots { s.launchGraph t pa with rootsDue := rest } n else s

/-- FAILOVER (R405): the firmware of the spare module asserts ACTIVE, replays the journal to admit the tenants again, keeps CKPT at the
oldest ADMIT in force (R441) and starts their graph-control tasks. -/
def evFailover (s : State) : Option State :=
  if !s.spare || s.active || s.cyc < s.activeFrom || !s.dispAlive s.standbyLeads then none
  else
    let s := { s with active := true }.replay s.jrnlCkpt 8192
    let s := if s.ckptHolds then s else s.moveCkpt
    let due := (List.range 16).filterMap fun t => if (s.tenant t).admitted then (s.tenant t).graph.map fun pa => (t, pa) else none
    some (State.startRoots { s with rootsDue := due } 16)

end Sys2Proof.Machine
end

