-- ==== Sys2Proof/Machine/Sampling.lean ====
section
/-! DEFINITION. MSUM, TSRCH, TMASS, TDESC and TFIND (R187 to R194), and the completion of vector queue entries (R129, R150,
R192). -/

namespace Sys2Proof.Machine

/-! Slice sums (R187). -/

/-- The value of an f32 code. -/
def f32Val (code : Nat) : Val := (ETy.f32.value (code % 2 ^ 32)).1

/-- round_f32 of R192 and R193, under RNE, after an operation on values. -/
def roundF32 (x : Val × FF) : Nat × FF :=
  let c := ETy.f32.conv {} x.1
  (c.1, x.2 ||| c.2)

/-- IV where one of a slice's elements is a NaN (R187). -/
def nanFlag (vals : List Val) : FF := if vals.any Val.isNan then ffIV else 0

/-- `a ≥ b`; false where either is a NaN. -/
def Val.ge (a b : Val) : Bool := b.lt a || a.eq b

/-- The term of an element under a threshold (R187). -/
def massTerm (th : Val) (v : Val) : Val := if v.ge th then v else .zero false

/-- A slice's terms. -/
def massTerms (th : Val) (vals : List Val) : List Val := vals.map (massTerm th)

/-- The running sums A_g of a slice in f32 under RNE, and the flags with IV for NaN elements (R187). -/
def massSums (th : Val) (vals : List Val) : List Nat × FF :=
  let r := rowSumGo .f32 {} (fun _ => 0) 0 none 0 (groups16 (cdiv vals.length 16) (massTerms th vals))
  (r.1, r.2 ||| nanFlag vals)

/-- A, the last running sum. -/
def mass (th : Val) (vals : List Val) : Nat × FF :=
  let r := massSums th vals
  (r.1.getLastD 0, r.2)

/-- MSUM's result (R189). -/
def msumWord (th : Val) (vals : List Val) : Word × FF :=
  let r := mass th vals
  (w64 ((vals.filter fun v => v.ge th).length % 2 ^ 32 * 2 ^ 32 + r.1), r.2)

/-- TSRCH's search (R190): `it` passes left. -/
def tsrchGo (p : Val) (vals : List Val) : Nat → Nat → Nat → FF → Nat × FF
  | 0, lo, _, ff => (lo, ff)
  | it + 1, lo, hi, ff =>
    if 1 < hi - lo then
      let mid := (lo + hi) / 2
      let m := mass (f32Val mid) vals
      if (f32Val m.1).ge p then tsrchGo p vals it mid hi (ff ||| m.2) else tsrchGo p vals it lo mid (ff ||| m.2)
    else (lo, ff)

/-- TSRCH's threshold (R190). -/
def tsrchLo (pcode slim : Nat) (vals : List Val) : Nat × FF :=
  let p := f32Val pcode
  if p.isNan then (0, ffIV)
  else if !(Val.zero false).lt p || p.isInf then (0, 0)
  else tsrchGo p vals slim 0 0x7F80_0000 0

/-- A term is not zero. -/
def Val.some' (v : Val) : Bool := !v.isZero

/-- The first place from `n` on at which `f` holds. -/
def firstPlace (f : Nat → Bool) (n len : Nat) : Option Nat := ((List.range len).map (· + n)).find? f

/-- TFIND's result (R194). -/
def tfindWord (th rem : Val) (vals : List Val) : Word :=
  let terms := massTerms th vals
  let some' (j : Nat) : Bool := ((terms.getD j (.zero false)).some')
  let n := terms.length
  let last (hi : Nat) : Option Nat := ((List.range hi).filter some').getLast?
  match last n with
  | none => allOnes
  | some j =>
    let sums := (massSums th vals).1
    match (List.range sums.length).find? fun g => rem.lt (f32Val (sums.getD g 0)) with
    | none => w64 j
    | some g =>
      let size := min 16 (n - 16 * g)
      match firstPlace some' (16 * g) size with
      | none => w64 ((firstPlace some' 0 n).getD 0)
      | some _ =>
        let before : Val := if g = 0 then .zero false else f32Val (sums.getD (g - 1) 0)
        let e := (Val.add .rne rem before.neg).1
        let upto (k : Nat) : Val := (sumVals .rne ((terms.drop (16 * g)).take (k + 1 - 16 * g))).1
        match firstPlace (fun k => some' k && e.lt (upto k)) (16 * g) size with
        | some k => w64 k
        | none => w64 ((last (16 * g + size)).getD 0)

/-- A slice read: the values of its elements and where the unit stopped; nothing at all while it must wait. -/
def sliceRead (s : State) (e : VEntry) (a : Shape) : Except Unit (List Val × Option (Ix × Byte × Nat)) :=
  unitGo (fun vals j => do
    let code ← s.unitCode e.iss a j
    let scl ← s.unitScale e.iss false a j
    .ok (vals ++ [(a.ty.scaled code scl).1])) a.ixs []

/-- The first elements of a slice have been read, `n` of them: its synchronising granules are emptied (R135). -/
def sliceDone (s : State) (e : VEntry) (a : Shape) (n : Nat) : State := s.syncDone e.iss a false (a.ixs.take n) (a.ixs.drop n)


/-! The sampling tree (R191 to R193). -/

/-- A word of 4 bytes of a tree block, as a unit reads it. -/
def State.treeWord (s : State) (i : Issuer) (va : Nat) : U Nat := do
  let b ← s.unitBytes i false ((List.range 4).map fun k => va + k)
  .ok (leNat (b.map fun x => x.2))

/-- A word of a tree block written at its home. -/
def State.setTreeWord (s : State) (i : Issuer) (va v : Nat) : U State :=
  s.unitPuts i false (fun _ => true) ((List.range 4).map fun k => (va + k, 0, v / 2 ^ (8 * k) % 256))

/-- A strong access of TMASS to `n` bytes of a tree block: MIXED, then its range noted (R240, log entry 114). -/
def State.treeStrong (s : State) (i : Issuer) (va n : Nat) : U State :=
  match s.resolve i va .rmw with
  | .error .hold => .error .hold
  | .error (.cause c) => .error (.fault c va)
  | .ok r =>
    if i.mixtrap && (s.gran (r.key / 32)).mixes (r.key % 32) n then .error (.fault cMIXED va) else .ok (s.noteStrong r.key n)

/-- One indivisible update of TMASS's climb (R192): the heap position after it, none when the climb is over, the mass there, and the
flags of the sum. -/
def treeStep (s : State) (e : VEntry) (k m : Nat) : U (State × Option Nat × Nat × FF) := do
  let blk := e.block.toNat
  if k = 0 then
    let s ← s.treeStrong e.iss (blk + 4) 8
    let s ← s.setTreeWord e.iss (blk + 4) m
    let s ← s.setTreeWord e.iss (blk + 8) 1
    .ok (s, none, m, 0)
  else
    let j := (k - 1) / 2
    let node := blk + 0x20 + 16 * j
    let left := k % 2 == 1
    let bit' := if left then 1 else 2
    let s ← s.treeStrong e.iss node 16
    let arr ← s.treeWord e.iss (node + 8)
    if arr.testBit (if left then 0 else 1) then .error (.fault 0x31 node)
    let s ← s.setTreeWord e.iss (if left then node else node + 4) m
    let s ← s.setTreeWord e.iss (node + 8) (arr + bit')
    if arr + bit' = 3 then
      let l ← s.treeWord e.iss node
      let r ← s.treeWord e.iss (node + 4)
      let x := roundF32 (Val.add .rne (f32Val l) (f32Val r))
      .ok (s, some j, x.1, x.2)
    else .ok (s, none, m, 0)

/-- TMASS with its mass formed: the climb starts at the leaf, with the slice sum's flags (R192). -/
def VEntry.startClimb (e : VEntry) (th : Val) (vals : List Val) : VEntry :=
  let m := mass th vals
  { e with climb := some (some (e.leaves - 1 + e.acc.toNat % 2 ^ 32), m.1, m.1), ff := e.ff ||| m.2 }

/-- MSUM, TSRCH or TFIND over the values of its slice (R189, R190, R194). -/
def sampleRun (s : State) (e : VEntry) (vals : List Val) : VDone :=
  let th := f32Val s.c.sthr.toNat
  match e.op with
  | .tsrch =>
    let lo := tsrchLo (e.acc.toNat % 2 ^ 32) e.slim vals
    let r := msumWord (f32Val lo.1) vals
    { s := { s with c := { s.c with sthr := BitVec.ofNat 32 lo.1 } }, acc := some r.1, ff := lo.2 ||| r.2 }
  | .tfind => { s := s, acc := some (tfindWord th (f32Val e.acc.toNat) vals), ff := (massSums th vals).2 }
  | _ =>
    let r := msumWord th vals
    { s := s, acc := some r.1, ff := r.2 }

/-! The head of a vector queue (R129, R150). -/

/-- The operation is one of R187. -/
def VOp.isSample : VOp → Bool
  | .msum | .tsrch | .tmass | .tfind => true
  | _ => false

/-- Earlier MMST and MMLD of the context that touch the entry's bytes (R171). -/
def State.matrixFirst (s : State) (e : VEntry) : Bool :=
  let keys := s.keysOf e.iss (e.shapes.flatMap Shape.addrs)
  s.c.mq.any fun m => m.order < e.order && m.moves.any fun sh => (s.keysOf m.iss sh.addrs).any fun k => keys.contains k

/-- What the head of the queue comes to; nothing while it must wait, nor while TMASS's climb is not over. -/
def vheadRun (s : State) (e : VEntry) : Option VDone :=
  if !e.op.isSample then e.run s
  else match e.climb with
    | some (some _, _, _) => none
    | some (none, _, own) => some { s := s, acc := some (w64 own), ff := e.ff }
    | none =>
      let a := e.a.getD {}
      match sliceRead s e a with
      | .error () => none
      | .ok (vals, some (j, c, va)) => some { s := sliceDone s e a (a.ord j), ff := nanFlag vals, stop := some (a.ord j, c, va) }
      | .ok (vals, none) => if e.op = .tmass then none else some (sampleRun (sliceDone s e a a.count) e vals)

/-- TMASS at the head with its climb started; nothing where it is over, or its slice cannot be read. -/
def climbStart (s : State) (e : VEntry) : Option (State × VEntry) :=
  if e.op ≠ .tmass then none
  else match e.climb with
    | some _ => some (s, e)
    | none => match sliceRead s e (e.a.getD {}) with
      | .ok (vals, none) => some (sliceDone s e (e.a.getD {}) (e.a.getD {}).count, e.startClimb (f32Val s.c.sthr.toNat) vals)
      | _ => none

/-- TMASS's next update, after which its flags are the entry's (R110, R192); nothing when the climb is over. -/
def climbRun (s : State) (e : VEntry) : Option (U (State × VEntry)) :=
  match e.climb with
  | some (some k, m, own) => some (do
    let r ← treeStep s e k m
    .ok (r.1, { e with climb := some (r.2.1, r.2.2.1, own), ff := e.ff ||| r.2.2.2 }))
  | _ => none

/-- The entry stands before every other of its core's vector queue (R128, R129). -/
def State.firstOfCore (s : State) (e : VEntry) : Bool := (s.coreQueue s.c.place).all fun x => decide (e.order ≤ x.order)

/-- The head of a core's vector queue, when it is the moving context's and its unit works. -/
def State.vhead (s : State) : Option (VEntry × List VEntry) :=
  if !s.unitsRun s.c then none
  else match s.c.vq with
    | [] => none
    | e :: es => if s.matrixFirst e || !s.firstOfCore e then none else some (e, es)

/-- TREE_UPDATE (R192); a climb that starts makes its first update in the same event. -/
def evTreeUpdate (s : State) : Option State :=
  match s.vhead with
  | none => none
  | some (e, es) => match (climbStart s e).bind fun x => climbRun x.1 x.2 with
    | some (.ok (s', e')) => some { s' with c := { s'.c with vq := e' :: es } }
    | _ => none

/-- What an entry has done when the residue check of a result keeps failing, `n` results of its pass being done (R392): an instruction
on a slice has one result, ACC. Which elements make a lane group is not given, so any result may be the first that is not written
(log entry 119). -/
def checkRun (s : State) (e : VEntry) (n : Nat) : Option VDone :=
  if e.op.isSample then (if n = 0 then some { s := s, ff := e.ff } else none)
  else if n < e.pass.length then e.runTo s n else none

/-- A residue mismatch that persists (R392): the entry stops under R150 with CHECK in place of ENGINE, later ones are discarded, and
an ACC that one of them would have filled is zero (R23). -/
def State.stopCheck (s : State) (e : VEntry) (es : List VEntry) (d : VDone) : State :=
  let c := { s.c with vq := [], fflags := s.c.fflags ||| d.ff, check := s.c.check ++ [(.vector, e.iss.pc)] }
  { s with c := if (e :: es).any (fun x => x.op.fillsAcc) then c.fillAcc 0 {} 0 {} else c }

/-- VECTOR_ENTRY_COMPLETE (R129, R110, R151, R144); State.pick other than 0 says that the residue check of result pick - 1 fails twice
(R392). -/
def evVectorEntryComplete (s : State) : Option State :=
  match s.vhead with
  | none => none
  | some (e, es) =>
    if s.pick ≠ 0 && bit s.chkcfg 1 then match checkRun s e (s.pick - 1) with
      | some { s := s', ff := ff, acc := acc, stop := none } => some (s'.stopCheck e es { s := s', ff := ff, acc := acc })
      | _ => none
    else match vheadRun s e with
    | some { s := s', ff := ff, acc := acc, stop := none } =>
      let c := { s'.c with vq := es, fflags := s'.c.fflags ||| ff }
      let c := match acc with
        | none => c
        | some v => c.fillAcc v {} 0 {}
      some ({ s' with c := c, steps := s'.steps + e.pass.length }.requestFpx ff e.traps e.iss.pc e.order)
    | _ => none

/-- The stop of an entry: the report, later entries discarded, an ACC that they would have filled made zero (R150, R23). The flags of
the elements done are ORed into FFLAGS; no FPX is requested for them, since R151 speaks of instructions that complete (DESIGN CHOICE,
log entry 114). -/
def State.stopVector (s : State) (e : VEntry) (es : List VEntry) (d : VDone) (unit : RUnit) (ord : Nat) (cause : Byte) (va : Nat) :
    State :=
  let r : Report := { unit := unit, sub := cause, addr := w64 va, pc := e.iss.pc, disc := es.length, e1 := w64 ord, time := s.cyc }
  let c := { s.c with vq := [], fflags := s.c.fflags ||| d.ff, reports := s.c.reports ++ [r] }
  { s with c := if (e :: es).any (fun x => x.op.fillsAcc) then c.fillAcc 0 {} 0 {} else c }

/-- VECTOR_FAULT_STOP (R150, R192). -/
def evVectorFaultStop (s : State) : Option State :=
  match s.vhead with
  | none => none
  | some (e, es) =>
    match (climbStart s e).bind fun x => (climbRun x.1 x.2).map fun r => (x, r) with
    | some ((s', e'), .error (.fault c va)) => some (s'.stopVector e es { s := s', ff := e'.ff } .tree 0 c va)
    | _ => match vheadRun s e with
      | some { s := s', ff := ff, acc := acc, stop := some (ord, c, va) } =>
        some (s'.stopVector e es { s := s', ff := ff, acc := acc } .vector ord c va)
      | _ => none

/-! Issue (R187, R188). -/

/-- The slice that an instruction names, checked (R187). -/
def sliceRecord (a : R3) (opnd : Nat) : M Shape := do
  let s ← get
  let sh ← readRecord (a + s.c.stagger) opnd
  raiseIf (sh.rank != 1 || !(sh.ty = .f32 || sh.ty = .f16 || sh.ty = .bf16)) cSHAPE (shapeVal opnd 9)
  raiseIf sh.strm cSHAPE (shapeVal opnd 13)
  pure sh

/-- A sampling instruction queued with what it samples (R128, R187). -/
def sampleQueue (op : VOp) (sh : Shape) (acc : Word) (block : Word) (leaves : Nat) : M Unit := do
  let s ← get
  let iss := s.c.issuer s.c.defscope
  let x ← translateShape iss sh .read sh.ixs
  vqueue { op := op, a := some sh, acc := acc, block := block, leaves := leaves, slim := s.c.slim.toNat
           traps := s.c.fpCtl.traps, iss := { iss with xlat := x } } 0

/-- MSUM (R189). -/
def msumOp (a : R3) : M Unit := do
  ownWork
  let sh ← sliceRecord a 1
  sampleQueue .msum sh 0 0 0

/-- TSRCH and TFIND (R190, R194): ACC is sampled at issue. -/
def sampleAcc (op : VOp) (a : R3) : M Unit := do
  ownWork
  let sh ← sliceRecord a 1
  let v ← readAcc
  sampleQueue op sh v 0 0

/-- The address of a tree block: WHY 8, then WHY 4, with OPND = 0 (R191, R192). -/
def treeBlock (p : R3) (i : Issuer) : M Word := do
  let s ← get
  let ea ← baseAddr (p + s.c.stagger)
  raiseIf (ea.toNat % 64 != 0) cSHAPE (shapeVal 0 8)
  raiseIf (match s.window i ea.toNat (ea.toNat + 63) with
    | some .dram | none => true
    | _ => false) cSHAPE (shapeVal 0 4)
  pure ea

/-- A tree block's whole range lies in its window. -/
def treeFits (i : Issuer) (ea : Word) (leaves : Nat) : M Unit := do
  let s ← get
  raiseIf (s.window i ea.toNat (ea.toNat + 0x20 + 16 * (leaves - 1) - 1)).isNone cSHAPE (shapeVal 0 4)

/-- TMASS (R192). -/
def tmassOp (p a : R3) : M Unit := do
  ownWork
  let s ← get
  let iss := s.c.issuer s.c.defscope
  let ea ← treeBlock p iss
  let sh ← sliceRecord a 1
  let leaf ← readAcc
  let bs ← loadBytes iss ea 4
  let l := leNat bs
  raiseIf (decide (l < 2) || decide (64 < l) || decide (l ≤ leaf.toNat)) cSHAPE (shapeVal 0 16)
  treeFits iss ea l
  sampleQueue .tmass sh leaf ea l

/-- A 4-byte word loaded. -/
def loadWord4 (i : Issuer) (va : Word) : M Nat := do
  let bs ← loadBytes i va 4
  pure (leNat bs)

/-- The descent of TDESC (R193), with its flags: `n` levels left. -/
def descend (i : Issuer) (ea : Word) (leaves : Nat) : Nat → Nat → Nat → FF → M (Nat × Nat × FF)
  | 0, k, rem, ff => pure (k, rem, ff)
  | n + 1, k, rem, ff =>
    if leaves - 1 ≤ k then pure (k, rem, ff)
    else do
      let node := ea + w64 (0x20 + 16 * k)
      let l ← loadWord4 i node
      let r ← loadWord4 i (node + 4)
      let x := roundF32 (Val.add .rne (f32Val rem) (f32Val l).neg)
      if (f32Val rem).lt (f32Val l) || r = 0 then descend i ea leaves n (2 * k + 1) rem ff
      else descend i ea leaves n (2 * k + 2) x.1 (ff ||| x.2)

/-- TDESC (R193); its flags are raised, and FPX is requested, when its result arrives (R110, R151). Its block takes the traps that R192 gives
TMASS, and a LEAVES outside 2 to 64 is not checked: the descent ends at the first node from LEAVES - 1 on, its place counted from there
(DESIGN CHOICE, log entry 114: R193 gives no check). -/
def tdescOp (p : R3) : M Unit := do
  let s ← get
  qtabCheck s.c.mint s.c.qdim.toNat
  let iss := s.c.issuer 5
  let ea ← treeBlock p iss
  let done ← loadWord4 iss (ea + 8)
  waitIf (done != 1)
  let total ← loadWord4 iss (ea + 4)
  let leaves ← loadWord4 iss ea
  let u := mintFormat 1 (s.c.mint.point s.c.qdim.toNat s.c.qidx.toNat)
  emptyAcc
  modCtx fun c => { c with qidx := c.qidx + 1 }
  let t := f32Val total
  let r ← if total = 0 || t.isNan || t.isInf then pure ((0xFFFF_FFFF_0000_0000 : Word), if total = 0 then 0 else ffIV)
    else do
      let rem := roundF32 ((f32Val u).mul t)
      let r ← descend iss ea leaves 64 0 rem.1 rem.2
      pure (w64 ((r.1 - (leaves - 1)) * 2 ^ 32 + r.2.1), r.2.2)
  addJob (.leaf r.1 r.2 s.c.fpCtl.traps s.c.pc s.next)

/-- MSUM (R189). -/
def execMsum (a : R3) (s : State) : Out := once 2 (msumOp a) s
/-- TSRCH (R190). -/
def execTsrch (a : R3) (s : State) : Out := once 2 (sampleAcc .tsrch a) s
/-- TMASS (R192). -/
def execTmass (p a : R3) (s : State) : Out := once 2 (tmassOp p a) s
/-- TDESC (R193). -/
def execTdesc (p : R3) (s : State) : Out := once 2 (tdescOp p) s
/-- TFIND (R194). -/
def execTfind (a : R3) (s : State) : Out := once 2 (sampleAcc .tfind a) s

end Sys2Proof.Machine
end

