-- ==== Sys2Proof/Machine/Scalar.lean ====
section
/-! DEFINITION. The scalar instructions of page 0 (R111 to R121): moves, arithmetic, MAC, unary forms. -/

namespace Sys2Proof.Machine

/-- ST (R116): ACC read before memory is accessed, then the access, then the step. -/
def storeOp (p : Pre) (m : MemOpd) (i : Nat) : M Unit := do
  let v ← readAcc
  let s ← get
  let iss := s.c.issuer (s.c.scopeOf p)
  let o ← opnd (s.c.field p 0 i m.n) (memX p m.x i)
  let bs := leBytes o.ty.bytes v.toNat
  match m.form with
  | .sync => syncStore iss o.ea bs
  | f => do
    storeBytes iss o.ea bs
    stepPtr o f

/-- The second access of MAC: element 0 at the pointer, stepped up (R120). -/
def macSecond (iss : Issuer) (q : R3) : M SrcVal := do
  let o ← opnd q 0
  let v ← readElem iss o
  stepPtr o .up
  pure v

/-- The two operands of MAC, in the order of R120. With a synchronising first operand, its register, SHAPE and ALIGN traps come
before the second access, and its remaining traps after it: R120 makes the second access first and leaves that split open, so
it is the model's choice (log entry 109). -/
def macOperands (p : Pre) (src : Src9) (iss : Issuer) (q : R3) (i : Nat) : M (SrcVal × SrcVal) :=
  match src with
  | .mem ⟨.sync, n, x⟩ => do
    let s ← get
    let o ← opnd (s.c.field p 0 i n) (memX p x i)
    let b ← macSecond iss q
    let a ← syncElem iss o
    pure (a, b)
  | _ => do
    let a ← source p i src
    let b ← macSecond iss q
    pure (a, b)

/-- The register number of the second pointer of MAC (R120): PFX.X's, or the one after N as it stands after the stagger and
STEP bit 0; then STEP bit 1. -/
def macQ (c : Ctx) (p : Pre) (src : Src9) (i : Nat) : R3 :=
  match p.x, src with
  | some x, _ => c.field p 1 i x.q
  | none, .mem m => c.field p 0 i m.n + 1 + BitVec.ofNat 3 (p.stepAdd 1 i)
  | none, _ => 0

/-- MAC (R120); ACC is read before the operands, as by the other instructions on ACC (log entry 109). -/
def macOp (p : Pre) (src : Src9) (i : Nat) : M Unit := do
  let acc ← readAcc
  let s ← get
  let iss := s.c.issuer (s.c.scopeOf p)
  let ab ← macOperands p src iss (macQ s.c p src i) i
  let later (a : Elem ⊕ Word) (b : Option Elem) : M Unit := deferLoad iss .add acc a b
  match ab with
  | (.now a, .now b) => writeResult (AluOp.add.eval acc (a * b))
  | (.later a, .later b) => later (.inl a) (some b)
  | (.later a, .now b) | (.later a, .sent b) => later (.inr b) (some a)
  | (.now a, .later b) | (.sent a, .later b) => later (.inr a) (some b)
  | (.sent a, .now b) | (.now a, .sent b) | (.sent a, .sent b) => later (.inr (a * b)) none

/-- A unary form on ACC (R121); SETF leaves ACC as it is, tag included. -/
def unary (op : UnOp) : M Unit := do
  let a ← readAcc
  let r := op.eval a
  writeResult (if op = .setf then none else some r.1, r.2)

/-- The signed 9-bit immediate of LDI and ADDI (R50, R57), REP's addition exact (log entry 108). -/
def imm9 (p : Pre) (f : BitVec 9) (i : Nat) : Word :=
  match p.rep with
  | none => i64 (widenS f p.imm)
  | some _ => i64 (sextNat 9 f.toNat + p.stepAdd 2 i)

/-- NOP (R116). -/
def execNop (p : Pre) (s : State) : Out := repeated false p (fun _ => pure ()) s
/-- ST (R116). -/
def execSt (p : Pre) (m : MemOpd) (s : State) : Out := repeated false p (storeOp p m) s
/-- MAC (R120). -/
def execMac (p : Pre) (src : Src9) (s : State) : Out := repeated false p (macOp p src) s
/-- LDI (R116). -/
def execLdi (p : Pre) (f : BitVec 9) (s : State) : Out := repeated false p (fun i => writeAcc (imm9 p f i)) s
/-- ADDI (R117). -/
def execAddi (p : Pre) (f : BitVec 9) (s : State) : Out :=
  repeated false p (fun i => do
    let a ← readAcc
    writeResult (AluOp.add.eval a (imm9 p f i))) s
/-- LD (R116). -/
def execLd (p : Pre) (src : Src9) (s : State) : Out := repeated false p (alu .ld p src) s
/-- ADD (R118). -/
def execAdd (p : Pre) (src : Src9) (s : State) : Out := repeated false p (alu .add p src) s
/-- SUB (R118). -/
def execSub (p : Pre) (src : Src9) (s : State) : Out := repeated false p (alu .sub p src) s
/-- RSUB (R118). -/
def execRsub (p : Pre) (src : Src9) (s : State) : Out := repeated false p (alu .rsub p src) s
/-- CMP (R118). -/
def execCmp (p : Pre) (src : Src9) (s : State) : Out := repeated false p (alu .cmp p src) s
/-- TST (R118). -/
def execTst (p : Pre) (src : Src9) (s : State) : Out := repeated false p (alu .tst p src) s
/-- AND (R118). -/
def execAnd (p : Pre) (src : Src9) (s : State) : Out := repeated false p (alu .and p src) s
/-- OR (R118). -/
def execOr (p : Pre) (src : Src9) (s : State) : Out := repeated false p (alu .or p src) s
/-- XOR (R118). -/
def execXor (p : Pre) (src : Src9) (s : State) : Out := repeated false p (alu .xor p src) s
/-- ANDN (R118). -/
def execAndn (p : Pre) (src : Src9) (s : State) : Out := repeated false p (alu .andn p src) s
/-- SHL (R118). -/
def execShl (p : Pre) (src : Src9) (s : State) : Out := repeated false p (alu .shl p src) s
/-- SHR (R118). -/
def execShr (p : Pre) (src : Src9) (s : State) : Out := repeated false p (alu .shr p src) s
/-- SAR (R118). -/
def execSar (p : Pre) (src : Src9) (s : State) : Out := repeated false p (alu .sar p src) s
/-- ROL (R118). -/
def execRol (p : Pre) (src : Src9) (s : State) : Out := repeated false p (alu .rol p src) s
/-- MUL (R118). -/
def execMul (p : Pre) (src : Src9) (s : State) : Out := repeated false p (alu .mul p src) s
/-- MULH (R118). -/
def execMulh (p : Pre) (src : Src9) (s : State) : Out := repeated false p (alu .mulh p src) s
/-- MULHU (R118). -/
def execMulhu (p : Pre) (src : Src9) (s : State) : Out := repeated false p (alu .mulhu p src) s
/-- DIV (R119). -/
def execDiv (p : Pre) (src : Src9) (s : State) : Out := repeated false p (alu .div p src) s
/-- DIVU (R119). -/
def execDivu (p : Pre) (src : Src9) (s : State) : Out := repeated false p (alu .divu p src) s
/-- REM (R119). -/
def execRem (p : Pre) (src : Src9) (s : State) : Out := repeated false p (alu .rem p src) s
/-- REMU (R119). -/
def execRemu (p : Pre) (src : Src9) (s : State) : Out := repeated false p (alu .remu p src) s
/-- MIN (R118). -/
def execMin (p : Pre) (src : Src9) (s : State) : Out := repeated false p (alu .min p src) s
/-- MAX (R118). -/
def execMax (p : Pre) (src : Src9) (s : State) : Out := repeated false p (alu .max p src) s
/-- MINU (R118). -/
def execMinu (p : Pre) (src : Src9) (s : State) : Out := repeated false p (alu .minu p src) s
/-- MAXU (R118). -/
def execMaxu (p : Pre) (src : Src9) (s : State) : Out := repeated false p (alu .maxu p src) s
/-- NEG (R121). -/
def execNeg (p : Pre) (s : State) : Out := repeated false p (fun _ => unary .neg) s
/-- NOT (R121). -/
def execNot (p : Pre) (s : State) : Out := repeated false p (fun _ => unary .not) s
/-- ABS (R121). -/
def execAbs (p : Pre) (s : State) : Out := repeated false p (fun _ => unary .abs) s
/-- CLZ (R121). -/
def execClz (p : Pre) (s : State) : Out := repeated false p (fun _ => unary .clz) s
/-- CTZ (R121). -/
def execCtz (p : Pre) (s : State) : Out := repeated false p (fun _ => unary .ctz) s
/-- POPC (R121). -/
def execPopc (p : Pre) (s : State) : Out := repeated false p (fun _ => unary .popc) s
/-- BREV (R121). -/
def execBrev (p : Pre) (s : State) : Out := repeated false p (fun _ => unary .brev) s
/-- BSWAP (R121). -/
def execBswap (p : Pre) (s : State) : Out := repeated false p (fun _ => unary .bswap) s
/-- SEXT.B (R121). -/
def execSextB (p : Pre) (s : State) : Out := repeated false p (fun _ => unary .sextB) s
/-- SEXT.H (R121). -/
def execSextH (p : Pre) (s : State) : Out := repeated false p (fun _ => unary .sextH) s
/-- SEXT.W (R121). -/
def execSextW (p : Pre) (s : State) : Out := repeated false p (fun _ => unary .sextW) s
/-- ZEXT.B (R121). -/
def execZextB (p : Pre) (s : State) : Out := repeated false p (fun _ => unary .zextB) s
/-- ZEXT.H (R121). -/
def execZextH (p : Pre) (s : State) : Out := repeated false p (fun _ => unary .zextH) s
/-- ZEXT.W (R121). -/
def execZextW (p : Pre) (s : State) : Out := repeated false p (fun _ => unary .zextW) s
/-- SETF (R121). -/
def execSetf (p : Pre) (s : State) : Out := repeated false p (fun _ => unary .setf) s

end Sys2Proof.Machine
end

