-- ==== Sys2Proof/Machine/Events.lean ====
section
/-! DEFINITION. What happens between instructions: late results and accesses (R21, R113, R114, R227), the ends of waits (R318, R319,
R321, R322), traps and interrupts at a boundary (R382, R383, R388), budgets (R43, R386), windows (R151, R299), the scheduler's rows
(R296 to R304), register writes (R371, R410). -/

namespace Sys2Proof.Machine

/-! Late results. -/

/-- A late result's flags: a flag that the operation may write and does not keeps its value, and is pending no longer (R114). -/
def lateFlags (m f : Flags) (fs : FlagSet) : FlagSet :=
  let g (may old : Bool) (x : Option Bool) : Option Bool := x.orElse fun _ => if may then some old else none
  ⟨g m.n f.n fs.n, g m.z f.z fs.z, g m.c f.c fs.c, g m.v f.v fs.v⟩

/-- What a load that has retired finds at its element's home: its value, or why it fails: a fill rank under the lock (R214), a granule
that has become stale under GENPOL.TRAP (R358), poison or an error message (R395, R396); or its message is held (R208, R396). -/
def State.elemNow (s : State) (x : Issuer × Elem) : Except Fail Word :=
  match s.resolve x.1 x.2.ea.toNat .read with
  | .error e => .error e
  | .ok r =>
    match s.readFault x.1 r x.2.ea.toNat x.2.ty.bytes with
    | some c => .error (.cause c)
    | none => .ok (x.2.ty.extend (leNat (s.readBytes x.1 r x.2.ea.toNat x.2.ty.bytes)))

/-- The keys of what a job reads or writes. -/
def State.jobPlaces (s : State) (j : Job) : List Nat :=
  match j with
  | .store pa _ => [pa]
  | j => s.jobKeys j

/-- The elements that a job loads, with the identity of their reads. -/
def Job.loads (j : Job) : List (Issuer × Elem) :=
  match j with
  | .load i _ _ a b => (a.getLeft?.toList ++ b.toList).map fun e => (i, e)
  | _ => []

/-- A message to a killed core, or to a tile that a rank is leaving, is held (R208, R396). -/
def State.messageHeld (s : State) (x : Issuer × Elem) : Bool :=
  match s.elemNow x with
  | .error .hold => true
  | _ => false

/-- The context's boundary, if it runs, is one at which a trap can be taken: it does not wait uninterruptibly (R365). -/
def Ctx.canTrap (c : Ctx) : Bool := c.runs && !(c.stalled && c.waitKind = .hard)

/-- Why a load that has retired fails, with its address. -/
def State.lateCause (s : State) (x : Issuer × Elem) : Option (Byte × Word) :=
  match s.elemNow x with
  | .error (.cause c) => some (c, x.2.ea)
  | _ => none

/-- The operand of a load that has retired: the value of its element or the value that is on its way, times MAC's second element; none
where it fails or is held. -/
def State.loadNow (s : State) (i : Issuer) (a : Elem ⊕ Word) (b : Option Elem) : Option Word :=
  let get (e : Elem) : Option Word := (s.elemNow (i, e)).toOption
  let x := match a with
    | .inl e => get e
    | .inr v => some v
  match b with
  | none => x
  | some e => x.bind fun v => (get e).map fun w => v * w

/-- The job's accesses can be performed: no message held, no engine in the way, no earlier access of the context to the same home
(R230, R241, R396); a load that fails needs a boundary of its context for its trap (log entry 93). -/
def State.jobReady (s : State) (before : List Job) (j : Job) (write : Bool) : Bool :=
  !j.loads.any s.messageHeld && (s.c.canTrap || (j.loads.findSome? s.lateCause).isNone) &&
    (s.jobPlaces j).all fun k => !s.busy (k / 32) write && !before.any fun b => (s.jobPlaces b).any fun x => sameHome x k

/-- The context without a job, whose flags are pending no longer. -/
def Ctx.settleJob (c : Ctx) (jobs : List Job) (fs : FlagSet) (m : Flags) : Ctx :=
  { c with jobs := jobs, flags := c.flags.apply fs, pend := ⟨c.pend.n && !m.n, c.pend.z && !m.z, c.pend.c && !m.c, c.pend.v && !m.v⟩ }

/-- A load that has retired and fails: its producing access is cancelled, so that ACC, where it was to be filled, is zero, and the flags
keep theirs (R23, R127). Its own boundary is past, so the trap is taken at the boundary that the context stands at (R375, log entry 93). -/
def State.failLoad (s : State) (pre post : List Job) (op : AluOp) (x : Byte × Word) : State :=
  let c := if op.writesAcc then { s.c with acc := ⟨0, true, s.c.gen⟩ } else s.c
  takeTrap false x.1 0 x.2 c.pc (c.repi ≠ 0) { s with c := c.settleJob (pre ++ post) {} op.flagMask }

/-- A load performed on its operand: its result on the way to ACC, or its flags written where the operation has no result (R114). -/
def State.performLoad (s : State) (pre post : List Job) (op : AluOp) (acc y : Word) : State :=
  let r := op.eval acc y
  let fs := lateFlags op.flagMask s.c.flags r.2
  match r.1 with
  | some v => { s with c := { s.c with jobs := pre ++ [.fill v fs 0] ++ post } }
  | none => { s with c := s.c.settleJob (pre ++ post) fs op.flagMask }

/-- ACCESS_PERFORMED (R227): the first load or store of the moving context that can be performed is; a load may fail (R395). -/
def evAccessPerformed (s : State) : Option State :=
  let f (before : List Job) (j : Job) : Option Job := match j with
    | .load .. => if s.jobReady before j false then some j else none
    | .store .. => if s.jobReady before j true then some j else none
    | _ => none
  match firstJob f [] s.c.jobs with
  | some (pre, .load i op acc a b, post) =>
    match (Job.load i op acc a b).loads.findSome? s.lateCause with
    | some x => some (s.failLoad pre post op x)
    | none => (s.loadNow i a b).map (s.performLoad pre post op acc)
  | some (pre, .store pa bs, post) =>
    let s' := s.put (s.c.issuer 0) { key := pa, dram := true } (some s.c.uid) bs
    some { s' with c := { s'.c with jobs := pre ++ post } }
  | _ => none

/-- A job whose result has arrived: what fills ACC, its flags and FFLAGS, whether it fills, what is left of the job, and the state;
a RESUME that has sent its task to a tile waits for it to land. -/
def State.arrives (s : State) (j : Job) : Option (Option (Word × FlagSet × FF) × List Job × State) :=
  match j with
  | .fill v fs ff => some (some (v, fs, ff), [], s)
  | .leaf v ff traps pc order => some (some (v, {}, ff), [], s.requestFpx ff traps pc order)
  | .atomicDone r v fs ff =>
    some (if r.nr then none else some (v, fs, ff), [], { s with c := s.c.responded r })
  | .seize _ rel todo done _ => if todo = 0 && (rel || s.guestsIssued done) then some (some (done, {}, 0), [], s) else none
  | .resume area => (resumeStep s area).map fun r => match r.1 with
    | some v => (some (v, {}, 0), [], r.2)
    | none => (none, [j], r.2)
  | _ => none

/-- REGISTER_FILL (R21, R114): the first result that has arrived fills ACC, tagged GEN, with its flags. -/
def evRegisterFill (s : State) : Option State :=
  match firstJob (fun _ j => s.arrives j) [] s.c.jobs with
  | none => none
  | some (pre, (r, left, s'), post) =>
    let c := { s'.c with jobs := pre ++ left ++ post }
    some { s' with c := match r with
      | none => c
      | some (v, fs, ff) => c.fillAcc v fs ff fs.mask }

/-! Error messages (R395, R399). -/

/-- A storage place that the moving context reaches over the mesh. -/
def Ctx.overMesh (c : Ctx) (k : Nat) : Bool :=
  decide (k < 2 ^ 60) || !(c.loc.any fun t => tileKey t 0 ≤ k && decide (k < tileKey t 0 + 2 ^ 24))

/-- The state as a reader sees it to whom what it reads of a granule comes as an error message. -/
def State.messageFrom (s : State) (g : Nat) : State := s.setGran g { s.gran g with poison := true }

/-- An event in which what is read of a granule comes as an error message. -/
def State.answered (s : State) (ev : State → Option State) (g : Nat) : Option State :=
  (ev (s.messageFrom g)).map fun t =>
    if (s.gran g).poison then t else t.setGran g { t.gran g with poison := false }

/-- The bytes that an entry of a vector queue reads: its records', and TMASS's block (R192). -/
def VEntry.reads (e : VEntry) : List Nat :=
  e.shapes.flatMap Shape.addrs ++
    (if e.climb.isSome then (List.range (0x20 + 16 * e.leaves)).map fun i => e.block.toNat + i else [])

/-- The moving context's collectives under way: the event in which an error message for it meets one, and the bytes that it reads. -/
def State.collReads (s : State) : List ((Nat → Option State) × List Nat) :=
  (s.colls.filter fun k => k.iss.uid = s.c.uid).filterMap fun k => (s.partners k).map fun l =>
    (fun g => s.collectiveFrom (fun x => if x.num = k.num then s.messageFrom g else s) k, l.flatMap fun x => s.keysOf x.iss (k.readsOf x))

/-- The moving context's unit work under way, as the events in which it stops on a granule and the bytes that it reads. -/
def State.unitReads (s : State) : List ((Nat → Option State) × List Nat) :=
  let v := (s.c.vq.head?.map fun e => (s.answered evVectorFaultStop, s.keysOf e.iss e.reads)).toList
  let m := (s.c.mq.head?.map fun e =>
    (s.answered evMatrixFaultStop, s.keysOf e.iss ((e.moves ++ e.a.toList ++ e.b.toList).flatMap Shape.addrs))).toList
  let copies := match s.c.loc with
    | none => []
    | some t => (List.range 8).filterMap fun i =>
      let ch : R3 := BitVec.ofNat 3 i
      ((s.chan t ch).running.filter fun k => k.iss.uid = s.c.uid).map fun k =>
        (s.answered (evCopyCommandStop t ch), s.keysOf k.iss (k.a.addrs ++ k.idx.toList.flatMap Shape.addrs))
  v ++ m ++ copies ++ s.collReads

/-- The elements that a job reads over the mesh: a load's, an atomic's, a page step's descriptor (R285). -/
def State.meshReads (s : State) (j : Job) : List (Issuer × Elem) :=
  let l := match j with
    | .atomic r => [(r.iss, r.el)]
    | .page iss desc _ => [({ iss with esc := none }, ⟨desc, .n32⟩)]
    | j => j.loads
  l.filter fun x => (s.keysOf x.1 [x.2.ea.toNat]).any s.c.overMesh

/-- An error message meets the moving context: the first of its loads, atomics and page steps under way that goes over the mesh,
otherwise the first of its unit work that reads something over the mesh (R395, R399). Which message the flit is of is not given (log
entry 100). -/
def State.errorMessage (s : State) : State :=
  let f (_ : List Job) (j : Job) : Option (Job × Word) := match j with
    | .load .. => if s.c.canTrap then ((s.meshReads j).head?).map fun x => (j, x.2.ea) else none
    | j => ((s.meshReads j).head?).map fun x => (j, x.2.ea)
  match firstJob f [] s.c.jobs with
  | some (pre, (.atomic r, _), post) => { s with c := { s.c with jobs := pre ++ [.atomicRefused r cPOISON] ++ post } }
  | some (pre, (.page iss desc _, _), post) => { s with c := { s.c with jobs := pre ++ [pageRefused iss desc cPOISON] ++ post } }
  | some (pre, (.load _ op _ _ _, ea), post) => s.failLoad pre post op (cPOISON, ea)
  | _ => (s.unitReads.findSome? fun x => (((x.2.filter s.c.overMesh).map fun k => k / 32).eraseDups).findSome? x.1).getD s

/-- INJECTION (R399): the flit that the armed injector named by State.pick acts on leaves. Values and orders stay, but for a persistent
corruption, which delivers an error message on a mesh link and retrains the spare link. -/
def evInjection (s : State) : Option State :=
  match (s.injectors.filter fun x => x.armed && x.seen + 1 = x.at')[s.pick]? with
  | none => none
  | some x =>
    let s := s.inject x
    some (if !x.persists then s else if bit x.sel 31 then s.retrain else s.errorMessage)

/-! The ends of waits. -/

/-- The state that an instruction leaves, when it did not wait again. -/
def outDone (o : Out) : Option State :=
  match o with
  | .next s => if s.c.stalled then none else some s
  | _ => none

/-- The instruction at PC. -/
def State.atPc (s : State) : Option Instr :=
  match s.fetch.1 with
  | .instr i => some i
  | .stall => none

/-- A synchronising operand (R113). -/
def srcSync (x : Src9) : Bool :=
  match x with
  | .mem m => m.form = .sync
  | _ => false

/-- The meaning of an instruction with a synchronising operand; none for another instruction. -/
def runSync (i : Instr) (s : State) : Option Out :=
  let f (x : Src9) (o : Out) : Option Out := if srcSync x then some o else none
  match i with
  | .st p m => if m.form = .sync then some (execSt p m s) else none
  | .ld p x => f x (execLd p x s)
  | .add p x => f x (execAdd p x s)
  | .sub p x => f x (execSub p x s)
  | .rsub p x => f x (execRsub p x s)
  | .cmp p x => f x (execCmp p x s)
  | .tst p x => f x (execTst p x s)
  | .and p x => f x (execAnd p x s)
  | .or p x => f x (execOr p x s)
  | .xor p x => f x (execXor p x s)
  | .andn p x => f x (execAndn p x s)
  | .shl p x => f x (execShl p x s)
  | .shr p x => f x (execShr p x s)
  | .sar p x => f x (execSar p x s)
  | .rol p x => f x (execRol p x s)
  | .mul p x => f x (execMul p x s)
  | .mulh p x => f x (execMulh p x s)
  | .mulhu p x => f x (execMulhu p x s)
  | .div p x => f x (execDiv p x s)
  | .divu p x => f x (execDivu p x s)
  | .rem p x => f x (execRem p x s)
  | .remu p x => f x (execRemu p x s)
  | .min p x => f x (execMin p x s)
  | .max p x => f x (execMax p x s)
  | .minu p x => f x (execMinu p x s)
  | .maxu p x => f x (execMaxu p x s)
  | .mac p x => f x (execMac p x s)
  | _ => none

/-- SYNC_ACCESS_SERVED (R113): the moving context, waiting in a granule's queue, is served. -/
def evSyncAccessServed (s : State) : Option State :=
  if !s.c.stalled || !s.waiters.any (fun w => w.uid = s.c.uid && !w.sem) then none
  else (s.atPc.bind fun i => runSync i s).bind outDone

/-- MWAIT_TIMEOUT (R318). -/
def evMwaitTimeout (s : State) : Option State :=
  if !s.c.inMwait || s.c.waited s.cyc < ((s.c.tagged s.c.acc).getD 0).toNat then none else outDone (execMwait s)

/-- The moving context's MWAIT ends for a reason of code 3 or 4 (R318). -/
def State.mwaitEnds (s : State) (code : Nat) : State :=
  let s := s.rejoin
  { s with c := s.c.mwaitEnd s.cyc code }

/-- MWAIT_SPURIOUS (R318): at most once in 4,096 cycles of the context's waiting. -/
def evMwaitSpurious (s : State) : Option State :=
  if !s.c.inMwait || s.c.spurious.any (fun n => n < 4096) then none
  else
    let s := s.mwaitEnds 4
    some { s with c := { s.c with spurious := some 0 } }

/-- SLEEPT_WAKE (R319): the time has come, and the set of commands is checked. -/
def evSleeptWake (s : State) : Option State :=
  if !s.c.stalled then none
  else match s.atPc with
    | some (.sleept ch) => outDone (execSleept ch s)
    | some .sleeptT => outDone (execSleeptT s)
    | _ => none

/-- BARW_WAKE (R321): the phase that a BARW awaits has flipped. -/
def evBarwWake (s : State) : Option State := if s.c.stalled && s.c.wres then outDone (execBarw s) else none

/-! Votes (R322). -/

/-- A context's vote of a number that has not been answered. -/
def Ctx.voteAt (c : Ctx) (k : Nat) : Option (Nat × Word) :=
  c.jobs.findSome? fun j => match j with
    | .vote n op v => if n = k then some (op, v) else none
    | _ => none

/-- The strands of a launch, those that a save area holds among them. -/
def State.strands (s : State) (launch : Nat) : List Ctx :=
  s.ctxs.filter (fun c => c.kind = .task && !c.isDisp && c.launch = launch) ++
    (s.saved.filter fun v => v.taskRec.isSome).flatMap fun v => v.ctxs.filter fun c => c.launch = launch

/-- Every rank has its strands: none waits to be started again after a kill (R397). -/
def State.ranksHere (s : State) (launch : Nat) : Bool := (s.launchOf launch).any fun l => l.ranks.all fun e => e.ended || !e.killed

/-- The votes that are complete: launch and number (R322). -/
def State.votesDone (s : State) : List (Nat × Nat) :=
  (s.launches.flatMap fun l =>
    let cs := s.strands l.num
    let ks := (cs.flatMap fun c => c.jobs.filterMap fun j => match j with
      | .vote k _ _ => some k
      | _ => none).eraseDups
    (ks.filter fun k => s.ranksHere l.num && cs.all fun c => c.halted || decide (k ≤ c.votes)).map fun k => (l.num, k))

/-- The combined vote (R322). -/
def combine (op : Nat) (vs : List Word) : Word :=
  match op with
  | 0 => vs.foldl (fun a v => a &&& v) allOnes
  | 1 => vs.foldl (fun a v => a ||| v) 0
  | 2 => vs.foldl (fun a v => if a.toNat < v.toNat then v else a) 0
  | 3 => vs.foldl (fun a v => if v.toNat < a.toNat then v else a) allOnes
  | 4 => vs.foldl (fun a v => a + v) 0
  | _ => w64 (b2n (vs.all fun v => some v = vs.head?))

/-- A voter's ACC filled; BARRIER is due where the votes carried different ops. -/
def Ctx.voted (c : Ctx) (k : Nat) (v : Word) (bad : Bool) : Ctx :=
  match c.voteAt k with
  | none => c
  | some (op, x) =>
    { c with acc := ⟨v, true, c.gen⟩, jobs := c.jobs.erase (.vote k op x)
             barReps := if bad then c.barReps ++ [{ obj := w64 k }] else c.barReps }

/-- The votes of a number that a launch's strands have cast, those of strands that are gone among them: op and value (R322). -/
def State.votesAt (s : State) (l k : Nat) : List (Nat × Word) :=
  ((s.strands l).filterMap fun c => c.voteAt k) ++
    (((s.launchOf l).map fun x => x.cast).getD []).filterMap fun v => if v.1 = k then some v.2 else none

/-- VOTE_COMPLETE (R322) of the complete vote that State.pick names. -/
def evVoteComplete (s : State) : Option State :=
  match s.votesDone[s.pick]? with
  | none => none
  | some (l, k) =>
    let vs := s.votesAt l k
    let op := (vs.head?.map fun x => x.1).getD 0
    let bad := vs.any fun x => x.1 ≠ op
    let v := if bad then 0 else combine op (vs.map fun x => x.2)
    let f (c : Ctx) : Ctx := if c.kind = .task && c.launch = l then c.voted k v bad else c
    let s := (s.mapCtx f).updLaunch l fun x => { x with cast := x.cast.filter fun v => v.1 ≠ k }
    some { s with saved := s.saved.map fun x => if x.taskRec.isSome then { x with ctxs := x.ctxs.map f } else x }

/-! Deferred causes and interrupts at a boundary (R382, R383, R388). -/

/-- A report of a unit whose stops are deferred to the next boundary (R381). -/
def RUnit.deferred (u : RUnit) : Bool :=
  match u with
  | .copy _ | .coll _ => false
  | _ => true

/-- A candidate of R382: the cause, its SUB and TVAL, and the context with it taken up. -/
structure Candidate where
  cause : Byte
  sub : Byte := 0
  val : Word := 0
  c : Ctx
  deriving Repr

/-- BUDGET: the grace begins (R386). -/
def Ctx.budgetCand (c : Ctx) : Option Candidate :=
  if c.budgetDue then some { cause := cBUDGET, c := { c with budgetDue := false, grace := some 1024 } } else none

/-- The first of two reports is the older one, or stands at a lower UNIT in the same cycle (R382). -/
def Report.older (a b : Report) : Bool := decide (a.time < b.time) || (a.time == b.time && decide (a.unit.code < b.unit.code))

/-- Step 2 of R382. -/
def Ctx.engineCand (c : Ctx) : Option Candidate :=
  let first := (c.reports.filter fun r => r.unit.deferred).foldl (fun (b : Option Report) r => match b with
    | none => some r
    | some x => some (if r.older x then r else x)) none
  first.map fun r => { cause := cENGINE, sub := r.sub, val := r.addr, c := c.takeReport r }

/-- Step 3: BARRIER of a vote. -/
def Ctx.barrierCand (c : Ctx) : Option Candidate :=
  (c.barReps.find? fun b => b.ch.isNone).map fun b => { cause := cBARRIER, val := b.obj, c := { c with barReps := c.barReps.erase b } }

/-- Step 4: LINKLOST. -/
def Ctx.linkCand (c : Ctx) : Option Candidate :=
  c.linkLost.map fun x => { cause := cLINKLOST, val := w64 (x.1.toNat * 2 ^ 48 + x.2.toNat % 2 ^ 48), c := { c with linkLost := none } }

/-- Step 5: FPX. -/
def Ctx.fpxCand (c : Ctx) : Option Candidate := c.fpx.head?.map fun v => { cause := cFPX, val := v, c := { c with fpx := c.fpx.tail } }

/-- Step 6: CHECK. -/
def Ctx.checkCand (c : Ctx) : Option Candidate := c.check.head?.map fun v => { cause := cCHECK, val := v.2, c := { c with check := c.check.tail } }

/-- The first deferred candidate that is taken: in handler state BUDGET alone (R382, R383). -/
def Ctx.candidate (c : Ctx) : Option Candidate :=
  match c.budgetCand with
  | some x => some x
  | none =>
    if c.inHandler then none
    else ((((c.engineCand.orElse fun _ => c.barrierCand).orElse fun _ => c.linkCand).orElse fun _ => c.fpxCand).orElse fun _ => c.checkCand)

/-- The interrupt that is taken: the highest line enabled and pending, with GIE (R388). -/
def Ctx.interrupt (c : Ctx) : Option Nat :=
  if !c.gie then none else ([4, 3, 2, 1, 0].find? fun l => c.ien.getLsbD l && c.ipend.getLsbD l)


/-- The moving context takes a deferred candidate; a BUDGET is recorded by Ewedex (R386). -/
def State.takeCandidate (s : State) (x : Candidate) : State :=
  let s := { s with c := x.c }
  let s := if x.cause = cBUDGET then s.traceCtx 9 s.c else s
  takeTrap false x.cause x.sub x.val s.c.pc (s.c.repi ≠ 0) s

/-- TRAP_ENTRY (R376, R382): a waiting MWAIT ends with code 3 first (R318). -/
def evTrapEntry (s : State) : Option State :=
  if !s.c.canTrap then none
  else
    let s := if s.c.inMwait && s.c.candidate.isSome then s.mwaitEnds 3 else s
    s.c.candidate.map s.takeCandidate

/-- INTERRUPT_ENTRY (R388): no deferred candidate goes before it; a waiting MWAIT ends first; a WFI completes first (R380). -/
def evInterruptEntry (s : State) : Option State :=
  if !s.c.canTrap || s.c.candidate.isSome then none
  else match s.c.interrupt with
    | none => none
    | some l =>
      let s := if s.c.inMwait then s.mwaitEnds 3 else if s.c.inWfi then retire 2 s else s
      some (takeTrap true (BitVec.ofNat 8 l) 0 0 s.c.pc (s.c.repi ≠ 0) s)

/-- BUDGET_GRACE_EXPIRE (R386): the moving thread has not halted within its grace. -/
def evBudgetGraceExpire (s : State) : Option State :=
  if s.c.isThread && s.c.runs && s.c.grace = some 0 then some s.endThread else none

/-! Windows (R151, R299). -/

/-- Whether the context holds a bank of its core: active or shadow. -/
def Ctx.banked (c : Ctx) : Bool := !c.halted && (c.role = .active || c.role = .shadow)

/-- The bit of OTHERS for a context's core and bank. -/
def Ctx.bankBit (c : Ctx) : Nat := 2 * b2n c.isIc + b2n c.bankIx

/-- TVAL of FPX (R151): the others, the flags raised in the window, the earliest-issued instruction's PC. -/
def fpxVal (others : List Ctx) (c : Ctx) (w : Nat) : Word :=
  let req := (c.fpxReq.filter fun r => r.1 = w).map fun r => r.2
  let fl := req.foldl (fun a r => a ||| r.1) (0 : FF)
  let first := req.foldl (fun (best : Option (Word × Nat)) r => match best with
    | none => some (r.2.1, r.2.2)
    | some b => if r.2.2 < b.2 then some (r.2.1, r.2.2) else best) none
  let pc : Word := match first with
    | none => 0
    | some x => x.1
  w64 (((List.range 4).filter fun i => others.any fun o => o.bankBit = i).foldl (fun a i => a + 2 ^ (60 + i)) 0 +
    fl.toNat % 32 * 2 ^ 55 + pc.toNat % 2 ^ 48)

/-- A window of a tile closes: the lowest core, then the lowest bank, of those with requests in it is chosen (R151). A context that a
pre-emption has frozen counts as it did, and takes its trap after RESUME (R345, R347). -/
def State.closeWindow (s : State) (t : Loc) (w : Nat) : State :=
  let req := s.ctxs.filter fun c => (s.tile t).fpWindow.contains (w, c.uid)
  let ok := req.filter fun c => (c.banked || c.frozen) && c.loc = some t
  let best := ok.foldl (fun (b : Option Ctx) c => match b with
    | none => some c
    | some x => if c.bankBit < x.bankBit then some c else b) none
  let s := match best with
    | none => s
    | some c => s.updCtx c.uid fun x => { x with fpx := x.fpx ++ [fpxVal (ok.filter fun o => o.uid ≠ c.uid) c w] }
  let s := s.mapCtx fun c =>
    if (s.tile t).fpWindow.contains (w, c.uid) then { c with fpxReq := c.fpxReq.filter fun r => r.1 ≠ w } else c
  s.setTile t { s.tile t with fpWindow := (s.tile t).fpWindow.filter fun x => x.1 ≠ w }

/-- The earliest window of a tile that holds a request and has ended (R151). -/
def State.windowDue (s : State) (t : Loc) : Option Nat :=
  minOf (((s.tile t).fpWindow.map fun x => x.1).filter fun w => w < s.cyc / 64)

/-- FPX_WINDOW_CLOSE (R151) of the tile that State.pick names. -/
def evFpxWindowClose (s : State) : Option State :=
  let t := Loc.ofIdx s.pick
  if 64 ≤ s.pick then none else (s.windowDue t).map (s.closeWindow t)

/-- The deficits of a tile's cores are zero again (R299). -/
def State.shareReset (s : State) (t : Loc) : State :=
  s.setTile t { s.tile t with cores := (s.tile t).cores.map fun c => { c with deficit := 0 } }

/-- VECTOR_SHARE_WINDOW (R299) of the tile that State.pick names, where CYC is a multiple of 1,024. -/
def evVectorShareWindow (s : State) : Option State :=
  if 64 ≤ s.pick || s.cyc % 1024 ≠ 0 then none else some (s.shareReset (Loc.ofIdx s.pick))

/-- The moving context's head entry is ready to use a lane group (R299). -/
def State.headReady (s : State) : Bool :=
  match s.vhead with
  | none => false
  | some (e, _) => (vheadRun s e).isSome || ((climbStart s e).bind fun x => climbRun x.1 x.2).isSome

/-- The vector queue of a tile's core is backlogged (R299). -/
def State.backlogged (s : State) (t : Loc) (ic : Bool) : Bool :=
  s.ctxs.any fun c => c.place = .tile t ic && c.vq ≠ [] && (s.select c.uid).headReady

/-- One lane group assigned to the core with the larger deficit, core 0 on a tie (R299): who is backlogged, the shares, the deficits. -/
def assignLane (b0 b1 : Bool) (w0 w1 : Nat) (d : Int × Int) : Int × Int :=
  let n0 := b2n b0 * w0
  let n1 := b2n b1 * w1
  let d0 := d.1 + n0
  let d1 := d.2 + n1
  if b0 && (!b1 || decide (d1 ≤ d0)) then (d0 - (n0 + n1), d1) else if b1 then (d0, d1 - (n0 + n1)) else (d0, d1)

/-- The four lane groups of a tile assigned for a cycle (R299). -/
def State.assignLanes (s : State) (t : Loc) : State :=
  let ti := s.tile t
  let b0 := s.backlogged t false
  let b1 := s.backlogged t true
  let step := assignLane b0 b1 ti.cores[0].vshare ti.cores[1].vshare
  let d := step (step (step (step (ti.cores[0].deficit, ti.cores[1].deficit))))
  s.setTile t { ti with cores := #v[{ ti.cores[0] with deficit := d.1 }, { ti.cores[1] with deficit := d.2 }] }

/-! Time's passing. -/

/-- The vector arbiters' work in a cycle: a window that begins, then the lane groups, where a queue holds an entry (R299). -/
def State.arbitrate (s : State) : State :=
  let s := if s.cyc % 1024 = 0 then (List.range 64).foldl (fun s i => s.shareReset (Loc.ofIdx i)) s else s
  ((s.ctxs.filterMap fun c => if c.vq = [] then none else c.loc).eraseDups).foldl State.assignLanes s

/-- The windows of FPX requests that have ended are closed (R151). -/
def State.closeWindows (s : State) : State :=
  (List.range 64).foldl (fun s i =>
    let t := Loc.ofIdx i
    if (s.tile t).fpWindow = [] then s else ((s.windowDue t).map (s.closeWindow t)).getD s) s

/-- What goes on between instructions: trace records reach their ring, ended threads are gone, the firmware starts the graph-control
tasks still to be started. -/
def State.background (s : State) : State := s.ewFlush.reap.startRoots 16

/-- A main clock cycle passes: the Interchanges move on (R327), lane groups are assigned, windows end. -/
def State.cycle (s : State) : State := (s.elapse 1).evxCycles.arbitrate.closeWindows.background

/-- `n` main clock cycles pass, one by one. -/
def State.cycles (s : State) : Nat → State
  | 0 => s
  | n + 1 => s.cycle.cycles n

/-- No Interchange, window or vector queue has anything to do in a cycle. -/
def State.calm (s : State) : Bool :=
  s.districts.all (fun d => d.evx.quiet) && s.tiles.all (fun t => t.fpWindow = []) && s.ctxs.all fun c => c.vq = []

/-- `n` main clock cycles pass; nothing but time does where all is calm. -/
def State.passTime (s : State) (n : Nat) : State :=
  if s.calm then
    let t := (s.elapse n).background
    if t.cyc / 1024 = s.cyc / 1024 then t else (List.range 64).foldl (fun s i => s.shareReset (Loc.ofIdx i)) t
  else s.cycles n

/-- INTERCHANGE_SIGNAL (R328): a signal that pulses in this cycle reaches the counters and term latches of its district in the next one,
which begins. -/
def evInterchangeSignal (d : DistId) (sig : BitVec 7) (s : State) : Option State :=
  if (s.district (distIdx d.arr d.dist)).evx.pulses.contains sig then some s.cycle else none

/-- OUTPUT_PULSE (R328): an output whose term has completed in this cycle pulses in the next one, which begins. -/
def evOutputPulse (d : DistId) (o : BitVec 4) (s : State) : Option State :=
  if (s.district (distIdx d.arr d.dist)).evx.drive.outs.contains o then some s.cycle else none

/-- BUDGET_EXPIRE (R43): the rest of the budget of the moving thread passes. -/
def evBudgetExpire (s : State) : Option State :=
  if s.c.isThread && s.c.role = .active && 0 < s.c.rbudget then some (s.passTime s.c.rbudget) else none

/-- LEASE_EXPIRE (R374): the rest of the owner's lease passes. -/
def evLeaseExpire (s : State) : Option State :=
  if s.own = 0 || s.left = 0 then none else some (s.passTime ((s.left.toNat - 1) * 1024 + if s.leaseCyc = 0 then 1 else 1025 - s.leaseCyc))

/-! The scheduler's rows, for the record, task or tile that State.pick names. -/

/-- LAUNCH_BIND (R298). -/
def evLaunchBind (s : State) : Option State := (s.allQueued[s.pick]?).bind s.bind
/-- TILE_TASK_END (R304). -/
def evTileTaskEnd (s : State) : Option State := (s.tasks[s.pick]?).bind s.endTask
/-- MIGRATE (R303). -/
def evMigrate (s : State) : Option State := (s.tasks[s.pick]?).bind s.migrate

/-- RETAIN_EXPIRE (R304). -/
def evRetainExpire (s : State) : Option State :=
  let t := Loc.ofIdx s.pick
  match (if s.pick < 64 then (s.tile t).retain else none) with
  | none => none
  | some r =>
    if s.cyc < r.since + 2 ^ 20 then none
    else some (((s.setTile t { s.tile t with retain := none }).powerOff t).recheck t)

/-- AGING (R296). -/
def evAging (s : State) : Option State :=
  match s.allQueued[s.pick]? with
  | none => none
  | some q =>
    if !q.due s.cyc then none
    else
      let f (x : Queued) : Queued := if x.num = q.num && x.only = q.only then { x with aged := x.aged + 1 } else x
      some (s.setQueue q.lrec ((s.queueOf q.lrec).map f))

/-! Register writes (R371, R410). -/

/-- A control register written by the moving context: its RW fields at its privilege; a tile's core has no DSIG (R438). -/
def State.writeCsr (s : State) (n v : Nat) : Option State :=
  match CsrReg.ofNum n with
  | none => none
  | some r => if s.c.prv.code < csrLevel n || (r = .dsig && !s.c.isDisp) then none else s.csrWrite r (w64 v)

/-- REGISTER_WRITE (R371, R410). -/
def evRegisterWrite (dst : RegDst) (v : Word) (s : State) : Option State :=
  match dst with
  | .csr n => s.writeCsr n.toNat v.toNat
  | .mgmt m off half => if off.toNat % 8 ≠ 0 then none else some (s.mgmtWrite m off.toNat (s.halfWord m off.toNat half v))

end Sys2Proof.Machine
end

