-- ==== Sys2Proof/Machine/Boundary.lean ====
section
/-! DEFINITION. One step of the module around exec: what the surroundings do next (log entry 11), the candidates at a boundary
(R382), fetching and executing, waiting, the work of the units, time's passing; and placing words where the next step fetches
them (log entry 2). -/

namespace Sys2Proof.Machine

/-! The units' own work, when the moving context waits. -/

/-- Rows that concern the moving context. -/
def ownRows : List (State → Option State) :=
  [evRegisterFill, evAccessPerformed, evAtomicAtHome, evPageStep, evAtomicRefusal, evStashOpComplete, evTreeUpdate,
   evVectorFaultStop, evVectorEntryComplete, evMatrixFaultStop, evMatrixEntryComplete, evEscrowInstall]

/-- Rows that concern one of several, the first. -/
def pickRows : List (State → Option State) :=
  [evSquareRefusal, evSquareWriteGrant, evFlip, evSquareReadGrant, evMbgetComplete, evMbinfoResponse, evDqreqServe, evVoteComplete,
   evCollectiveComplete, evSeizeMessage, evTileRelease, evRearm, evPreemptOrderArrival, evPreemptSaveDone]

/-- The first row of a list that is enabled. -/
def firstRow (s : State) : List (State → Option State) → Option State
  | [] => none
  | r :: rs => match r s with
    | some s' => some s'
    | none => firstRow s rs

/-- The engines' rows, for every channel of every tile that is present. -/
def engineRows (s : State) : Option State :=
  (s.tilesOf false ++ s.tilesOf true).findSome? fun t => (List.range 8).findSome? fun i =>
    let ch : R3 := BitVec.ofNat 3 i
    if (s.chan t ch).active.isNone then none
    else firstRow s [evCopyCommandComplete t ch, evCopyCommandStop t ch, evEngineFill t ch]

/-- The schedulers' rows: ends, aging, bindings. -/
def schedRows (s : State) : Option State :=
  (s.tasks.findSome? s.endTask).orElse fun _ =>
    ((List.range s.allQueued.length).findSome? fun i => evAging { s with pick := i }).orElse fun _ =>
      (s.allQueued.findSome? s.bind).orElse fun _ =>
        (List.range 64).findSome? fun i => if (s.tile (Loc.ofIdx i)).retain.isNone then none else evRetainExpire { s with pick := i }

/-- The scrubber's rows. -/
def sweepRows (s : State) : Option State :=
  (s.tilesOf false ++ s.tilesOf true).findSome? fun t => ((s.tile t).sweeps.head?).bind fun v => evGenerationSweep t v s

/-- Device commands, handovers. -/
def otherRows (s : State) : Option State :=
  (firstRow s [evAdmitTenant s.dcmdArg, evRemoveTenant s.dcmdArg, evDcmdSeize s.dcmdArg, evFwupd s.dcmdArg]).orElse fun _ =>
    (s.caps.find? fun c => c.moving.isSome).bind fun c => evHandoverArrival (BitVec.ofNat 4 c.tenant) (BitVec.ofNat 8 c.index) s

/-- Quanta that can close. -/
def quantumRows (s : State) : Option State := (List.range s.detQueues.length).findSome? fun i => evQuantumClose { s with pick := i }

/-- A row that is enabled, the moving context's first, then those of the others, then the rest of the module's. -/
def autoRow (s : State) : Option State :=
  let s := { s with pick := 0 }
  (firstRow s ownRows).orElse fun _ =>
    (s.others.findSome? fun c => firstRow (s.select c.uid) ownRows).orElse fun _ =>
      firstRow s [fun s => firstRow s pickRows, engineRows, schedRows, sweepRows, otherRows, quantumRows]

/-! The schedule. -/

/-- The next context that runs, the one that has waited longest for its turn. -/
def State.nextTurn (s : State) : Option State := (s.others.find? fun c => c.runs).map fun c => s.select c.uid

/-- A row of the opcode table that is no instruction and no failed decoding. -/
def isRow (i : Instr) : Bool :=
  match i with
  | .illegalInstruction .. | .fetchFault .. => false
  | i => encode i = []

/-- A main clock cycle passes. -/
def State.tickOver (s : State) : State := s.passTime 1

/-- An instruction whose result the checker recomputes (R391): not a vector, matrix or engine one. -/
def isScalar (i : Instr) : Bool := !(encode i).any fun w => w = 0xF201 || w = 0xF202

/-- A forced mismatch is found and corrected at the core's next retiring scalar instruction (R391, R393). -/
def State.checked (s : State) (i : Instr) (s' : State) : State :=
  match s.c.place with
  | .dispatch _ => s'
  | .tile t ic =>
    let n : CoreName := ⟨t, ic⟩
    if (s'.coreAt n).forced && s.sclen && isScalar i && (s'.ctxOf s.c.uid).any (fun c => s.c.retired < c.retired) then s'.corrected n
    else s'

/-- A cycle passes at an instruction, and the next context that does not wait has its turn; in every 64th the units work and
the next context of all has its turn, so that none waits for ever behind one that spins (log entry 11). -/
def State.pass (s : State) : State :=
  let t := s.tickOver
  if t.cyc % 64 = 0 then
    let t := (autoRow t).getD t
    t.nextTurn.getD t
  else ((t.others.find? fun c => c.runs && !c.stalled).map fun c => t.select c.uid).getD t

/-- What follows the execution of an instruction of the moving context: the checker, the clock. -/
def afterInstr (i : Instr) (s : State) (o : Out) : Out :=
  match o with
  | .next s' => .next (s.checked i s').pass
  | o => o

/-- Nothing runs at the moving context's boundary: the units work, or another context has its turn. -/
def idle (s : State) : State :=
  match autoRow s with
  | some s' => s'.tickOver
  | none => (s.nextTurn.getD s).tickOver

/-- The moving context waited and has tried again. -/
def waiting (i : Instr) (s : State) (o : Out) : Out :=
  match o with
  | .next s' => if s'.c.uid = s.c.uid && s'.c.stalled then .next (idle s') else .next (s.checked i s').pass
  | o => o

/-- What is taken at the moving context's boundary before its instruction (R382, R386). -/
def atBoundary (s : State) : Option State :=
  (evBudgetGraceExpire s).orElse fun _ => (evTrapEntry s).orElse fun _ => evInterruptEntry s

/-- The moving context at its boundary: a candidate, or its instruction. -/
def boundary (run : Instr → State → Out) (s : State) : Out :=
  match atBoundary s with
  | some s' => .next s'.tickOver
  | none =>
    match s.fetch with
    | (.stall, s') => .next (idle (stall none .other s'))
    | (.instr i, s') => if s.c.stalled then waiting i s' (run i s') else afterInstr i s' (run i s')

/-- The line of a DRAM sector leaves the L2: monitors on the sector are lost (R317), and so is its record (R240). A line that is leased
stays (R169). -/
def State.evict (s : State) (g : Nat) : State :=
  if tileKey ⟨false, 0, 0⟩ 0 ≤ 32 * g || s.leased g then s
  else (s.mapCtx fun c => if c.monitor = some g then c.loseMonitor else c).setGran g { s.gran g with strong := none }

/-- An entry of a tile's or a district's TLB is replaced before its time (R355; log entry 14). -/
def State.forget (s : State) (district : Bool) (n i : Nat) : State :=
  if district then s.setDistrict n { s.district n with tlb := (s.district n).tlb.eraseIdx i }
  else s.setTile (Loc.ofIdx n) { s.tile (Loc.ofIdx n) with tlb := (s.tile (Loc.ofIdx n)).tlb.eraseIdx i }

/-- The chain of a matrix product. -/
def productPre (i : Instr) : Option Pre :=
  match i with
  | .mma p _ _ _ | .mmz p _ _ _ | .mmsub p _ _ _ => some p
  | _ => none

/-- The firmware has emulated the instruction of an absent path for the moving context, which stands at its machine entry: its BF16
instructions take the place of the emulated one in the matrix queue, under its number, and the handler returns past it (R176; log
entry 117). MMSUB's ACC is read now where it could not be at the trap (R163). -/
def State.emulate (s : State) : Option State :=
  let sampled (e : MEntry) : Bool := e.op ≠ .mmsub || (s.c.acc.full && (s.c.tagged s.c.acc).isSome)
  let ready := s.c.canTrap && s.c.inHandler && s.c.prv = .m && s.c.pc = s.machineEntry s.c && decide (s.c.mq.length < 2) &&
    !s.c.reports.any fun r => r.unit = .matrix
  match s.c.emu, s.eret.fetch with
  | some e, (.instr i, s') =>
    let e := if e.op = .mmsub then { e with acc := s.c.subWord } else e
    let enter : M Unit := modCtx fun c => { c.mput e 0 with emu := none }
    if ready && sampled e then (productPre i).bind fun p => outDone (repeated true p (fun _ => enter) s') else none
  | _, _ => none

/-- What the surroundings do next. -/
def surroundings (run : Instr → State → Out) (x : Input) (s : State) : Out :=
  match x with
  | .event k i => if isRow i then run i { s with pick := k } else .next s
  | .select u => .next (s.select u)
  | .tick n => .next (s.passTime n)
  | .slow b => .next { s with slow := b }
  | .evict g => .next (s.evict g)
  | .forget d n i => .next (s.forget d n i)
  | .msixWrite fn vec v => .next (s.msixWrite fn vec v)
  | .flits k n => .next (s.flits k n)
  | .emulate => .next (s.emulate.getD s)

/-- The attempt at booting that nothing outside has described: every step passes, done or skipped as R406 has it after the last one. -/
def State.plainCodes (s : State) : List (BitVec 4) :=
  (List.range 16).map fun i => if s.bootWas (i + 1) = 2 then 4 else if s.bootWas (i + 1) = 5 then 3 else 1

/-- That attempt, where there may be one (R406). -/
def plainBoot (s : State) : State := ((evBoot s.plainCodes (BitVec.ofNat 32 (bootMhz s.plainCodes)) s).getD s).tickOver

/-- One step of the module. -/
def stepWith (run : Instr → State → Out) (s : State) : Out :=
  match s.inputs with
  | x :: xs =>
    if !s.powered && (match x with
      | .event _ .powerOn => false
      | _ => true) then .fault .poweredOff
    else surroundings run x { s with inputs := xs }
  | [] =>
    if !s.powered then .fault .poweredOff
    else if !s.booted then .next (plainBoot s)
    else if s.c.runs then boundary run s
    else .next (idle s)

/-! Placing words at the next fetch (log entry 2). -/

/-- The words act on a unit that the moving context's core lacks, when that is a dispatch core (R49, R66). -/
def needsTile (s : State) (ws : List Half) : Bool :=
  s.c.isDisp && (match decode .dispatch ws with
    | .bad why _ _ => why = 6
    | _ => false)

/-- A launch of one task in supervisor mode bound to reason tile 0 of district 0, its issuing core's strand moving. -/
def State.onTile (s : State) : State :=
  let q : Queued := { num := s.next, lrec := { sup := true, lr := true }, tenant := 0, enq := s.cyc }
  let s := { s with next := s.next + 1 }.bindLaunch q [⟨false, 0, 0⟩]
  match s.others.find? fun c => c.place = .tile ⟨false, 0, 0⟩ true && c.role = .active with
  | some c => s.select c.uid
  | none => s

/-- Bytes placed at the moving context's addresses from `va` on. -/
def State.placeBytes (s : State) (va : Nat) : List Byte → State
  | [] => s
  | b :: bs =>
    let i := s.c.issuer s.c.defscope
    match s.resolve i va .fetch with
    | .ok r => (s.put i r none [b]).placeBytes (va + 1) bs
    | .error _ => s

/-- Words placed where the next step fetches its instruction, with nothing of the surroundings before it. -/
def State.placeWords (s : State) (ws : List Half) : State :=
  let s := { s with inputs := [] }
  let s := if needsTile s ws then s.onTile else s
  s.placeBytes s.c.pc.toNat (wordBytes ws)

end Sys2Proof.Machine
end

