-- ==== Sys2Proof/Machine/Mask.lean ====
section
/-! DEFINITION. The mask instructions (R123 to R125). -/

namespace Sys2Proof.Machine

/-- KOP forms 0 to 3: Kd from Kd and Ks (R124). -/
def kop2 (d k : R3) (f : Word → Word → Word) : M Unit := do
  let x ← readK d
  let y ← readK k
  writeK d (f x y)

/-- KOP forms 4 and 5: Kd from Ks (R124). -/
def kop1 (d k : R3) (f : Word → Word) : M Unit := do
  let y ← readK k
  writeK d (f y)

/-- KOP forms 6 and 7: Kd from Ks shifted by ACC[5:0] (R124). -/
def kopSh (d k : R3) (f : Word → Nat → Word) : M Unit := do
  let a ← readAcc
  let y ← readK k
  writeK d (f y (shAmt a))

/-- A bit as a word. -/
def bitWord (n : Nat) : Word := (1 : Word) <<< n

/-- KSB and KCB: bit ACC[5:0] of Kd (R123). -/
def kbit (d : R3) (f : Word → Word → Word) : M Unit := do
  let a ← readAcc
  let x ← readK d
  writeK d (f x (bitWord (shAmt a)))

/-- KTB: Z := NOT bit, C := bit (R123). -/
def ktbOp (d : R3) : M Unit := do
  let a ← readAcc
  let x ← readK d
  let b := x.getLsbD (shAmt a)
  writeFlags { z := some (!b), c := some b }

/-- KCNT: a count or an index of Ks (R125), Z := (Ks = 0). -/
def kcnt (k : R3) (f : Word → Nat) : M Unit := do
  let y ← readK k
  writeFlags { z := some (y == 0) }
  writeAcc (w64 (f y))

/-- KSET (R123). -/
def execKset (p : Pre) (d : R3) (s : State) : Out :=
  repeated false p (fun _ => do
    let a ← readAcc
    writeK d a) s
/-- KGET (R123). -/
def execKget (p : Pre) (k : R3) (s : State) : Out :=
  repeated false p (fun _ => do
    let v ← readK k
    writeAcc v) s
/-- KOP.AND (R124). -/
def execKopAnd (p : Pre) (d k : R3) (s : State) : Out := repeated false p (fun _ => kop2 d k (fun x y => x &&& y)) s
/-- KOP.OR (R124). -/
def execKopOr (p : Pre) (d k : R3) (s : State) : Out := repeated false p (fun _ => kop2 d k (fun x y => x ||| y)) s
/-- KOP.XOR (R124). -/
def execKopXor (p : Pre) (d k : R3) (s : State) : Out := repeated false p (fun _ => kop2 d k (fun x y => x ^^^ y)) s
/-- KOP.ANDN (R124). -/
def execKopAndn (p : Pre) (d k : R3) (s : State) : Out := repeated false p (fun _ => kop2 d k (fun x y => x &&& ~~~y)) s
/-- KOP.MOV (R124). -/
def execKopMov (p : Pre) (d k : R3) (s : State) : Out := repeated false p (fun _ => kop1 d k (fun y => y)) s
/-- KOP.NOT (R124). -/
def execKopNot (p : Pre) (d k : R3) (s : State) : Out := repeated false p (fun _ => kop1 d k (fun y => ~~~y)) s
/-- KOP.SHL (R124). -/
def execKopShl (p : Pre) (d k : R3) (s : State) : Out := repeated false p (fun _ => kopSh d k (fun y n => y <<< n)) s
/-- KOP.SHR (R124). -/
def execKopShr (p : Pre) (d k : R3) (s : State) : Out := repeated false p (fun _ => kopSh d k (fun y n => y >>> n)) s
/-- KSB (R123). -/
def execKsb (p : Pre) (d : R3) (s : State) : Out := repeated false p (fun _ => kbit d (fun x b => x ||| b)) s
/-- KCB (R123). -/
def execKcb (p : Pre) (d : R3) (s : State) : Out := repeated false p (fun _ => kbit d (fun x b => x &&& ~~~b)) s
/-- KTB (R123). -/
def execKtb (p : Pre) (d : R3) (s : State) : Out := repeated false p (fun _ => ktbOp d) s
/-- KCNT.N (R125). -/
def execKcntN (p : Pre) (k : R3) (s : State) : Out := repeated false p (fun _ => kcnt k (fun y => popCount y 64)) s
/-- KCNT.LO (R125). -/
def execKcntLo (p : Pre) (k : R3) (s : State) : Out := repeated false p (fun _ => kcnt k (fun y => ctzGo y 0 64)) s
/-- KCNT.HI (R125). -/
def execKcntHi (p : Pre) (k : R3) (s : State) : Out := repeated false p (fun _ => kcnt k hiBit) s

end Sys2Proof.Machine
end

