-- ==== Sys2Proof/Machine/Pointer.lean ====
section
/-! DEFINITION. The pointer instructions (R122). -/

namespace Sys2Proof.Machine

/-- The context with a descriptor changed. -/
def Ctx.setDesc (c : Ctx) (n : R3) (d : PDesc) : Ctx := { c with pd := c.pd.set n.toNat d n.isLt }

/-- A signed 6-bit immediate (R50, R57), REP's addition exact (log entry 108). -/
def imm6s (p : Pre) (f : BitVec 6) (i : Nat) : Int :=
  match p.rep with
  | none => widenS f p.imm
  | some _ => sextNat 6 f.toNat + p.stepAdd 2 i

/-- An unsigned 6-bit immediate (R50, R57), REP's addition exact (log entry 108). -/
def imm6u (p : Pre) (f : BitVec 6) (i : Nat) : Nat :=
  match p.rep with
  | none => widenU f p.imm
  | some _ => f.toNat + p.stepAdd 2 i

/-- PSET: Pn := ACC (R122). -/
def psetOp (p : Pre) (n : R3) (i : Nat) : M Unit := do
  let v ← readAcc
  let s ← get
  writeP (s.c.field p 0 i n) v

/-- Pn stepped by a signed amount under the ring rule (R122). -/
def stepBySigned (n : R3) (by_ : Int) : M Unit := do
  let v ← readP n
  let s ← get
  writeP n (ringAdd (s.c.desc n) v by_)

/-- PADD (R122). -/
def paddOp (p : Pre) (n : R3) (i : Nat) : M Unit := do
  let a ← readAcc
  let s ← get
  stepBySigned (s.c.field p 0 i n) a.toInt

/-- PADDI (R122). -/
def paddiOp (p : Pre) (n : R3) (f : BitVec 6) (i : Nat) : M Unit := do
  let s ← get
  stepBySigned (s.c.field p 0 i n) (imm6s p f i)

/-- PSTEP (R122). -/
def pstepOp (p : Pre) (n : R3) (f : BitVec 6) (i : Nat) : M Unit :=
  modCtx fun c => let n := c.field p 0 i n; c.setDesc n { c.desc n with step := BitVec.ofInt 32 (imm6s p f i) }

/-- PSPAN: the span in 32-byte units, and PBASE := Pn (R122). -/
def pspanOp (p : Pre) (n : R3) (f : BitVec 6) (i : Nat) : M Unit := do
  let s ← get
  let n := s.c.field p 0 i n
  let v ← readP n
  modCtx fun c => c.setDesc n { c.desc n with span := BitVec.ofNat 32 (imm6u p f i * 32), base := v }

/-- PTYPE (R122). -/
def ptypeOp (p : Pre) (n : R3) (f : BitVec 6) (i : Nat) : M Unit :=
  modCtx fun c => let n := c.field p 0 i n; c.setDesc n { c.desc n with ty := f }

/-- PSET (R122). -/
def execPset (p : Pre) (n : R3) (s : State) : Out := repeated false p (psetOp p n) s
/-- PADD (R122). -/
def execPadd (p : Pre) (n : R3) (s : State) : Out := repeated false p (paddOp p n) s
/-- PADDI (R122). -/
def execPaddi (p : Pre) (n : R3) (f : BitVec 6) (s : State) : Out := repeated false p (paddiOp p n f) s
/-- PSTEP (R122). -/
def execPstep (p : Pre) (n : R3) (f : BitVec 6) (s : State) : Out := repeated false p (pstepOp p n f) s
/-- PSPAN (R122). -/
def execPspan (p : Pre) (n : R3) (f : BitVec 6) (s : State) : Out := repeated false p (pspanOp p n f) s
/-- PTYPE (R122). -/
def execPtype (p : Pre) (n : R3) (f : BitVec 6) (s : State) : Out := repeated false p (ptypeOp p n f) s

end Sys2Proof.Machine
end

