-- ==== Sys2Proof/Machine/Rows.lean ====
section
/-! DEFINITION. The event rows of the opcode table as meanings: what happens where the row is enabled, and nothing where it is not. -/

namespace Sys2Proof.Machine

/-- A row's outcome: its effect where it is enabled. -/
def happen (s : State) (r : Option State) : Out := .next (r.getD s)

/-- ENGINE_FILL (R243). -/
def execEngineFill (t : Loc) (ch : R3) (s : State) : Out := happen s (evEngineFill t ch s)
/-- COPY_COMMAND_COMPLETE (R222). -/
def execCopyCommandComplete (t : Loc) (ch : R3) (s : State) : Out := happen s (evCopyCommandComplete t ch s)
/-- COPY_COMMAND_STOP (R225). -/
def execCopyCommandStop (t : Loc) (ch : R3) (s : State) : Out := happen s (evCopyCommandStop t ch s)
/-- MIRROR_RECEIVE (R405). -/
def execMirrorReceive (slot : BitVec 10) (units : BitVec 10) (version stamp : Word) (wrank uflags : BitVec 32) (payload : List Byte) (s : State) : Out := happen s (evMirrorReceive slot units version stamp wrank uflags payload s)
/-- HANDOVER_ARRIVAL (R203). -/
def execHandoverArrival (ten : BitVec 4) (region : BitVec 8) (s : State) : Out := happen s (evHandoverArrival ten region s)
/-- GENERATION_SWEEP (R362). -/
def execGenerationSweep (t : Loc) (v : BitVec 10) (s : State) : Out := happen s (evGenerationSweep t v s)
/-- INTERCHANGE_SIGNAL (R328). -/
def execInterchangeSignal (d : DistId) (sig : BitVec 7) (s : State) : Out := happen s (evInterchangeSignal d sig s)
/-- COUNTER_EXPIRE (R328). -/
def execCounterExpire (d : DistId) (j : BitVec 5) (s : State) : Out := happen s (evCounterExpire d j s)
/-- OUTPUT_PULSE (R328). -/
def execOutputPulse (d : DistId) (o : BitVec 4) (s : State) : Out := happen s (evOutputPulse d o s)
/-- TIMER_TICK (R330). -/
def execTimerTick (d : DistId) (j : R3) (s : State) : Out := happen s (evTimerTick d j s)
/-- CONTACT_EDGE (R420). -/
def execContactEdge (pin : R3) (s : State) : Out := happen s (evContactEdge pin s)
/-- FRAME_RECEIVE (R418). -/
def execFrameReceive (port : Bool) (pcp : R3) (etype : BitVec 16) (frame : List Byte) (s : State) : Out := happen s (evFrameReceive port pcp etype frame s)
/-- TIMENS_DISCIPLINE (R419). -/
def execTimensDiscipline (slew : Bool) (amount : Int) (s : State) : Out := happen s (evTimensDiscipline slew amount s)
/-- HOST_KICK (R408). -/
def execHostKick (vf : BitVec 4) (q : BitVec 4) (s : State) : Out := happen s (evHostKick vf q s)
/-- HOST_DRAM_REQUEST (R409). -/
def execHostDramRequest (fn : Option (BitVec 4)) (off : Nat) (wr : Option (List Byte)) (len : Nat) (s : State) : Out := happen s (evHostDramRequest fn off wr len s)
/-- CLAIM (R374). -/
def execClaim (mst : BitVec 8) (epoch : BitVec 16) (lease : BitVec 32) (s : State) : Out := happen s (evClaim mst epoch lease s)
/-- BEAT (R374). -/
def execBeat (mst : BitVec 8) (epoch : BitVec 16) (lease : BitVec 32) (s : State) : Out := happen s (evBeat mst epoch lease s)
/-- NAME (R374). -/
def execNameSucc (mst : BitVec 8) (epoch : BitVec 16) (succ : BitVec 8) (s : State) : Out := happen s (evNameSucc mst epoch succ s)
/-- ACK (R374). -/
def execAckOwner (mst : BitVec 8) (epoch : BitVec 16) (lease : BitVec 32) (s : State) : Out := happen s (evAckOwner mst epoch lease s)
/-- RESIGN (R374). -/
def execResign (mst : BitVec 8) (epoch : BitVec 16) (s : State) : Out := happen s (evResign mst epoch s)
/-- CLEAR (R374). -/
def execClearOwner (epoch : BitVec 16) (s : State) : Out := happen s (evClearOwner epoch s)
/-- ADMIT (R412). -/
def execAdmitTenant (darg : Word) (s : State) : Out := happen s (evAdmitTenant darg s)
/-- REMOVE (R351). -/
def execRemoveTenant (darg : Word) (s : State) : Out := happen s (evRemoveTenant darg s)
/-- DCMD_SEIZE (R411). -/
def execDcmdSeize (darg : Word) (s : State) : Out := happen s (evDcmdSeize darg s)
/-- FWUPD (R411). -/
def execFwupd (darg : Word) (s : State) : Out := happen s (evFwupd darg s)
/-- MRESET (R410). -/
def execMreset (mst : BitVec 8) (v : Word) (s : State) : Out := happen s (evMreset mst v s)
/-- DSIG_KICK (R438). -/
def execDsigKick (core : Bool) (ten : BitVec 4) (s : State) : Out := happen s (evDsigKick core ten s)
/-- DSIG_MSIX (R438). -/
def execDsigMsix (core : Bool) (ten : BitVec 4) (vec : R3) (s : State) : Out := happen s (evDsigMsix core ten vec s)
/-- TENANT_SELECT (R349). -/
def execTenantSelect (tid : BitVec 4) (s : State) : Out := happen s (evTenantSelect tid s)
/-- TENANT_ENTRY_WRITE (R349). -/
def execTenantEntryWrite (v : Word) (s : State) : Out := happen s (evTenantEntryWrite v s)
/-- PTBASE_WRITE (R352). -/
def execPtbaseWrite (ten : BitVec 4) (v : Word) (s : State) : Out := happen s (evPtbaseWrite ten v s)
/-- ESCROW_TENANT_CHANGE (R349). -/
def execEscrowTenantChange (w : R3) (ten : BitVec 4) (s : State) : Out := happen s (evEscrowTenantChange w ten s)
/-- SLOT_VALID_SET (R268). -/
def execSlotValidSet (slot : BitVec 10) (ten : BitVec 4) (v : Word) (s : State) : Out := happen s (evSlotValidSet slot ten v s)
/-- SLOT_VALID_CLEAR (R268). -/
def execSlotValidClear (slot : BitVec 10) (s : State) : Out := happen s (evSlotValidClear slot s)
/-- CAPABILITY_TABLE_READ (R201). -/
def execCapabilityTableRead (ten : BitVec 4) (s : State) : Out := happen s (evCapabilityTableRead ten s)
/-- FIELD_RING_START (R418). -/
def execFieldRingStart (port : Bool) (ring : R3) (s : State) : Out := happen s (evFieldRingStart port ring s)
/-- EWCTL_ENABLE (R423). -/
def execEwctlEnable (v : Word) (s : State) : Out := happen s (evEwctlEnable v s)
/-- REGISTER_WRITE (R371). -/
def execRegisterWrite (dst : RegDst) (v : Word) (s : State) : Out := happen s (evRegisterWrite dst v s)
/-- SMBUS_SET_POINTER (R421). -/
def execSmbusSetPointer (block : List Byte) (pecOk : Bool) (s : State) : Out := happen s (evSmbusSetPointer block pecOk s)
/-- SMBUS_READ (R421). -/
def execSmbusRead (pecOk : Bool) (s : State) : Out := happen s (evSmbusRead pecOk s)
/-- SMBUS_WRITE (R421). -/
def execSmbusWrite (block : List Byte) (pecOk : Bool) (s : State) : Out := happen s (evSmbusWrite block pecOk s)
/-- CHECKER_MISMATCH (R391). -/
def execCheckerMismatch (t : CheckedCore) (again : Bool) (s : State) : Out := happen s (evCheckerMismatch t again s)
/-- CORE_KILL (R394). -/
def execCoreKill (t : CoreName) (cause : Byte) (s : State) : Out := happen s (evCoreKill t cause s)
/-- ECC_UNCORRECTABLE (R407). -/
def execEccUncorrectable (site : EccSite) (s : State) : Out := happen s (evEccUncorrectable site s)
/-- CORRECTED_ERROR (R407). -/
def execCorrectedError (t : Option CoreName) (s : State) : Out := happen s (evCorrectedError t s)
/-- DISPATCH_TAKEOVER (R404). -/
def execDispatchTakeover (why : BitVec 2) (s : State) : Out := happen s (evDispatchTakeover why s)
/-- JOURNAL_MIRROR_RECEIVE (R405). -/
def execJournalMirrorReceive (rec : List Byte) (s : State) : Out := happen s (evJournalMirrorReceive rec s)
/-- POWER_INTERVAL (R424). -/
def execPowerInterval (milliwatts : Nat) (tj : BitVec 16) (s : State) : Out := happen s (evPowerInterval milliwatts tj s)
/-- BOOT (R406). -/
def execBoot (codes : List (BitVec 4)) (mhz : BitVec 32) (s : State) : Out := happen s (evBoot codes mhz s)
/-- REGISTER_FILL (R21). -/
def execRegisterFill (s : State) : Out := happen s (evRegisterFill s)
/-- ACCESS_PERFORMED (R227). -/
def execAccessPerformed (s : State) : Out := happen s (evAccessPerformed s)
/-- SYNC_ACCESS_SERVED (R113). -/
def execSyncAccessServed (s : State) : Out := happen s (evSyncAccessServed s)
/-- MWAIT_TIMEOUT (R318). -/
def execMwaitTimeout (s : State) : Out := happen s (evMwaitTimeout s)
/-- MWAIT_SPURIOUS (R318). -/
def execMwaitSpurious (s : State) : Out := happen s (evMwaitSpurious s)
/-- SLEEPT_WAKE (R319). -/
def execSleeptWake (s : State) : Out := happen s (evSleeptWake s)
/-- VECTOR_ENTRY_COMPLETE (R129). -/
def execVectorEntryComplete (s : State) : Out := happen s (evVectorEntryComplete s)
/-- VECTOR_FAULT_STOP (R150). -/
def execVectorFaultStop (s : State) : Out := happen s (evVectorFaultStop s)
/-- MATRIX_ENTRY_COMPLETE (R174). -/
def execMatrixEntryComplete (s : State) : Out := happen s (evMatrixEntryComplete s)
/-- MATRIX_FAULT_STOP (R172). -/
def execMatrixFaultStop (s : State) : Out := happen s (evMatrixFaultStop s)
/-- COLLECTIVE_COMPLETE (R264). -/
def execCollectiveComplete (s : State) : Out := happen s (evCollectiveComplete s)
/-- ATOMIC_AT_HOME (R250). -/
def execAtomicAtHome (s : State) : Out := happen s (evAtomicAtHome s)
/-- ATOMIC_REFUSAL (R252). -/
def execAtomicRefusal (s : State) : Out := happen s (evAtomicRefusal s)
/-- ATOMIC_RESPONSE_LOST (R253). -/
def execAtomicResponseLost (s : State) : Out := happen s (evAtomicResponseLost s)
/-- STASH_OP_COMPLETE (R254). -/
def execStashOpComplete (s : State) : Out := happen s (evStashOpComplete s)
/-- SQUARE_WRITE_GRANT (R270). -/
def execSquareWriteGrant (s : State) : Out := happen s (evSquareWriteGrant s)
/-- FLIP (R269). -/
def execFlip (s : State) : Out := happen s (evFlip s)
/-- SQUARE_READ_GRANT (R270). -/
def execSquareReadGrant (s : State) : Out := happen s (evSquareReadGrant s)
/-- MBGET_COMPLETE (R274). -/
def execMbgetComplete (s : State) : Out := happen s (evMbgetComplete s)
/-- MBINFO_RESPONSE (R275). -/
def execMbinfoResponse (s : State) : Out := happen s (evMbinfoResponse s)
/-- SQUARE_REFUSAL (R276). -/
def execSquareRefusal (s : State) : Out := happen s (evSquareRefusal s)
/-- ESCROW_INSTALL (R284). -/
def execEscrowInstall (s : State) : Out := happen s (evEscrowInstall s)
/-- TREE_UPDATE (R192). -/
def execTreeUpdate (s : State) : Out := happen s (evTreeUpdate s)
/-- DQREQ_SERVE (R199). -/
def execDqreqServe (s : State) : Out := happen s (evDqreqServe s)
/-- QUANTUM_CLOSE (R200). -/
def execQuantumClose (s : State) : Out := happen s (evQuantumClose s)
/-- VOTE_COMPLETE (R322). -/
def execVoteComplete (s : State) : Out := happen s (evVoteComplete s)
/-- BARW_WAKE (R321). -/
def execBarwWake (s : State) : Out := happen s (evBarwWake s)
/-- FPX_WINDOW_CLOSE (R151). -/
def execFpxWindowClose (s : State) : Out := happen s (evFpxWindowClose s)
/-- VECTOR_SHARE_WINDOW (R299). -/
def execVectorShareWindow (s : State) : Out := happen s (evVectorShareWindow s)
/-- BUDGET_EXPIRE (R43). -/
def execBudgetExpire (s : State) : Out := happen s (evBudgetExpire s)
/-- BUDGET_GRACE_EXPIRE (R386). -/
def execBudgetGraceExpire (s : State) : Out := happen s (evBudgetGraceExpire s)
/-- TRAP_ENTRY (R376). -/
def execTrapEntry (s : State) : Out := happen s (evTrapEntry s)
/-- INTERRUPT_ENTRY (R388). -/
def execInterruptEntry (s : State) : Out := happen s (evInterruptEntry s)
/-- LAUNCH_BIND (R298). -/
def execLaunchBind (s : State) : Out := happen s (evLaunchBind s)
/-- TILE_TASK_END (R304). -/
def execTileTaskEnd (s : State) : Out := happen s (evTileTaskEnd s)
/-- RETAIN_EXPIRE (R304). -/
def execRetainExpire (s : State) : Out := happen s (evRetainExpire s)
/-- MIGRATE (R303). -/
def execMigrate (s : State) : Out := happen s (evMigrate s)
/-- SEIZE_MESSAGE (R332). -/
def execSeizeMessage (s : State) : Out := happen s (evSeizeMessage s)
/-- TILE_RELEASE (R338). -/
def execTileRelease (s : State) : Out := happen s (evTileRelease s)
/-- REARM (R339). -/
def execRearm (s : State) : Out := happen s (evRearm s)
/-- PREEMPT_SAVE_DONE (R345). -/
def execPreemptSaveDone (s : State) : Out := happen s (evPreemptSaveDone s)
/-- FRAME_TRANSMIT (R418). -/
def execFrameTransmit (s : State) : Out := happen s (evFrameTransmit s)
/-- PTP_FRAME (R416). -/
def execPtpFrame (s : State) : Out := happen s (evPtpFrame s)
/-- LEASE_EXPIRE (R374). -/
def execLeaseExpire (s : State) : Out := happen s (evLeaseExpire s)
/-- INJECTION (R399). -/
def execInjection (s : State) : Out := happen s (evInjection s)
/-- SPARE_LINK_RETRAIN (R399). -/
def execSpareLinkRetrain (s : State) : Out := happen s (evSpareLinkRetrain s)
/-- ACTIVE_ASSERT (R405). -/
def execActiveAssert (s : State) : Out := happen s (evActiveAssert s)
/-- ACTIVE_TIE (R414). -/
def execActiveTie (s : State) : Out := happen s (evActiveTie s)
/-- FAILOVER (R405). -/
def execFailover (s : State) : Out := happen s (evFailover s)
/-- POWER_ON (R425). -/
def execPowerOn (s : State) : Out := happen s (evPowerOn s)
/-- POWER_DOWN (R425). -/
def execPowerDown (s : State) : Out := happen s (evPowerDown s)
/-- MODULE_RESET (R40). -/
def execModuleReset (s : State) : Out := happen s (evModuleReset s)
/-- PREEMPT_ORDER_ARRIVAL (R345). -/
def execPreemptOrderArrival (s : State) : Out := happen s (evPreemptOrderArrival s)
/-- AGING (R296). -/
def execAging (s : State) : Out := happen s (evAging s)

end Sys2Proof.Machine
end

