-- ==== Sys2Proof/Machine/Dispatch.lean ====
section
/-! DEFINITION. The one dispatch of instructions and event rows to their meanings. -/

namespace Sys2Proof.Machine

/-- What an instruction or an event row does to a state. -/
def exec (i : Instr) (s : State) : Host.Outcome State Fault Refusal :=
  match i with
  | .nop p => Sys2Proof.Machine.execNop p s
  | .ld p x => Sys2Proof.Machine.execLd p x s
  | .st p x => Sys2Proof.Machine.execSt p x s
  | .add p x => Sys2Proof.Machine.execAdd p x s
  | .sub p x => Sys2Proof.Machine.execSub p x s
  | .rsub p x => Sys2Proof.Machine.execRsub p x s
  | .cmp p x => Sys2Proof.Machine.execCmp p x s
  | .tst p x => Sys2Proof.Machine.execTst p x s
  | .and p x => Sys2Proof.Machine.execAnd p x s
  | .or p x => Sys2Proof.Machine.execOr p x s
  | .xor p x => Sys2Proof.Machine.execXor p x s
  | .andn p x => Sys2Proof.Machine.execAndn p x s
  | .shl p x => Sys2Proof.Machine.execShl p x s
  | .shr p x => Sys2Proof.Machine.execShr p x s
  | .sar p x => Sys2Proof.Machine.execSar p x s
  | .rol p x => Sys2Proof.Machine.execRol p x s
  | .mul p x => Sys2Proof.Machine.execMul p x s
  | .mulh p x => Sys2Proof.Machine.execMulh p x s
  | .mulhu p x => Sys2Proof.Machine.execMulhu p x s
  | .div p x => Sys2Proof.Machine.execDiv p x s
  | .divu p x => Sys2Proof.Machine.execDivu p x s
  | .rem p x => Sys2Proof.Machine.execRem p x s
  | .remu p x => Sys2Proof.Machine.execRemu p x s
  | .min p x => Sys2Proof.Machine.execMin p x s
  | .max p x => Sys2Proof.Machine.execMax p x s
  | .minu p x => Sys2Proof.Machine.execMinu p x s
  | .maxu p x => Sys2Proof.Machine.execMaxu p x s
  | .mac p x => Sys2Proof.Machine.execMac p x s
  | .neg p => Sys2Proof.Machine.execNeg p s
  | .not p => Sys2Proof.Machine.execNot p s
  | .abs p => Sys2Proof.Machine.execAbs p s
  | .clz p => Sys2Proof.Machine.execClz p s
  | .ctz p => Sys2Proof.Machine.execCtz p s
  | .popc p => Sys2Proof.Machine.execPopc p s
  | .brev p => Sys2Proof.Machine.execBrev p s
  | .bswap p => Sys2Proof.Machine.execBswap p s
  | .sextB p => Sys2Proof.Machine.execSextB p s
  | .sextH p => Sys2Proof.Machine.execSextH p s
  | .sextW p => Sys2Proof.Machine.execSextW p s
  | .zextB p => Sys2Proof.Machine.execZextB p s
  | .zextH p => Sys2Proof.Machine.execZextH p s
  | .zextW p => Sys2Proof.Machine.execZextW p s
  | .setf p => Sys2Proof.Machine.execSetf p s
  | .ldi p j => Sys2Proof.Machine.execLdi p j s
  | .addi p j => Sys2Proof.Machine.execAddi p j s
  | .pset p n => Sys2Proof.Machine.execPset p n s
  | .padd p n => Sys2Proof.Machine.execPadd p n s
  | .paddi p n j => Sys2Proof.Machine.execPaddi p n j s
  | .pstep p n j => Sys2Proof.Machine.execPstep p n j s
  | .pspan p n j => Sys2Proof.Machine.execPspan p n j s
  | .ptype p n j => Sys2Proof.Machine.execPtype p n j s
  | .kset p d => Sys2Proof.Machine.execKset p d s
  | .kget p k => Sys2Proof.Machine.execKget p k s
  | .kopAnd p d k => Sys2Proof.Machine.execKopAnd p d k s
  | .kopOr p d k => Sys2Proof.Machine.execKopOr p d k s
  | .kopXor p d k => Sys2Proof.Machine.execKopXor p d k s
  | .kopAndn p d k => Sys2Proof.Machine.execKopAndn p d k s
  | .kopMov p d k => Sys2Proof.Machine.execKopMov p d k s
  | .kopNot p d k => Sys2Proof.Machine.execKopNot p d k s
  | .kopShl p d k => Sys2Proof.Machine.execKopShl p d k s
  | .kopShr p d k => Sys2Proof.Machine.execKopShr p d k s
  | .ksb p d => Sys2Proof.Machine.execKsb p d s
  | .kcb p d => Sys2Proof.Machine.execKcb p d s
  | .ktb p d => Sys2Proof.Machine.execKtb p d s
  | .kcntN p k => Sys2Proof.Machine.execKcntN p k s
  | .kcntLo p k => Sys2Proof.Machine.execKcntLo p k s
  | .kcntHi p k => Sys2Proof.Machine.execKcntHi p k s
  | .bcc p c d => Sys2Proof.Machine.execBcc p c d s
  | .j p d => Sys2Proof.Machine.execJ p d s
  | .call p d => Sys2Proof.Machine.execCall p d s
  | .loop l x => Sys2Proof.Machine.execLoop l x s
  | .trap c => Sys2Proof.Machine.execTrap c s
  | .svc c => Sys2Proof.Machine.execSvc c s
  | .waitf n => Sys2Proof.Machine.execWaitf n s
  | .waite n => Sys2Proof.Machine.execWaite n s
  | .monitor p n => Sys2Proof.Machine.execMonitor p n s
  | .sleept ch => Sys2Proof.Machine.execSleept ch s
  | .semp n => Sys2Proof.Machine.execSemp n s
  | .semv n => Sys2Proof.Machine.execSemv n s
  | .evsig n => Sys2Proof.Machine.execEvsig n s
  | .fenceAcq x => Sys2Proof.Machine.execFenceAcq x s
  | .fenceRel x => Sys2Proof.Machine.execFenceRel x s
  | .fenceAcqRel x => Sys2Proof.Machine.execFenceAcqRel x s
  | .fenceSeq x => Sys2Proof.Machine.execFenceSeq x s
  | .binit p n => Sys2Proof.Machine.execBinit p n s
  | .barv p n => Sys2Proof.Machine.execBarv p n s
  | .bwait p n => Sys2Proof.Machine.execBwait p n s
  | .aadd p o n nr => Sys2Proof.Machine.execAadd p o n nr s
  | .aand p o n nr => Sys2Proof.Machine.execAand p o n nr s
  | .aor p o n nr => Sys2Proof.Machine.execAor p o n nr s
  | .axor p o n nr => Sys2Proof.Machine.execAxor p o n nr s
  | .amin p o n nr => Sys2Proof.Machine.execAmin p o n nr s
  | .amax p o n nr => Sys2Proof.Machine.execAmax p o n nr s
  | .aminu p o n nr => Sys2Proof.Machine.execAminu p o n nr s
  | .amaxu p o n nr => Sys2Proof.Machine.execAmaxu p o n nr s
  | .aswp p o n nr => Sys2Proof.Machine.execAswp p o n nr s
  | .acas p o n q nr => Sys2Proof.Machine.execAcas p o n q nr s
  | .afadd p o n nr => Sys2Proof.Machine.execAfadd p o n nr s
  | .spf p n => Sys2Proof.Machine.execSpf p n s
  | .swb p n => Sys2Proof.Machine.execSwb p n s
  | .sinv p n => Sys2Proof.Machine.execSinv p n s
  | .sflush p => Sys2Proof.Machine.execSflush p s
  | .vmov p d a => Sys2Proof.Machine.execVmov p d a s
  | .vadd p d a b => Sys2Proof.Machine.execVadd p d a b s
  | .vsub p d a b => Sys2Proof.Machine.execVsub p d a b s
  | .vmul p d a b => Sys2Proof.Machine.execVmul p d a b s
  | .vfma p d a b => Sys2Proof.Machine.execVfma p d a b s
  | .vfms p d a b => Sys2Proof.Machine.execVfms p d a b s
  | .vmin p d a b => Sys2Proof.Machine.execVmin p d a b s
  | .vmax p d a b => Sys2Proof.Machine.execVmax p d a b s
  | .vabs p d a => Sys2Proof.Machine.execVabs p d a s
  | .vneg p d a => Sys2Proof.Machine.execVneg p d a s
  | .vand p d a b => Sys2Proof.Machine.execVand p d a b s
  | .vor p d a b => Sys2Proof.Machine.execVor p d a b s
  | .vxor p d a b => Sys2Proof.Machine.execVxor p d a b s
  | .vshl p d a b => Sys2Proof.Machine.execVshl p d a b s
  | .vshr p d a b => Sys2Proof.Machine.execVshr p d a b s
  | .vsar p d a b => Sys2Proof.Machine.execVsar p d a b s
  | .vcmpeq p d a b => Sys2Proof.Machine.execVcmpeq p d a b s
  | .vcmplt p d a b => Sys2Proof.Machine.execVcmplt p d a b s
  | .vcmple p d a b => Sys2Proof.Machine.execVcmple p d a b s
  | .vsel p d a b => Sys2Proof.Machine.execVsel p d a b s
  | .vcvt p d a => Sys2Proof.Machine.execVcvt p d a s
  | .vscale p d a b => Sys2Proof.Machine.execVscale p d a b s
  | .vredSum p d a => Sys2Proof.Machine.execVredSum p d a s
  | .vredMax p d a => Sys2Proof.Machine.execVredMax p d a s
  | .vredMin p d a => Sys2Proof.Machine.execVredMin p d a s
  | .vredSsq p d a => Sys2Proof.Machine.execVredSsq p d a s
  | .vredAmax p d a => Sys2Proof.Machine.execVredAmax p d a s
  | .vredAmin p d a => Sys2Proof.Machine.execVredAmin p d a s
  | .vdot p d a b => Sys2Proof.Machine.execVdot p d a b s
  | .vrcp p d a => Sys2Proof.Machine.execVrcp p d a s
  | .vrsq p d a => Sys2Proof.Machine.execVrsq p d a s
  | .vrcpr p d a b => Sys2Proof.Machine.execVrcpr p d a b s
  | .vrsqr p d a b => Sys2Proof.Machine.execVrsqr p d a b s
  | .vexp2 p d a => Sys2Proof.Machine.execVexp2 p d a s
  | .vlog2 p d a => Sys2Proof.Machine.execVlog2 p d a s
  | .vexp p d a => Sys2Proof.Machine.execVexp p d a s
  | .vbcast p d => Sys2Proof.Machine.execVbcast p d s
  | .viota p d => Sys2Proof.Machine.execViota p d s
  | .vgath p d a b => Sys2Proof.Machine.execVgath p d a b s
  | .vscat p d a b => Sys2Proof.Machine.execVscat p d a b s
  | .vsqrt p d a => Sys2Proof.Machine.execVsqrt p d a s
  | .mma p a b k => Sys2Proof.Machine.execMma p a b k s
  | .mmz p a b k => Sys2Proof.Machine.execMmz p a b k s
  | .mmst p n k => Sys2Proof.Machine.execMmst p n k s
  | .mmld p n k => Sys2Proof.Machine.execMmld p n k s
  | .mmmask p n k => Sys2Proof.Machine.execMmmask p n k s
  | .mmsub p a b k => Sys2Proof.Machine.execMmsub p a b k s
  | .cpy p d a ch => Sys2Proof.Machine.execCpy p d a ch s
  | .cpym p d a ch => Sys2Proof.Machine.execCpym p d a ch s
  | .gath p d a ch => Sys2Proof.Machine.execGath p d a ch s
  | .collSum p d a => Sys2Proof.Machine.execCollSum p d a s
  | .collGather p d a => Sys2Proof.Machine.execCollGather p d a s
  | .collRscat p d a => Sys2Proof.Machine.execCollRscat p d a s
  | .collBcast p d a => Sys2Proof.Machine.execCollBcast p d a s
  | .cpq ch => Sys2Proof.Machine.execCpq ch s
  | .mbpub n => Sys2Proof.Machine.execMbpub n s
  | .mbget n => Sys2Proof.Machine.execMbget n s
  | .esopen w => Sys2Proof.Machine.execEsopen w s
  | .escommit w => Sys2Proof.Machine.execEscommit w s
  | .esabort w => Sys2Proof.Machine.execEsabort w s
  | .pgalloc n => Sys2Proof.Machine.execPgalloc n s
  | .pgfree n => Sys2Proof.Machine.execPgfree n s
  | .qseq p da f => Sys2Proof.Machine.execQseq p da f s
  | .qseqStore p n da f => Sys2Proof.Machine.execQseqStore p n da f s
  | .qtab n => Sys2Proof.Machine.execQtab n s
  | .speek n => Sys2Proof.Machine.execSpeek n s
  | .msum a => Sys2Proof.Machine.execMsum a s
  | .tsrch a => Sys2Proof.Machine.execTsrch a s
  | .tmass n a => Sys2Proof.Machine.execTmass n a s
  | .tdesc n => Sys2Proof.Machine.execTdesc n s
  | .tfind a => Sys2Proof.Machine.execTfind a s
  | .launch n => Sys2Proof.Machine.execLaunch n s
  | .csrr p n => Sys2Proof.Machine.execCsrr p n s
  | .csrw p n => Sys2Proof.Machine.execCsrw p n s
  | .csrs p n => Sys2Proof.Machine.execCsrs p n s
  | .csrc p n => Sys2Proof.Machine.execCsrc p n s
  | .seize k => Sys2Proof.Machine.execSeize k s
  | .seizeArm k => Sys2Proof.Machine.execSeizeArm k s
  | .release k => Sys2Proof.Machine.execRelease k s
  | .shld n => Sys2Proof.Machine.execShld n s
  | .shldImg n => Sys2Proof.Machine.execShldImg n s
  | .shst n => Sys2Proof.Machine.execShst n s
  | .dbgrd n q => Sys2Proof.Machine.execDbgrd n q s
  | .dbgrdTag n q => Sys2Proof.Machine.execDbgrdTag n q s
  | .dbgwr n q => Sys2Proof.Machine.execDbgwr n q s
  | .tlbinvVa x => Sys2Proof.Machine.execTlbinvVa x s
  | .tlbinvTen x => Sys2Proof.Machine.execTlbinvTen x s
  | .tlbinvAll x => Sys2Proof.Machine.execTlbinvAll x s
  | .jrnl n => Sys2Proof.Machine.execJrnl n s
  | .preempt n => Sys2Proof.Machine.execPreempt n s
  | .resume n => Sys2Proof.Machine.execResume n s
  | .engineFill t ch => Sys2Proof.Machine.execEngineFill t ch s
  | .copyCommandComplete t ch => Sys2Proof.Machine.execCopyCommandComplete t ch s
  | .copyCommandStop t ch => Sys2Proof.Machine.execCopyCommandStop t ch s
  | .mirrorReceive slot units version stamp wrank uflags payload => Sys2Proof.Machine.execMirrorReceive slot units version stamp wrank uflags payload s
  | .handoverArrival ten region => Sys2Proof.Machine.execHandoverArrival ten region s
  | .generationSweep t v => Sys2Proof.Machine.execGenerationSweep t v s
  | .interchangeSignal d sig => Sys2Proof.Machine.execInterchangeSignal d sig s
  | .counterExpire d j => Sys2Proof.Machine.execCounterExpire d j s
  | .outputPulse d o => Sys2Proof.Machine.execOutputPulse d o s
  | .timerTick d j => Sys2Proof.Machine.execTimerTick d j s
  | .contactEdge pin => Sys2Proof.Machine.execContactEdge pin s
  | .frameReceive port pcp etype frame => Sys2Proof.Machine.execFrameReceive port pcp etype frame s
  | .timensDiscipline slew amount => Sys2Proof.Machine.execTimensDiscipline slew amount s
  | .hostKick vf q => Sys2Proof.Machine.execHostKick vf q s
  | .hostDramRequest fn off wr len => Sys2Proof.Machine.execHostDramRequest fn off wr len s
  | .claim mst epoch lease => Sys2Proof.Machine.execClaim mst epoch lease s
  | .beat mst epoch lease => Sys2Proof.Machine.execBeat mst epoch lease s
  | .nameSucc mst epoch succ => Sys2Proof.Machine.execNameSucc mst epoch succ s
  | .ackOwner mst epoch lease => Sys2Proof.Machine.execAckOwner mst epoch lease s
  | .resign mst epoch => Sys2Proof.Machine.execResign mst epoch s
  | .clearOwner epoch => Sys2Proof.Machine.execClearOwner epoch s
  | .admitTenant darg => Sys2Proof.Machine.execAdmitTenant darg s
  | .removeTenant darg => Sys2Proof.Machine.execRemoveTenant darg s
  | .dcmdSeize darg => Sys2Proof.Machine.execDcmdSeize darg s
  | .fwupd darg => Sys2Proof.Machine.execFwupd darg s
  | .mreset mst v => Sys2Proof.Machine.execMreset mst v s
  | .dsigKick core ten => Sys2Proof.Machine.execDsigKick core ten s
  | .dsigMsix core ten vec => Sys2Proof.Machine.execDsigMsix core ten vec s
  | .tenantSelect tid => Sys2Proof.Machine.execTenantSelect tid s
  | .tenantEntryWrite v => Sys2Proof.Machine.execTenantEntryWrite v s
  | .ptbaseWrite ten v => Sys2Proof.Machine.execPtbaseWrite ten v s
  | .escrowTenantChange w ten => Sys2Proof.Machine.execEscrowTenantChange w ten s
  | .slotValidSet slot ten v => Sys2Proof.Machine.execSlotValidSet slot ten v s
  | .slotValidClear slot => Sys2Proof.Machine.execSlotValidClear slot s
  | .capabilityTableRead ten => Sys2Proof.Machine.execCapabilityTableRead ten s
  | .fieldRingStart port ring => Sys2Proof.Machine.execFieldRingStart port ring s
  | .ewctlEnable v => Sys2Proof.Machine.execEwctlEnable v s
  | .registerWrite dst v => Sys2Proof.Machine.execRegisterWrite dst v s
  | .smbusSetPointer block pecOk => Sys2Proof.Machine.execSmbusSetPointer block pecOk s
  | .smbusRead pecOk => Sys2Proof.Machine.execSmbusRead pecOk s
  | .smbusWrite block pecOk => Sys2Proof.Machine.execSmbusWrite block pecOk s
  | .checkerMismatch t again => Sys2Proof.Machine.execCheckerMismatch t again s
  | .coreKill t cause => Sys2Proof.Machine.execCoreKill t cause s
  | .eccUncorrectable site => Sys2Proof.Machine.execEccUncorrectable site s
  | .correctedError t => Sys2Proof.Machine.execCorrectedError t s
  | .dispatchTakeover why => Sys2Proof.Machine.execDispatchTakeover why s
  | .journalMirrorReceive rec => Sys2Proof.Machine.execJournalMirrorReceive rec s
  | .powerInterval milliwatts tj => Sys2Proof.Machine.execPowerInterval milliwatts tj s
  | .boot codes mhz => Sys2Proof.Machine.execBoot codes mhz s
  | .illegalInstruction why word w => Sys2Proof.Machine.execIllegalInstruction why word w s
  | .fetchFault cause addr => Sys2Proof.Machine.execFetchFault cause addr s
  | .ret => Sys2Proof.Machine.execRet s
  | .jr => Sys2Proof.Machine.execJr s
  | .callr => Sys2Proof.Machine.execCallr s
  | .halt => Sys2Proof.Machine.execHalt s
  | .haltRetain => Sys2Proof.Machine.execHaltRetain s
  | .yield => Sys2Proof.Machine.execYield s
  | .mwait => Sys2Proof.Machine.execMwait s
  | .sleeptT => Sys2Proof.Machine.execSleeptT s
  | .bara => Sys2Proof.Machine.execBara s
  | .baraSet => Sys2Proof.Machine.execBaraSet s
  | .barw => Sys2Proof.Machine.execBarw s
  | .voteAnd => Sys2Proof.Machine.execVoteAnd s
  | .voteOr => Sys2Proof.Machine.execVoteOr s
  | .voteMaxu => Sys2Proof.Machine.execVoteMaxu s
  | .voteMinu => Sys2Proof.Machine.execVoteMinu s
  | .voteSum => Sys2Proof.Machine.execVoteSum s
  | .voteEq => Sys2Proof.Machine.execVoteEq s
  | .aretry => Sys2Proof.Machine.execAretry s
  | .mbinfoVer => Sys2Proof.Machine.execMbinfoVer s
  | .mbinfoTime => Sys2Proof.Machine.execMbinfoTime s
  | .mbinfoWho => Sys2Proof.Machine.execMbinfoWho s
  | .mbinfoFlags => Sys2Proof.Machine.execMbinfoFlags s
  | .espos => Sys2Proof.Machine.execEspos s
  | .esposOff => Sys2Proof.Machine.execEsposOff s
  | .qscr => Sys2Proof.Machine.execQscr s
  | .qscrOff => Sys2Proof.Machine.execQscrOff s
  | .spush => Sys2Proof.Machine.execSpush s
  | .spop => Sys2Proof.Machine.execSpop s
  | .sfork => Sys2Proof.Machine.execSfork s
  | .endorse => Sys2Proof.Machine.execEndorse s
  | .dqreqPush => Sys2Proof.Machine.execDqreqPush s
  | .dqreqPop => Sys2Proof.Machine.execDqreqPop s
  | .dqreqCnt => Sys2Proof.Machine.execDqreqCnt s
  | .rankqSelf => Sys2Proof.Machine.execRankqSelf s
  | .rankqCoord => Sys2Proof.Machine.execRankqCoord s
  | .rankqLoad => Sys2Proof.Machine.execRankqLoad s
  | .eret => Sys2Proof.Machine.execEret s
  | .wfi => Sys2Proof.Machine.execWfi s
  | .banksw => Sys2Proof.Machine.execBanksw s
  | .gennew => Sys2Proof.Machine.execGennew s
  | .gennewKeep => Sys2Proof.Machine.execGennewKeep s
  | .genset => Sys2Proof.Machine.execGenset s
  | .killCore => Sys2Proof.Machine.execKillCore s
  | .killTask => Sys2Proof.Machine.execKillTask s
  | .killRestart => Sys2Proof.Machine.execKillRestart s
  | .seal => Sys2Proof.Machine.execSeal s
  | .kickscanOne => Sys2Proof.Machine.execKickscanOne s
  | .kickscanAll => Sys2Proof.Machine.execKickscanAll s
  | .kickscanCpl => Sys2Proof.Machine.execKickscanCpl s
  | .injarm => Sys2Proof.Machine.execInjarm s
  | .injarmOff => Sys2Proof.Machine.execInjarmOff s
  | .chkctlRd => Sys2Proof.Machine.execChkctlRd s
  | .chkctlClr => Sys2Proof.Machine.execChkctlClr s
  | .chkctlTest => Sys2Proof.Machine.execChkctlTest s
  | .registerFill => Sys2Proof.Machine.execRegisterFill s
  | .accessPerformed => Sys2Proof.Machine.execAccessPerformed s
  | .syncAccessServed => Sys2Proof.Machine.execSyncAccessServed s
  | .mwaitTimeout => Sys2Proof.Machine.execMwaitTimeout s
  | .mwaitSpurious => Sys2Proof.Machine.execMwaitSpurious s
  | .sleeptWake => Sys2Proof.Machine.execSleeptWake s
  | .vectorEntryComplete => Sys2Proof.Machine.execVectorEntryComplete s
  | .vectorFaultStop => Sys2Proof.Machine.execVectorFaultStop s
  | .matrixEntryComplete => Sys2Proof.Machine.execMatrixEntryComplete s
  | .matrixFaultStop => Sys2Proof.Machine.execMatrixFaultStop s
  | .collectiveComplete => Sys2Proof.Machine.execCollectiveComplete s
  | .atomicAtHome => Sys2Proof.Machine.execAtomicAtHome s
  | .atomicRefusal => Sys2Proof.Machine.execAtomicRefusal s
  | .atomicResponseLost => Sys2Proof.Machine.execAtomicResponseLost s
  | .stashOpComplete => Sys2Proof.Machine.execStashOpComplete s
  | .squareWriteGrant => Sys2Proof.Machine.execSquareWriteGrant s
  | .flip => Sys2Proof.Machine.execFlip s
  | .squareReadGrant => Sys2Proof.Machine.execSquareReadGrant s
  | .mbgetComplete => Sys2Proof.Machine.execMbgetComplete s
  | .mbinfoResponse => Sys2Proof.Machine.execMbinfoResponse s
  | .squareRefusal => Sys2Proof.Machine.execSquareRefusal s
  | .escrowInstall => Sys2Proof.Machine.execEscrowInstall s
  | .treeUpdate => Sys2Proof.Machine.execTreeUpdate s
  | .dqreqServe => Sys2Proof.Machine.execDqreqServe s
  | .quantumClose => Sys2Proof.Machine.execQuantumClose s
  | .voteComplete => Sys2Proof.Machine.execVoteComplete s
  | .barwWake => Sys2Proof.Machine.execBarwWake s
  | .fpxWindowClose => Sys2Proof.Machine.execFpxWindowClose s
  | .vectorShareWindow => Sys2Proof.Machine.execVectorShareWindow s
  | .budgetExpire => Sys2Proof.Machine.execBudgetExpire s
  | .budgetGraceExpire => Sys2Proof.Machine.execBudgetGraceExpire s
  | .trapEntry => Sys2Proof.Machine.execTrapEntry s
  | .interruptEntry => Sys2Proof.Machine.execInterruptEntry s
  | .launchBind => Sys2Proof.Machine.execLaunchBind s
  | .tileTaskEnd => Sys2Proof.Machine.execTileTaskEnd s
  | .retainExpire => Sys2Proof.Machine.execRetainExpire s
  | .migrate => Sys2Proof.Machine.execMigrate s
  | .seizeMessage => Sys2Proof.Machine.execSeizeMessage s
  | .tileRelease => Sys2Proof.Machine.execTileRelease s
  | .rearm => Sys2Proof.Machine.execRearm s
  | .preemptSaveDone => Sys2Proof.Machine.execPreemptSaveDone s
  | .frameTransmit => Sys2Proof.Machine.execFrameTransmit s
  | .ptpFrame => Sys2Proof.Machine.execPtpFrame s
  | .leaseExpire => Sys2Proof.Machine.execLeaseExpire s
  | .injection => Sys2Proof.Machine.execInjection s
  | .spareLinkRetrain => Sys2Proof.Machine.execSpareLinkRetrain s
  | .activeAssert => Sys2Proof.Machine.execActiveAssert s
  | .activeTie => Sys2Proof.Machine.execActiveTie s
  | .failover => Sys2Proof.Machine.execFailover s
  | .powerOn => Sys2Proof.Machine.execPowerOn s
  | .powerDown => Sys2Proof.Machine.execPowerDown s
  | .moduleReset => Sys2Proof.Machine.execModuleReset s
  | .preemptOrderArrival => Sys2Proof.Machine.execPreemptOrderArrival s
  | .aging => Sys2Proof.Machine.execAging s

end Sys2Proof.Machine
end

