-- ==== Sys2Proof/Machine/Step.lean ====
section
/-! DEFINITION. The step of the module. -/

namespace Sys2Proof.Machine

/-- One step: what the surroundings do, a candidate at a boundary, an instruction, or a row of the units. -/
def step (s : State) : Host.Outcome State Fault Refusal := stepWith exec s

/-- The state with a table row's instruction where the next step fetches it (log entry 2). -/
def State.withFetchWord (s : State) (nbits w : Nat) : State := s.placeWords (tableWords nbits w)

end Sys2Proof.Machine
end

