-- ==== Sys2Proof/Safety.lean ====
section
/-! DEFINITION. What a good state and a safe run are, in the terms that statements use. -/

namespace Sys2Proof.Machine

/-- The storage and the granules' states are in canonical form. -/
def State.Canonical (s : State) : Prop := Memory.wf s.mem = true ∧ kvWf ({} : Gran) s.grans = true

/-- The module can execute an instruction of its moving context at once: it has power, it has booted, nothing of the
surroundings is due, the context runs and does not wait, and no candidate of R382 is taken at its boundary. -/
def State.Ready (s : State) : Prop :=
  s.powered = true ∧ s.booted = true ∧ s.inputs = [] ∧ s.c.runs = true ∧ s.c.stalled = false ∧ atBoundary s = none

/-- A step that answers a next state is safe: the module runs on. -/
def Out.Runs (o : Host.Outcome State Fault Refusal) : Prop := ∃ s, o = .next s

/-- A run of `n` steps that meets no fault and no refusal. -/
def SafeFor : Nat → State → Prop
  | 0, _ => True
  | n + 1, s => ∃ t, step s = .next t ∧ SafeFor n t

/-! The terms in which a completion is stated. -/

/-- A register reads as a value: it is full, and its tag lets the value be seen (R22, R24). -/
def Ctx.Reads (c : Ctx) (r : RegId) (v : Word) : Prop := (c.reg r).full = true ∧ c.tagged (c.reg r) = some v

/-- A register takes a write at once: no earlier result is on its way to it (R23). -/
def Ctx.Takes (c : Ctx) (r : RegId) : Prop := (c.reg r).full = true

/-- The index of the repetition that executes (R57, R58). -/
def repIndex (p : Pre) (s : State) : Nat := if p.rep.isSome then s.c.repi else 0

/-- A repetition is left to execute: always without REP, and while the index is below REP's count (R57). -/
def repLeft (p : Pre) (s : State) : Prop := ∀ r, p.rep = some r → s.c.repi < widenU r.count r.run

/-- What follows one execution that has left `t`: without REP, or at the last repetition, the instruction retires; otherwise the
next repetition is due (R57, R58). -/
def afterRep (g : Bool) (p : Pre) (s t : State) : State :=
  if p.rep.any fun r => s.c.repi + 1 < widenU r.count r.run then
    let t := t.rejoin
    { t with c := { t.c with repi := s.c.repi + 1, stalled := false, waitFrom := none }
             waiters := t.waiters.filter fun w => w.uid ≠ s.c.uid }
  else retire (p.len g) t

/-- The state with a register of the moving context written: full, tagged GEN (R23, R24). -/
def State.withReg (s : State) (r : RegId) (v : Word) : State := { s with c := s.c.setReg r ⟨v, true, s.c.gen⟩ }

/-- The state with the moving context's flags. -/
def State.withFlags (s : State) (f : Flags) : State := { s with c := { s.c with flags := f } }

/-- The state with a result under way: ACC empty where the operation writes it, its flags waited for (R21, R114). -/
def State.withLate (s : State) (op : AluOp) (fl : Flags) (j : Job) : State :=
  { s with c := { s.c with
    acc := if op = .cmp ∨ op = .tst then s.c.acc else { s.c.acc with full := false }
    pend := s.c.pend.join fl, jobs := s.c.jobs ++ [j] } }

/-- No flag of a set waits for a slow access (R114). -/
def Ctx.Settled (c : Ctx) (f : Flags) : Prop := c.pend.meets f = false

end Sys2Proof.Machine
end

