-- ==== Sys2Proof/Certificates/Slice0/Obligations.lean ====
section
/-! DEFINITION. The statements for the provers. -/

open Sys2Proof Sys2Proof.Machine

/-- The instructions of layout S on ACC and a source, with their operations (R60, R116, R118). -/
def layoutS : List (AluOp × (Pre → Src9 → Instr)) :=
  [(.ld, .ld), (.add, .add), (.sub, .sub), (.rsub, .rsub), (.cmp, .cmp), (.tst, .tst), (.and, .and), (.or, .or), (.xor, .xor),
   (.andn, .andn), (.shl, .shl), (.shr, .shr), (.sar, .sar), (.rol, .rol), (.mul, .mul), (.mulh, .mulh), (.mulhu, .mulhu), (.div, .div),
   (.divu, .divu), (.rem, .rem), (.remu, .remu), (.min, .min), (.max, .max), (.minu, .minu), (.maxu, .maxu)]

/-! ## Scalar results (R111 to R121) -/

/-- N and Z of a result, with C and V given (R118). -/
def flagsOf (r : Word) (c v : Bool) : Flags := { n := decide (r.toInt < 0), z := decide (r = 0), c := c, v := v }

/-- N and Z of a result, the other flags kept (R118). -/
def flagsZn (f : Flags) (r : Word) : Flags := { f with n := decide (r.toInt < 0), z := decide (r = 0) }

/-- What ACC reads as and what a source operand is, as the instructions of layout S find them: `a`, `b`, and the state in which the
operand has been read (R111); no flag of `m` is waited for. -/
def ReadsBoth (p : Pre) (src : Src9) (m : Flags) (s t : State) (a b : Word) : Prop :=
  repLeft p s ∧ s.c.Reads .acc a ∧ source p (repIndex p s) src s = .ok (.now b, t) ∧ s.c.Settled m

/-- R118: ADD, SUB, RSUB and CMP complete: ACC is the sum or difference modulo 2^64 (CMP keeps ACC), Z and N describe it, C is the
carry or the borrow, V says that the exact signed result lies outside the range. Nothing else changes but the boundary. -/
def Obligations.AddSubResult : Prop :=
  ∀ (p : Pre) (src : Src9) (s t : State) (a b : Word), ReadsBoth p src ⟨true, true, true, true⟩ s t a b →
    let out (x : Int) : Bool := decide (x < -2 ^ 63 ∨ 2 ^ 63 ≤ x)
    let sum := i64 (a.toInt + b.toInt)
    let ab := i64 (a.toInt - b.toInt)
    let ba := i64 (b.toInt - a.toInt)
    let done (u : State) : Out := .next (afterRep false p s u)
    exec (.add p src) s =
      done ((t.withFlags (flagsOf sum (decide (2 ^ 64 ≤ a.toNat + b.toNat)) (out (a.toInt + b.toInt)))).withReg .acc sum) ∧
    exec (.sub p src) s = done ((t.withFlags (flagsOf ab (decide (a.toNat < b.toNat)) (out (a.toInt - b.toInt)))).withReg .acc ab) ∧
    exec (.rsub p src) s = done ((t.withFlags (flagsOf ba (decide (b.toNat < a.toNat)) (out (b.toInt - a.toInt)))).withReg .acc ba) ∧
    exec (.cmp p src) s = done (t.withFlags (flagsOf ab (decide (a.toNat < b.toNat)) (out (a.toInt - b.toInt))))

/-- R118: AND, OR, XOR, ANDN and TST complete: bit i of the result is the operation on bits i of the operands (TST keeps ACC), Z and
N describe it, C and V are kept. -/
def Obligations.LogicResult : Prop :=
  ∀ (p : Pre) (src : Src9) (s t : State) (a b : Word), ReadsBoth p src ⟨true, true, false, false⟩ s t a b →
    let bitwise (f : Bool → Bool → Bool) (r : Word) : Prop := ∀ i, i < 64 → r.getLsbD i = f (a.getLsbD i) (b.getLsbD i)
    let puts (i : Instr) (r : Word) : Prop :=
      exec i s = .next (afterRep false p s ((t.withFlags (flagsZn s.c.flags r)).withReg .acc r))
    (∃ r, bitwise (fun x y => x && y) r ∧ puts (.and p src) r ∧
      exec (.tst p src) s = .next (afterRep false p s (t.withFlags (flagsZn s.c.flags r)))) ∧
    (∃ r, bitwise (fun x y => x || y) r ∧ puts (.or p src) r) ∧
    (∃ r, bitwise (fun x y => x != y) r ∧ puts (.xor p src) r) ∧
    (∃ r, bitwise (fun x y => x && !y) r ∧ puts (.andn p src) r)

/-- R118: SHL, SHR, SAR and ROL complete for every amount n, bits 5:0 of the operand: ACC times 2^n modulo 2^64, floor(ACC / 2^n)
unsigned and signed, the rotation; C is the last bit shifted out and is kept for n = 0 and by ROL; V is kept. -/
def Obligations.ShiftResult : Prop :=
  ∀ (p : Pre) (src : Src9) (s t : State) (a b : Word), ReadsBoth p src ⟨true, true, true, false⟩ s t a b →
    let n := b.toNat % 64
    let puts (i : Instr) (c : Bool) (r : Word) : Prop :=
      exec i s = .next (afterRep false p s ((t.withFlags { flagsZn s.c.flags r with c := c }).withReg .acc r))
    let last (i : Nat) : Bool := if n = 0 then s.c.flags.c else a.getLsbD i
    puts (.shl p src) (last (64 - n)) (w64 (a.toNat * 2 ^ n)) ∧
    puts (.shr p src) (last (n - 1)) (w64 (a.toNat / 2 ^ n)) ∧
    puts (.sar p src) (last (n - 1)) (i64 (a.toInt / 2 ^ n)) ∧
    puts (.rol p src) s.c.flags.c (w64 (a.toNat * 2 ^ n) ||| w64 (a.toNat / 2 ^ (64 - n)))

/-- R118: MUL, MULH and MULHU complete: the low 64 bits of the exact product, and the high 64 bits of the signed and of the unsigned
product; MUL's C and V say that the product does not fit unsigned and signed. -/
def MulResult : Prop :=
  ∀ (p : Pre) (src : Src9) (s t : State) (a b : Word), ReadsBoth p src ⟨true, true, true, true⟩ s t a b →
    let x : Int := a.toInt * b.toInt
    let lo := w64 (a.toNat * b.toNat)
    let hs := i64 (x / 2 ^ 64)
    let hu := w64 (a.toNat * b.toNat / 2 ^ 64)
    let done (f : Flags) (r : Word) : Out := .next (afterRep false p s ((t.withFlags f).withReg .acc r))
    exec (.mul p src) s = done (flagsOf lo (decide (2 ^ 64 ≤ a.toNat * b.toNat)) (decide (x < -2 ^ 63 ∨ 2 ^ 63 ≤ x))) lo ∧
    exec (.mulh p src) s = done (flagsZn s.c.flags hs) hs ∧
    exec (.mulhu p src) s = done (flagsZn s.c.flags hu) hu

/-- R119: DIV, DIVU, REM and REMU complete for every divisor: truncated toward zero, the remainder with the dividend's sign; a
division by zero gives all ones and the dividend, the most negative number by -1 gives itself and 0; V marks both corners. C is kept. -/
def DivResult : Prop :=
  ∀ (p : Pre) (src : Src9) (s t : State) (a b : Word), ReadsBoth p src ⟨true, true, false, true⟩ s t a b →
    let puts (i : Instr) (v : Bool) (r : Word) : Prop :=
      exec i s = .next (afterRep false p s ((t.withFlags { flagsZn s.c.flags r with v := v }).withReg .acc r))
    let corner : Prop := a.toInt = -2 ^ 63 ∧ b.toInt = -1
    (b = 0 → puts (.div p src) true allOnes ∧ puts (.divu p src) true allOnes ∧ puts (.rem p src) true a ∧ puts (.remu p src) true a) ∧
    (corner → puts (.div p src) true a ∧ puts (.rem p src) true 0) ∧
    (b ≠ 0 → ¬ corner → puts (.div p src) false (i64 (Int.tdiv a.toInt b.toInt)) ∧ puts (.rem p src) false (i64 (Int.tmod a.toInt b.toInt))) ∧
    (b ≠ 0 → puts (.divu p src) false (w64 (a.toNat / b.toNat)) ∧ puts (.remu p src) false (w64 (a.toNat % b.toNat)))

/-- R118, R119: the multiplications and the divisions. -/
def Obligations.MulDivResult : Prop := MulResult ∧ DivResult

/-- R118: MIN, MAX, MINU and MAXU complete: the smaller or larger operand as signed or as unsigned numbers; C and V are kept. R116: LD
completes with the operand in ACC, whatever ACC held, and no flag changed. -/
def Obligations.SelectResult : Prop :=
  ∀ (p : Pre) (src : Src9) (s t : State) (a b : Word),
    (ReadsBoth p src ⟨true, true, false, false⟩ s t a b →
      let puts (i : Instr) (r : Word) : Prop :=
        exec i s = .next (afterRep false p s ((t.withFlags (flagsZn s.c.flags r)).withReg .acc r))
      puts (.min p src) (i64 (Min.min a.toInt b.toInt)) ∧ puts (.max p src) (i64 (Max.max a.toInt b.toInt)) ∧
      puts (.minu p src) (w64 (Min.min a.toNat b.toNat)) ∧ puts (.maxu p src) (w64 (Max.max a.toNat b.toNat))) ∧
    (repLeft p s → s.c.Takes .acc → source p (repIndex p s) src s = .ok (.now b, t) →
      exec (.ld p src) s = .next (afterRep false p s (t.withReg .acc b)))

/-- The address of element x at a pointer, R19: P, PBASE and PSPAN make a ring where PSPAN is not 0. -/
def ringAddress (d : PDesc) (v : Word) (off : Int) : Word :=
  if d.span = 0 then i64 (v.toInt + off) else i64 (d.base.toInt + ((v.toNat : Int) - d.base.toNat + off) % (d.span.toNat : Int))

/-- Element `x` at pointer `n` (R19): the pointer's value, its element type, and the aligned address. -/
structure ElementAt (s : State) (n : R3) (x : Nat) (ty : ETy) (v ea : Word) : Prop where
  reads : s.c.Reads (.p n) v
  typed : ETy.ofCode (s.c.desc n).ty.toNat = some ty
  scalar : ty.scalarOk = true
  address : ea = ringAddress (s.c.desc n) v ((x * ty.bytes : Nat) : Int)
  aligned : ea.toNat % ty.bytes = 0

/-- A pointer operand of a scalar instruction: the pointer that its field names, at its element offset (R19, R50, R57). -/
abbrev AddressOf (p : Pre) (s : State) (i : Nat) (m : MemOpd) (ty : ETy) (v ea : Word) : Prop :=
  ElementAt s (s.c.field p 0 i m.n) (memX p m.x i) ty v ea

/-- A place that an issuer's plain access of `n` bytes reaches with no wait and no trap, `t` being the state with the translation held
(R112, R113, R130, R230, R233, R241). -/
structure PlainPlace (s t : State) (iss : Issuer) (ea : Word) (n : Nat) (write : Bool) (r : Res) : Prop where
  place : s.resolve iss ea.toNat (if write then .write else .read) = .ok r
  held : t = s.noteRes iss r
  calm : (t.acquires t.c || t.unitHazard t.c r.key n || t.pendingAt t.c r.key || t.busy (r.key / 32) write) = false
  fresh : write = false → t.readFault iss r ea.toNat n = none
  allowed : write = true → t.capFail iss ea.toNat = none ∧ t.redirects iss ea.toNat = none

/-- A place that a synchronising access of `n` bytes reaches: tagged or local storage, its bit as the access awaits it, the context first
in the queue, no unit in the way, no mixed size and no poison (R113, R360). -/
structure SyncPlace (s t : State) (iss : Issuer) (ea : Word) (n : Nat) (full : Bool) (r : Res) : Prop where
  place : s.resolve iss ea.toNat (if full then .read else .write) = .ok r
  held : t = s.noteRes iss r
  near : r.dram = false ∧ t.redirects iss ea.toNat = none ∧ (full = false → t.capFail iss ea.toNat = none)
  calm : (t.acquires t.c || t.unitHazard t.c r.key n || t.pendingAt t.c r.key || t.busy (r.key / 32) (!full)) = false
  bitIs : (t.gran (r.key / 32)).full = full ∧ t.poisoned r = false
  turn : t.myTurn (r.key / 32) (!full) = true
  same : (iss.mixtrap && (t.gran (r.key / 32)).mixes (r.key % 32) n) = false
  seenFull : full = true → t.genFaults iss r = false
  unreported : full = false → t.c.reportOf (r.key / 32) = none ∧ t.c.barrierOf (r.key / 32) = none

/-- The pointer's value after a form's access: one PSTEP up or down under the ring rule, or unchanged (R19). -/
def steppedTo (f : StepForm) (d : PDesc) (v : Word) : Word :=
  match f with
  | .up => if d.step = 0 then v else ringAddress d v d.step.toInt
  | .down => if d.step = 0 then v else ringAddress d v (-d.step.toInt)
  | .plain | .sync => v

/-- The state with the pointer of a form stepped. -/
def stepped (m : MemOpd) (n : R3) (d : PDesc) (v : Word) (u : State) : State :=
  if (m.form = .up ∨ m.form = .down) ∧ d.step ≠ 0 then u.withReg (.p n) (steppedTo m.form d v) else u

/-- What a plain read of an element finds: the value, extended by its type, or, where accesses away from the tile are slow, the element
that is read later (R21, R111, R112). -/
def readAt (t : State) (iss : Issuer) (r : Res) (ty : ETy) (ea : Word) : SrcVal :=
  if t.slow && r.far then .later ⟨ea, ty⟩ else .now (ty.extend (leNat (t.readBytes iss r ea.toNat ty.bytes)))

/-- What a synchronising read of an element finds: the value, which is on its way where its home is slow and away from the tile. -/
def sentAt (t : State) (iss : Issuer) (r : Res) (ty : ETy) (ea : Word) : SrcVal :=
  let got := ty.extend (leNat (t.readBytes iss r ea.toNat ty.bytes))
  if t.slow && r.far then .sent got else .now got

/-- The granule of a place has been emptied under the issuer's generation; the context and every other granule are as they were (R113,
R359, R360). -/
def Emptied (t u : State) (iss : Issuer) (r : Res) : Prop :=
  u.c = t.c ∧ (t.Canonical → (u.gran (r.key / 32)).full = false ∧ (u.gran (r.key / 32)).tag = t.tagFor iss r ∧
    ∀ g, g ≠ r.key / 32 → u.gran g = t.gran g)

/-- A load under way on the operands still to come: each of its elements in DRAM keeps the page to which it was translated at issue, as
pairs of the page in the DRAM window and the physical page (R112, R114, R356). -/
def UnderWay (t : State) (iss : Issuer) (op : AluOp) (acc : Word) (a : Elem ⊕ Word) (b : Option Elem) (j : Job) : Prop :=
  ∃ pages, j = .load { iss with xlat := pages } op acc a b ∧ ∀ x y, (x, y) ∈ pages ↔ ∃ e r, (a = .inl e ∨ b = some e) ∧
    t.resolve iss e.ea.toNat .read = .ok r ∧ r.dram = true ∧ x = (e.ea.toNat - 0x4000_0000_0000) / 4096 ∧ y = r.key / 4096

/-- The end of MAC with both operands found in `t` (R114, R120): ACC plus the low 64 bits of their product, with ADD's flags; or, when an
operand is to come, ACC empty, the flags waited for, and the rest under way. -/
def MacEnds (p : Pre) (s t : State) (acc : Word) (x y : SrcVal) (o : Out) : Prop :=
  let sum (x y : Word) : Prop :=
    let xy := i64 (x.toInt * y.toInt)
    let e := acc.toInt + xy.toInt
    o = .next (afterRep false p s
      ((t.withFlags (flagsOf (i64 e) (decide (2 ^ 64 ≤ acc.toNat + xy.toNat)) (decide (e < -2 ^ 63 ∨ 2 ^ 63 ≤ e)))).withReg .acc (i64 e)))
  let late (a : Elem ⊕ Word) (b : Option Elem) : Prop := ∃ j, UnderWay t (s.c.issuer (s.c.scopeOf p)) .add acc a b j ∧
    o = .next (afterRep false p s (t.withLate .add ⟨true, true, true, true⟩ j))
  match x, y with
  | .now x, .now y => sum x y
  | .later a, .later b => late (.inl a) (some b)
  | .later a, .now y | .later a, .sent y => late (.inr y) (some a)
  | .now x, .later b | .sent x, .later b => late (.inr x) (some b)
  | .sent x, .now y | .now x, .sent y | .sent x, .sent y => late (.inr (i64 (x.toInt * y.toInt))) none

/-- R120: MAC completes with ACC plus the product of its two operands. The second is element 0 at the second pointer: PFX.X's, or the one
after the memory form's; its register number takes REP's index by STEP bit 1. A first operand that is not synchronising is read and its
pointer stepped first; then the second is read and its pointer stepped up. A synchronising first operand has its address first and is
read, and its granule emptied, after the second has been read and stepped (where its traps stand is log entry 109). -/
def Obligations.MacResult : Prop :=
  ∀ (p : Pre) (src : Src9) (s : State) (acc : Word), repLeft p s → s.c.Reads .acc acc → s.c.Settled ⟨true, true, true, true⟩ →
    (p.x.isSome ∨ ∃ m, src = .mem m) →
    let iss := s.c.issuer (s.c.scopeOf p)
    let i := repIndex p s
    let step (b : Nat) : R3 := if p.rep.any fun r => r.step.getLsbD b then BitVec.ofNat 3 i else 0
    let q : R3 := match p.x, src with
      | some x, _ => x.q + s.c.stagger + step 1
      | none, .mem m => m.n + s.c.stagger + step 0 + 1 + step 1
      | none, _ => 0
    let up (u : State) (v : Word) : State := stepped ⟨.up, q, 0⟩ q (u.c.desc q) v u
    ((∀ n x, src ≠ .mem ⟨.sync, n, x⟩) → ∀ (x : SrcVal) (t u : State) (ty : ETy) (v ea : Word) (r : Res),
      source p i src s = .ok (x, t) → ElementAt t q 0 ty v ea → PlainPlace t u iss ea ty.bytes false r →
      MacEnds p s (up u v) acc x (readAt u iss r ty ea) (exec (.mac p src) s)) ∧
    (∀ (n f : R3) (t u : State) (ty ty' : ETy) (v ea v' ea' : Word) (r r' : Res), src = .mem ⟨.sync, n, f⟩ →
      AddressOf p s i ⟨.sync, n, f⟩ ty v ea → ElementAt s q 0 ty' v' ea' → PlainPlace s t iss ea' ty'.bytes false r' →
      SyncPlace (up t v') u iss ea ty.bytes true r →
      ∃ z, Emptied u z iss r ∧ MacEnds p s z acc (sentAt u iss r ty ea) (readAt t iss r' ty' ea') (exec (.mac p src) s))

/-- R114, R21: a source that a slow access will bring, or that a synchronising load has read and that is on its way. The instruction
completes at once: ACC is empty until the value arrives (CMP and TST leave it), the flags that it writes are waited for, and the access
is under way, to the page of its issue; nothing else is changed. -/
def Obligations.LateSource : Prop :=
  ∀ (op : AluOp) (mk : Pre → Src9 → Instr), (op, mk) ∈ layoutS → ∀ (p : Pre) (src : Src9) (s t : State) (a v : Word) (e : Elem),
    repLeft p s → (if op = .ld then a = 0 ∧ s.c.Takes .acc else s.c.Reads .acc a) → s.c.Settled op.flagMask →
    let late (x : Elem ⊕ Word) : Prop := ∃ j, UnderWay t (s.c.issuer (s.c.scopeOf p)) op a x none j ∧
      exec (mk p src) s = .next (afterRep false p s (t.withLate op op.flagMask j))
    (source p (repIndex p s) src s = .ok (.later e, t) → late (.inl e)) ∧
    (source p (repIndex p s) src s = .ok (.sent v, t) → late (.inr v))

/-- R121: the unary forms complete on every value of ACC: NEG, NOT, ABS, the sign and zero extensions and SETF, with their flags. -/
def UnaryResult : Prop :=
  ∀ (p : Pre) (s : State) (a : Word), repLeft p s → s.c.Reads .acc a → s.c.Settled ⟨true, true, true, true⟩ →
    let puts (i : Instr) (f : Flags) (r : Word) : Prop := exec i s = .next (afterRep false p s ((s.withFlags f).withReg .acc r))
    let zn (r : Word) : Flags := flagsZn s.c.flags r
    let low (n : Nat) : BitVec n := BitVec.ofNat n a.toNat
    puts (.neg p) (flagsOf (i64 (-a.toInt)) (decide (a ≠ 0)) (decide (a.toInt = -2 ^ 63))) (i64 (-a.toInt)) ∧
    puts (.abs p) { zn (w64 a.toInt.natAbs) with v := decide (a.toInt = -2 ^ 63) } (w64 a.toInt.natAbs) ∧
    puts (.not p) (zn (i64 (-1 - a.toInt))) (i64 (-1 - a.toInt)) ∧
    puts (.sextB p) (zn (i64 (low 8).toInt)) (i64 (low 8).toInt) ∧ puts (.sextH p) (zn (i64 (low 16).toInt)) (i64 (low 16).toInt) ∧
    puts (.sextW p) (zn (i64 (low 32).toInt)) (i64 (low 32).toInt) ∧ puts (.zextB p) (zn (w64 (low 8).toNat)) (w64 (low 8).toNat) ∧
    puts (.zextH p) (zn (w64 (low 16).toNat)) (w64 (low 16).toNat) ∧ puts (.zextW p) (zn (w64 (low 32).toNat)) (w64 (low 32).toNat) ∧
    exec (.setf p) s = .next (afterRep false p s (s.withFlags (flagsOf a false false)))

/-- R121: CLZ, CTZ, POPC, BREV and BSWAP complete on every value of ACC: the numbers of leading and of trailing zeros (64 for 0), the
number of ones, the bits and the bytes in reverse order; Z and N describe the result, C and V are kept. -/
def BitCountResult : Prop :=
  ∀ (p : Pre) (s : State) (a : Word), repLeft p s → s.c.Reads .acc a → s.c.Settled ⟨true, true, false, false⟩ →
    let puts (i : Instr) (r : Word) : Prop := exec i s = .next (afterRep false p s ((s.withFlags (flagsZn s.c.flags r)).withReg .acc r))
    (∃ n, n ≤ 64 ∧ a.toNat < 2 ^ (64 - n) ∧ (n < 64 → 2 ^ (63 - n) ≤ a.toNat) ∧ puts (.clz p) (w64 n)) ∧
    (∃ n, n ≤ 64 ∧ 2 ^ n ∣ a.toNat ∧ (n < 64 → a.getLsbD n = true) ∧ puts (.ctz p) (w64 n)) ∧
    puts (.popc p) (w64 ((List.range 64).countP fun i => a.getLsbD i)) ∧
    (∃ r : Word, (∀ i, i < 64 → r.getLsbD i = a.getLsbD (63 - i)) ∧ puts (.brev p) r) ∧
    (∃ r : Word, (∀ i j, i < 8 → j < 8 → r.getLsbD (8 * i + j) = a.getLsbD (8 * (7 - i) + j)) ∧ puts (.bswap p) r)

/-- R121: the unary forms on ACC. -/
def Obligations.UnaryFormsResult : Prop := UnaryResult ∧ BitCountResult

/-- R50, R57, R116, R117: NOP completes with no effect, LDI with its immediate in ACC and no flag changed, ADDI with the sum and ADD's
flags. The immediate is the signed field, extended by PFX.I, or with REP's index added to it exactly. -/
def Obligations.ImmediateResult : Prop :=
  ∀ (p : Pre) (f : BitVec 9) (s : State) (a : Word), repLeft p s →
    let imm : Int := match p.rep with
      | none => widenS f p.imm
      | some r => f.toInt + if r.step.getLsbD 2 then s.c.repi else 0
    let e := a.toInt + (i64 imm).toInt
    exec (.nop p) s = .next (afterRep false p s s) ∧
    (s.c.Takes .acc → exec (.ldi p f) s = .next (afterRep false p s (s.withReg .acc (i64 imm)))) ∧
    (s.c.Reads .acc a → s.c.Settled ⟨true, true, true, true⟩ → exec (.addi p f) s = .next (afterRep false p s
      ((s.withFlags (flagsOf (i64 e) (decide (2 ^ 64 ≤ a.toNat + (i64 imm).toNat)) (decide (e < -2 ^ 63 ∨ 2 ^ 63 ≤ e)))).withReg .acc (i64 e))))

/-! ## Source operands and stores (R19, R60, R111 to R113, R228, R359) -/

/-- R60, R111: a source that is no memory form reads at once as the pointer's value (the field stepped by REP), the mask, the signed
immediate (extended by PFX.I or with REP's index added exactly), ACC, or the cycle counter; nothing is changed. -/
def RegisterForms : Prop :=
  ∀ (p : Pre) (i : Nat) (n : R3) (f : BitVec 6) (s : State) (v : Word),
    let stepped (b : Nat) : Nat := if p.rep.any fun r => r.step.getLsbD b then i else 0
    (s.c.Reads (.p (n + s.c.stagger + BitVec.ofNat 3 (stepped 0))) v → source p i (.ptr n) s = .ok (.now v, s)) ∧
    (s.c.Reads (.k n) v → source p i (.mask n) s = .ok (.now v, s)) ∧
    (s.c.Reads .acc v → source p i .acc s = .ok (.now v, s)) ∧
    (p.rep = none → source p i (.imm f) s = .ok (.now (i64 (widenS f p.imm)), s)) ∧
    (p.rep ≠ none → source p i (.imm f) s = .ok (.now (i64 (f.toInt + stepped 2)), s)) ∧
    source p i .cyc s = .ok (.now (w64 s.cyc), s)

/-- A register that is empty under its FEPOL bit (R22). -/
def EmptyTraps (c : Ctx) (r : RegId) : Prop := (c.reg r).full = false ∧ c.fepol.getLsbD r.index = true

/-- A full register whose tag is neither GEN nor of GENRD, nor 0, under GENPOL.TRAP (R24). -/
def ForeignTraps (c : Ctx) (r : RegId) : Prop :=
  (c.reg r).full = true ∧ (c.reg r).tag ≠ 0 ∧ (c.reg r).tag ≠ c.gen ∧ (∀ g ∈ c.genrd.toList, g ≠ (c.reg r).tag) ∧ c.gentrap = true

/-- R22, R24: an instruction of layout S that reads an empty register under FEPOL traps FEEMPTY, one that reads a register of another
generation under GENPOL.TRAP traps GENFAULT, with the register's index in TVAL (ACC 0, Pn 1 + n, Kn 9 + n) and nothing changed. Where
both operands trap, ACC's trap is taken (log entry 109). -/
def RegisterTraps : Prop :=
  ∀ (op : AluOp) (mk : Pre → Src9 → Instr), (op, mk) ∈ layoutS → ∀ (p : Pre) (src : Src9) (s : State), repLeft p s →
    let traps (r : RegId) (index : Nat) : Prop :=
      (EmptyTraps s.c r → exec (mk p src) s = .next (takeTrap false 0x03 0 (w64 index) s.c.pc p.rep.isSome s)) ∧
      (ForeignTraps s.c r → exec (mk p src) s = .next (takeTrap false 0x04 0 (w64 index) s.c.pc p.rep.isSome s))
    let n (f : R3) : R3 := s.c.field p 0 (repIndex p s) f
    (op ≠ .ld → traps .acc 0) ∧
    ((op = .ld ∨ ∃ a, s.c.Reads .acc a) → match src with
      | .ptr f => traps (.p (n f)) (1 + (n f).toNat)
      | .mem m => traps (.p (n m.n)) (1 + (n m.n).toNat)
      | .mask k => traps (.k k) (9 + k.toNat)
      | .acc => traps .acc 0
      | .imm _ | .cyc => True)

/-- R19, R112, R113, R206 to R209, R354, R358, R395: where a memory source of layout S traps, in this order. A reserved element type is
SHAPE WHY 1, one that is no scalar type WHY 9, of operand 5; a misaligned address ALIGN. An address outside the windows, or untranslated,
is XLATE; a DRAM address of a reflex strand REFLEXDRAM; a page that forbids the read, or DRAM that is not there, ACCESS; so is a
synchronising access to DRAM. A stale granule is GENFAULT under TRAP and poison POISON. TVAL has the address. -/
def MemoryTraps : Prop :=
  ∀ (op : AluOp) (mk : Pre → Src9 → Instr), (op, mk) ∈ layoutS → ∀ (p : Pre) (m : MemOpd) (s : State) (v : Word), repLeft p s →
    (op = .ld ∨ ∃ a, s.c.Reads .acc a) →
    let iss := s.c.issuer (s.c.scopeOf p)
    let n := s.c.field p 0 (repIndex p s) m.n
    let d := s.c.desc n
    let traps (cause : Byte) (val : Word) : Prop := exec (mk p (.mem m)) s = .next (takeTrap false cause 0 val s.c.pc p.rep.isSome s)
    (s.c.Reads (.p n) v → match ETy.ofCode d.ty.toNat with
      | none => traps 0x08 (w64 (5 * 256 + 1))
      | some ty => if ty.scalarOk = false then traps 0x08 (w64 (5 * 256 + 9)) else
        let ea := ringAddress d v ((memX p m.x (repIndex p s) * ty.bytes : Nat) : Int)
        ea.toNat % ty.bytes ≠ 0 → traps 0x07 ea) ∧
    ∀ (ty : ETy) (ea : Word), AddressOf p s (repIndex p s) m ty v ea →
      let a := ea.toNat
      (∀ t ic, s.c.place = .tile t ic →
        (localSize iss ≤ a → a < 2 ^ 44 → traps 0x05 ea) ∧ (2 ^ 44 + 2 ^ 37 ≤ a → a < 2 ^ 46 → traps 0x05 ea) ∧ (2 ^ 47 ≤ a → traps 0x05 ea) ∧
        (2 ^ 46 ≤ a → a < 2 ^ 47 → match s.translate t s.c.tenant ((a - 2 ^ 46) / 4096) with
          | none => traps 0x05 ea
          | some e =>
            let frame := e.2.2.2 / 2 ^ 12 % 2 ^ 40 + ((a - 2 ^ 46) / 4096 - e.2.1)
            if t.arr then traps 0x15 ea
            else (e.2.2.2.testBit 3 = false ∨ (s.c.prv = .u ∧ e.2.2.2.testBit 2 = false) ∨ s.dramBytes ≤ frame * 4096 + a % 4096) → traps 0x06 ea)) ∧
      (∀ r, m.form = .sync → s.resolve iss a .read = .ok r → r.dram = true → traps 0x06 ea) ∧
      (∀ r c, m.form ≠ .sync → s.resolve iss a .read = .ok r →
        let t := s.noteRes iss r
        (t.acquires t.c || t.unitHazard t.c r.key ty.bytes || t.pendingAt t.c r.key || t.busy (r.key / 32) false) = false →
        t.readFault iss r a ty.bytes = some c → traps c ea)

/-- R57: a REP whose count is 0 has no effect: the instruction that it precedes completes with nothing done. -/
def RepetitionsNone : Prop :=
  ∀ (p : Pre) (r : Rep) (s : State), p.rep = some r → widenU r.count r.run = 0 →
    ∀ (d k a b : R3) (f : BitVec 6) (g : BitVec 9) (m : MemOpd) (src : Src9) (o : BitVec 2),
      (∀ i ∈ layoutS.map (fun x => x.2 p src) ++ [.nop p, .st p m, .mac p src, .ldi p g, .addi p g, .neg p, .not p, .clz p, .pset p d, .padd p d,
          .paddi p d f, .pstep p d f, .pspan p d f, .ptype p d f, .kset p d, .kget p k, .kopAnd p d k, .ksb p d, .ktb p d, .kcntN p k, .spf p d],
        exec i s = .next (retire (p.len false) s)) ∧
      (∀ i ∈ [Instr.vmov p d a, .vadd p d a b, .vredSum p d a, .vbcast p d, .vgath p d a b, .mma p a b o, .mmst p d o, .mmld p d o,
          .mmmask p d o, .cpy p d a k, .cpym p d a k, .gath p d a k], exec i s = .next (retire (p.len true) s))

/-- R19, R22, R24, R57, R60, R111, R112: the sources that are no memory form, where reading an operand traps, and REP with a count of
0. -/
def Obligations.SourceForms : Prop := RegisterForms ∧ RegisterTraps ∧ MemoryTraps ∧ RepetitionsNone

/-- R24, R112, R228, R281, R358: what a read of `n` bytes by the moving context gives at each of its bytes: the pool's byte where the
address is redirected and the pool has one at the context's position; else, in DRAM, the byte of its own latest store that is not yet
performed; else the stored byte, which reads as zero where its granule has tags and the tag is 0 or one that the issuer does not see
(the fill rank's generation for an access through a fill rank, else GEN or a GENRD). -/
def ReadRule : Prop :=
  ∀ (s : State) (iss : Issuer) (r : Res) (va n i : Nat), iss.uid = s.c.uid → i < n →
    let bs := s.readBytes iss r va n
    let k := r.key + i
    let tag := (s.gran (k / 32)).tag
    let pool : Option Byte := (s.redirects iss (va + i)).bind fun w => (s.win w.1).look w.2 (va + i)
    let sees : Prop := r.gran = false ∨ tag ≠ 0 ∧ match r.fill with
      | some f => tag = f
      | none => tag = iss.gen ∨ tag ∈ iss.genrd
    let stores (js : List Job) (k : Nat) : Prop := ∃ p bs, Job.store p bs ∈ js ∧ p ≤ k ∧ k < p + bs.length
    bs.length = n ∧ (∀ x, pool = some x → bs.getD i 0 = x) ∧
    (pool = none → (∀ pre p ys post, r.dram = true → s.c.jobs = pre ++ .store p ys :: post → p ≤ k → k < p + ys.length → ¬ stores post k →
      bs.getD i 0 = ys.getD (k - p) 0) ∧
      (r.dram = false ∨ ¬ stores s.c.jobs k → (k < 2 ^ 61 + 0x20_0000 ∨ 2 ^ 61 + 0x20_0080 ≤ k) →
        (sees → bs.getD i 0 = Mem.byte s.mem k) ∧ (¬ sees → bs.getD i 0 = 0)))

/-- R281: what the pool of a window gives for a byte at a position: the byte of the entry with the highest position not after it among
those that hold the byte; nothing where none does. -/
def PoolRule : Prop :=
  ∀ (w : EscWin) (pos va : Nat),
    let holds (e : EscEntry) (b : Byte) : Prop := e.vline = va / 32 ∧ e.pos ≤ pos ∧ e.bytes.find? (fun x => x.1 = va % 32) = some (va % 32, b)
    (∀ e b, e ∈ w.entries → holds e b → (∀ e' ∈ w.entries, ∀ b', holds e' b' → e' = e ∨ e'.pos < e.pos) → w.look pos va = some b) ∧
    ((∀ e ∈ w.entries, ∀ b, ¬ holds e b) → w.look pos va = none)

/-- R19, R111, R112: a plain memory source reads the element at its address, extended by its type (read late where accesses away from
the tile are slow), then steps its pointer; a pointer that is not stepped is left alone; no byte of memory changes. -/
def PlainRead : Prop :=
  ∀ (p : Pre) (i : Nat) (m : MemOpd) (s t : State) (ty : ETy) (v ea : Word) (r : Res), m.form ≠ .sync →
    AddressOf p s i m ty v ea → PlainPlace s t (s.c.issuer (s.c.scopeOf p)) ea ty.bytes false r →
    let n := s.c.field p 0 i m.n
    source p i (.mem m) s = .ok (readAt t (s.c.issuer (s.c.scopeOf p)) r ty ea, stepped m n (s.c.desc n) v t) ∧
      (stepped m n (s.c.desc n) v t).mem = s.mem

/-- R19, R24, R111, R112, R228, R281, R358: plain memory sources, and what a read gives. -/
def Obligations.PlainSource : Prop := PlainRead ∧ ReadRule ∧ PoolRule

/-- R113, R114, R359, R360: a synchronising source reads the element (its value is on its way where the home is slow and away from the
tile) and empties its granule, under the issuer's generation; its pointer is not stepped. -/
def Obligations.SyncSource : Prop :=
  ∀ (p : Pre) (i : Nat) (n x : R3) (s t : State) (ty : ETy) (v ea : Word) (r : Res),
    let iss := s.c.issuer (s.c.scopeOf p)
    AddressOf p s i ⟨.sync, n, x⟩ ty v ea → SyncPlace s t iss ea ty.bytes true r →
    ∃ u, source p i (.mem ⟨.sync, n, x⟩) s = .ok (sentAt t iss r ty ea, u) ∧ Emptied t u iss r ∧ (∀ g, t.gran g = s.gran g) ∧ u.c = s.c

/-- R116, R19, R228, R359: ST completes. The low bytes of ACC go to the address of its memory form at once (to the context's pending
stores where the place is DRAM and accesses are slow, or an earlier store to the line is pending), the granule is re-tagged with the
context's generation, then the pointer steps.
No flag changes. The store is not redirected by an escrow window and no capability forbids it. -/
def Obligations.StoreResult : Prop :=
  ∀ (p : Pre) (m : MemOpd) (s t : State) (ty : ETy) (x v ea : Word) (r : Res), m.form ≠ .sync → repLeft p s → s.c.Reads .acc x →
    AddressOf p s (repIndex p s) m ty v ea → PlainPlace s t (s.c.issuer (s.c.scopeOf p)) ea ty.bytes true r →
    let n := s.c.field p 0 (repIndex p s) m.n
    let bs := leBytes ty.bytes x.toNat
    let u := if r.dram && (t.slow || t.c.storing r.key) then { t with c := { t.c with jobs := t.c.jobs ++ [.store r.key bs] } }
      else t.put (s.c.issuer (s.c.scopeOf p)) r (some s.c.uid) bs
    exec (.st p m) s = .next (afterRep false p s (stepped m n (s.c.desc n) v u))

/-- R113, R233, R360: a synchronising ST completes: the context's earlier stores are performed, the bytes are written under the issuer's
generation and the granule is filled. No earlier load, atomic or page operation of the context is still under way, and no engine holds
up one of its stores. -/
def Obligations.SyncStoreResult : Prop :=
  ∀ (p : Pre) (n x : R3) (s t : State) (ty : ETy) (a v ea : Word) (r : Res), repLeft p s → s.c.Reads .acc a →
    let iss := s.c.issuer (s.c.scopeOf p)
    AddressOf p s (repIndex p s) ⟨.sync, n, x⟩ ty v ea → SyncPlace s t iss ea ty.bytes false r →
    (∀ j ∈ s.c.jobs, match j with
      | .load .. | .atomic _ | .page .. => False
      | _ => True) → t.storesHeld t.c = false →
    let w := (t.drain s.c.uid).put iss r (some s.c.uid) (leBytes ty.bytes a.toNat)
    ∃ u, exec (.st p ⟨.sync, n, x⟩) s = .next (afterRep false p s u) ∧ u.c.flags = s.c.flags ∧ u.c.acc = s.c.acc ∧ u.c.p = s.c.p ∧
      u.mem = w.mem ∧ (s.Canonical → (u.gran (r.key / 32)).full = true ∧ (r.gran = true → (u.gran (r.key / 32)).tag = r.wgen iss))

/-- R228, R359: the frame of a performed store. Through State.put the stored bytes read back, every byte of storage outside the
granule keeps its value, and so does every byte of the granule outside the stored ones when the granule already has the writer's
generation; otherwise the rest of the granule reads as zero. Registers, flags and special registers are untouched. -/
def Obligations.StoreFrame : Prop :=
  ∀ (s : State) (iss : Issuer) (r : Res) (bs : List Byte), s.Canonical → r.dead = false → bs ≠ [] → r.key % 32 + bs.length ≤ 32 →
    let t := s.put iss r (some s.c.uid) bs
    (∀ i, i < bs.length → Mem.byte t.mem (r.key + i) = bs.getD i 0) ∧
    (∀ k, (k < r.key ∨ r.key + bs.length ≤ k) → Mem.byte t.mem k =
      if k / 32 = r.key / 32 ∧ r.gran = true ∧ (s.gran (r.key / 32)).tag ≠ r.wgen iss then 0 else Mem.byte s.mem k) ∧
    (r.gran = true → (t.gran (r.key / 32)).tag = r.wgen iss) ∧ (∀ g, g ≠ r.key / 32 → t.gran g = s.gran g) ∧
    t.c = s.c ∧ t.tiles = s.tiles ∧ t.districts = s.districts ∧ t.tenants = s.tenants

/-! ## Pointer and mask instructions (R122 to R125) -/

/-- The state with a pointer's descriptor. -/
def withDesc (s : State) (n : R3) (d : PDesc) : State := { s with c := { s.c with pd := s.c.pd.set n.toNat d n.isLt } }

/-- R122: the pointer instructions complete. PSET writes ACC, PADD and PADDI step under the ring rule, PSTEP, PSPAN (with PBASE from
the pointer) and PTYPE write the descriptor; no flag and no other register changes. -/
def Obligations.PointerResult : Prop :=
  ∀ (p : Pre) (nn : R3) (f : BitVec 6) (s : State) (a v : Word), repLeft p s →
    let i := repIndex p s
    let n := s.c.field p 0 i nn
    let d := s.c.desc n
    let k : Nat := if p.rep.any fun r => r.step.getLsbD 2 then i else 0
    let sgn : Int := if p.rep = none then widenS f p.imm else f.toInt + k
    let uns : Nat := if p.rep = none then widenU f p.imm else f.toNat + k
    let done (t : State) : Out := .next (afterRep false p s t)
    (s.c.Reads .acc a → s.c.Takes (.p n) → exec (.pset p nn) s = done (s.withReg (.p n) a)) ∧
    (s.c.Reads .acc a → s.c.Reads (.p n) v → exec (.padd p nn) s = done (s.withReg (.p n) (ringAddress d v a.toInt))) ∧
    (s.c.Reads (.p n) v → exec (.paddi p nn f) s = done (s.withReg (.p n) (ringAddress d v sgn))) ∧
    exec (.pstep p nn f) s = done (withDesc s n { d with step := BitVec.ofInt 32 sgn }) ∧
    (s.c.Reads (.p n) v → exec (.pspan p nn f) s = done (withDesc s n { d with span := BitVec.ofNat 32 (uns * 32), base := v })) ∧
    exec (.ptype p nn f) s = done (withDesc s n { d with ty := f })

/-- R123, R124: KSET, KGET, the eight KOP forms, KSB and KCB complete with the register written and no flag changed; each needs only
the registers that it reads and the one that it writes. -/
def MaskResult : Prop :=
  ∀ (p : Pre) (d k : R3) (s : State) (a x y : Word), repLeft p s →
    let done (v : Word) : Out := .next (afterRep false p s (s.withReg (.k d) v))
    let one : Word := w64 (2 ^ (a.toNat % 64))
    let reads2 : Prop := s.c.Reads (.k d) x ∧ s.c.Reads (.k k) y
    (s.c.Reads .acc a → s.c.Takes (.k d) → exec (.kset p d) s = done a) ∧
    (s.c.Reads (.k k) y → s.c.Takes .acc → exec (.kget p k) s = .next (afterRep false p s (s.withReg .acc y))) ∧
    (reads2 → exec (.kopAnd p d k) s = done (x &&& y) ∧ exec (.kopOr p d k) s = done (x ||| y) ∧
      exec (.kopXor p d k) s = done (x ^^^ y) ∧ exec (.kopAndn p d k) s = done (x &&& ~~~y)) ∧
    (s.c.Reads (.k k) y → s.c.Takes (.k d) → exec (.kopMov p d k) s = done y ∧ exec (.kopNot p d k) s = done (~~~y)) ∧
    (s.c.Reads .acc a → s.c.Reads (.k k) y → s.c.Takes (.k d) →
      exec (.kopShl p d k) s = done (w64 (y.toNat * 2 ^ (a.toNat % 64))) ∧
      exec (.kopShr p d k) s = done (w64 (y.toNat / 2 ^ (a.toNat % 64)))) ∧
    (s.c.Reads .acc a → s.c.Reads (.k d) x → exec (.ksb p d) s = done (x ||| one) ∧ exec (.kcb p d) s = done (x &&& ~~~one))

/-- R123, R125: KTB completes with Z and C from the bit and no register written; KCNT completes with the number of ones, or the index
of the lowest or highest one (64 for none) in ACC, and Z := (Ks = 0). N and V are kept. -/
def MaskTestCount : Prop :=
  ∀ (p : Pre) (d k : R3) (s : State) (a x y : Word), repLeft p s →
    (s.c.Reads .acc a → s.c.Reads (.k d) x → s.c.Settled ⟨false, true, true, false⟩ →
      exec (.ktb p d) s = .next (afterRep false p s
        (s.withFlags { s.c.flags with z := !x.getLsbD (a.toNat % 64), c := x.getLsbD (a.toNat % 64) }))) ∧
    (s.c.Reads (.k k) y → s.c.Takes .acc → s.c.Settled ⟨false, true, false, false⟩ →
      let gives (i : Instr) (n : Nat) : Prop :=
        exec i s = .next (afterRep false p s ((s.withFlags { s.c.flags with z := decide (y = 0) }).withReg .acc (w64 n)))
      gives (.kcntN p k) ((List.range 64).countP fun i => y.getLsbD i) ∧
      (∃ n, gives (.kcntLo p k) n ∧ (if y = 0 then n = 64 else n < 64 ∧ y.getLsbD n = true ∧ ∀ j, j < n → y.getLsbD j = false)) ∧
      (∃ n, gives (.kcntHi p k) n ∧ (if y = 0 then n = 64 else n < 64 ∧ y.getLsbD n = true ∧ ∀ j, n < j → y.getLsbD j = false)))

/-- R123, R124, R125: the mask instructions. -/
def Obligations.MaskInstructions : Prop := MaskResult ∧ MaskTestCount

/-! ## Transfers of control, LOOP, traps (R306 to R313, R376 to R380) -/

/-- The state after a taken transfer (R310): PC at the target, every level whose body holds the instruction ended, no repetition, wait or
arrival left over, and the instruction counted; `u` is the state that the instruction has left. -/
def transferred (u : State) (target : Word) : State :=
  let c := u.rejoin.c
  { u.rejoin with
    c := { c with
      pc := target, loops := c.loops.filter fun l => decide (c.pc.toNat < l.start.toNat ∨ l.stop.toNat ≤ c.pc.toNat)
      repi := 0, stalled := false, waitFrom := none, inMwait := false, inWfi := false, inClose := false, wres := false, wph := false
      retired := c.retired + 1 }
    waiters := u.waiters.filter fun w => w.uid ≠ u.c.uid }

/-- R46, R63, R306, R307, R310: J, JR and a B.cc whose condition holds go to their target and end the loops around them; a B.cc whose
condition fails falls through. JR to an odd target traps ALIGN with the target in TVAL. The sixteen conditions. -/
def Obligations.BranchResult : Prop :=
  ∀ (p : Pre) (cc : BitVec 4) (d5 : BitVec 5) (d9 : BitVec 9) (s : State) (a : Word),
    let goes (t : Word) : Out := .next (transferred s t)
    exec (.j p d9) s = goes (s.c.pc + i64 (2 * widenS d9 p.imm)) ∧
    (s.c.Reads .acc a → a.getLsbD 0 = false → exec .jr s = goes a) ∧
    (s.c.Reads .acc a → a.getLsbD 0 = true → exec .jr s = .next (takeTrap false 0x07 0 a s.c.pc false s)) ∧
    let f := s.c.flags
    let holds := [f.z, !f.z, f.n != f.v, f.n == f.v, f.c, !f.c, f.n, !f.n, f.v, !f.v, !f.z && (f.n == f.v), f.z || (f.n != f.v),
      !f.c && !f.z, f.c || f.z, true, s.c.acc.full].getD cc.toNat false
    (s.c.Settled (condFlags cc.toNat) → exec (.bcc p cc d5) s =
      if holds then goes (s.c.pc + i64 (2 * widenS d5 p.imm)) else .next (retire (p.len false) s))

/-- R46, R307: CALL and CALLR push the address after them below P7 and go to their target; RET pops it, also where its read is slow and
its wait is only time. The stack slot is the 8 bytes at P7 stepped down by 8 under the ring rule: it is written at once, or, in DRAM with
slow accesses or after an earlier store to the line, is one of the context's pending stores. A misaligned slot traps ALIGN with its
address, an odd target with the target; neither changes P7 or memory. -/
def Obligations.CallReturn : Prop :=
  ∀ (p : Pre) (d : BitVec 9) (s t : State) (a sp : Word) (r : Res), s.c.Reads (.p 7) sp →
    let iss := s.c.issuer s.c.defscope
    let slot := ringAddress (s.c.desc 7) sp (-8)
    let top := ringAddress (s.c.desc 7) sp 0
    let goes (u : State) (target : Word) : Out := .next (transferred u target)
    let misaligned (a : Word) : Out := .next (takeTrap false 0x07 0 a s.c.pc false s)
    (slot.toNat % 8 = 0 → PlainPlace s t iss slot 8 true r →
      let pushed (back : Word) : State :=
        let bs := leBytes 8 back.toNat
        (if r.dram && (t.slow || t.c.storing r.key) then { t with c := { t.c with jobs := t.c.jobs ++ [.store r.key bs] } }
          else t.put iss r (some s.c.uid) bs).withReg (.p 7) slot
      exec (.call p d) s = goes (pushed (s.c.pc + w64 (2 * p.len false))) (s.c.pc + i64 (2 * widenS d p.imm)) ∧
      (s.c.Reads .acc a → a.getLsbD 0 = false → exec .callr s = goes (pushed (s.c.pc + 2)) a)) ∧
    (slot.toNat % 8 ≠ 0 → exec (.call p d) s = misaligned slot ∧
      (s.c.Reads .acc a → a.getLsbD 0 = false → exec .callr s = misaligned slot)) ∧
    (s.c.Reads .acc a → a.getLsbD 0 = true → exec .callr s = misaligned a) ∧
    (top.toNat % 8 = 0 → PlainPlace s t iss top 8 false r →
      let back := w64 (leNat (t.readBytes iss r top.toNat 8))
      (back.getLsbD 0 = false → exec .ret s = goes (t.withReg (.p 7) (ringAddress (s.c.desc 7) sp 8)) back) ∧
      (back.getLsbD 0 = true → exec .ret s = misaligned back)) ∧
    (top.toNat % 8 ≠ 0 → exec .ret s = misaligned top)

/-- R308, R310: LOOP completes. With a count of 0 (bits 31:0 of ACC) the body is skipped; otherwise the level of the body is pushed with
that count before the enclosing levels, and execution goes on at its first word. The words of the body end at the end of an instruction, fewer than two levels are
active, and the body lies inside them. The end test at an instruction's end: at the last word of the innermost body with passes left
execution goes back to its first word with one pass less; otherwise the level ends and the next one outwards is tested. A body whose
words cannot all be fetched is not examined (log entry 38). -/
def Obligations.LoopResult : Prop :=
  ∀ (l : BitVec 6) (st : R3) (s : State) (a : Word), s.c.Reads .acc a → s.c.stalled = false →
    let start := s.c.pc + 2
    let stop := start + w64 (2 * (l.toNat + 1))
    ((s.fetchWords (s.c.issuer s.c.defscope) start (l.toNat + 1)).1.length = l.toNat + 1 →
      bodyWhole false (s.fetchWords (s.c.issuer s.c.defscope) start (l.toNat + 1)).1 = true) →
    s.c.loops.length < 2 → (∀ o ∈ s.c.loops, o.start.toNat ≤ start.toNat ∧ stop.toNat ≤ o.stop.toNat) →
    (a.toNat % 2 ^ 32 = 0 → ∃ t, exec (.loop l st) s = .next t ∧
      (t.c.loops, t.c.pc) = loopEnd stop s.c.loops ∧ t.c.acc = s.c.acc ∧ t.mem = s.mem) ∧
    (a.toNat % 2 ^ 32 ≠ 0 → ∃ t, exec (.loop l st) s = .next t ∧ t.c.pc = start ∧
      t.c.loops = ⟨start, stop, a.toNat % 2 ^ 32, 0, st⟩ :: s.c.loops ∧ t.c.acc = s.c.acc ∧ t.mem = s.mem) ∧
    (∀ (pc : Word) (o : LoopLevel) (ls : List LoopLevel), loopEnd pc [] = ([], pc) ∧
      (o.stop ≠ pc → loopEnd pc (o :: ls) = (o :: ls, pc)) ∧
      (o.stop = pc → 1 < o.left → loopEnd pc (o :: ls) = ({ o with left := o.left - 1, pass := o.pass + 1 } :: ls, o.start)) ∧
      (o.stop = pc → o.left ≤ 1 → loopEnd pc (o :: ls) = loopEnd pc ls))

/-! ## Traps, interrupts, returns, the ends of strands (R25, R311 to R313, R376 to R380, R388) -/

/-- R376, R377, R378: taking a trap. The cause with SUB and INTR, the boundary's PC, the value and TSTAT are saved (in the machine set for
a machine-class cause on a tile core), GIE is cleared, the level stays, rises to S or rises to M by the cause's class, and execution goes
on at the vector, the supervisor entry or the machine entry; on a dispatch core always at M and at the vector. Memory, registers, flags, loops and every unit's work are left alone. -/
def Obligations.TrapEntryState : Prop :=
  ∀ (intr : Bool) (cause sub : Byte) (val pc : Word) (rep : Bool) (s : State), s.c.stalled = false →
    let t := takeTrap intr cause sub val pc rep s
    let machine := !intr && (cause = 0x12 || cause = 0x16) && !s.c.isDisp
    let rises := !intr && (cause = 0x02 || cause = 0x19) && !s.c.isDisp && s.c.prv ≠ .m
    let regs : TrapRegs := ⟨w64 (b2n intr * 2 ^ 63 + sub.toNat * 256 + cause.toNat), pc, val,
      w64 (b2n s.c.gie * 2 ^ 63 + b2n rep * 2 ^ 62 + b2n s.c.wres * 2 ^ 61 + b2n (s.c.wres && s.c.wph) * 2 ^ 60 +
        (if rep then s.c.repi % 2 ^ 42 else 0) * 2 ^ 16 + s.c.status.toNat % 2 ^ 16)⟩
    (if machine then t.c.mtrap = regs ∧ t.c.trap = s.c.trap else t.c.trap = regs ∧ t.c.mtrap = s.c.mtrap) ∧
    t.c.gie = false ∧ t.c.inHandler = true ∧
    t.c.prv = (if machine || s.c.isDisp then .m else if rises && s.c.supEntry.isSome then .s else s.c.prv) ∧
    t.c.pc = (if machine && s.c.prv ≠ .m then s.machineEntry s.c else if rises then s.c.supEntry.getD s.c.tvec else s.c.tvec) ∧
    t.c.acc = s.c.acc ∧ t.c.p = s.c.p ∧ t.c.k = s.c.k ∧ t.c.pd = s.c.pd ∧ t.c.flags = s.c.flags ∧ t.c.loops = s.c.loops ∧
    t.c.tvec = s.c.tvec ∧ t.c.tscratch = s.c.tscratch ∧ t.c.jobs = s.c.jobs ∧ t.c.vq = s.c.vq ∧ t.c.mq = s.c.mq ∧
    t.mem = s.mem ∧ t.grans = s.grans ∧ t.tiles = s.tiles ∧ t.others = s.others ∧
    ∃ e, t = { s with c := t.c, ewq := s.ewq ++ e, waiters := s.waiters.filter fun w => w.uid ≠ s.c.uid }

/-- R313, R45, R49: TRAP takes cause 0x18 at its own boundary with its code in TVAL; SVC completes (the loops' end test is made) and then
takes cause 0x19 with TPC after it. Words that are no instruction take ILLEGAL with WHY, WORD and BITS in TVAL; words that cannot be
fetched take the fetch's cause with the address. Where these are met between repetitions, REPI is saved. -/
def Obligations.TrapInstructions : Prop :=
  ∀ (code : BitVec 9) (why : BitVec 4) (word : BitVec 3) (w : BitVec 16) (cause : Byte) (addr : Word) (s : State),
    let takes (cause : Byte) (val : Word) (rep : Bool) : Out := .next (takeTrap false cause 0 val s.c.pc rep s)
    exec (.trap code) s = takes 0x18 (w64 code.toNat) false ∧
    exec (.svc code) s = .next (takeTrap false 0x19 0 (w64 code.toNat) (retire 1 s).c.pc false (retire 1 s)) ∧
    (retire 1 s).c.pc = (loopEnd (s.c.pc + 2) s.c.loops).2 ∧
    exec (.illegalInstruction why word w) s = takes 0x01 (w64 (why.toNat * 2 ^ 24 + word.toNat * 2 ^ 16 + w.toNat)) (s.c.repi ≠ 0) ∧
    exec (.fetchFault cause addr) s = takes cause addr (s.c.repi ≠ 0)

/-- A prefix chain with REP in it stands first among some words (R48, R57); PFX.V's second word is not examined. -/
inductive RepFirst : List Half → Prop
  | rep (w : Half) (ws : List Half) : (opc w).toNat = 0x7E → RepFirst (w :: ws)
  | pfxV (w x : Half) (ws : List Half) : (opc w).toNat = 0x7C → RepFirst ws → RepFirst (w :: x :: ws)
  | other (w : Half) (ws : List Half) : (opc w).toNat ∈ [0x78, 0x79, 0x7A, 0x7B] → RepFirst ws → RepFirst (w :: ws)

/-- R58, R321, R376, R379: ERET completes: PC, the flags, GIE and the level come back from the trap registers of its level (the level
never rises), and the handler is left. With REPV, where the words that a fetch at TPC finds (for the restored level) begin with a chain
with REP, REPI is restored from TSTAT[57:16]; with WRES, where they begin with BARW, its arrival is restored with the phase of bit 60;
in every other case both are cleared. Nothing else changes but the context and its place in queues. -/
def Obligations.EretResult : Prop :=
  ∀ (s : State), s.c.pend.some' = false → ∃ t, exec .eret s = .next t ∧
    let r := if !s.c.isDisp && s.c.prv = .m then s.c.mtrap else s.c.trap
    let lvl := Priv.ofCode (bits r.stat 9 8)
    let low := if lvl.code < s.c.prv.code then lvl else s.c.prv
    let words := (s.fetchWords { s.c.issuer s.c.defscope with prv := low, pc := r.pc } r.pc 6).1
    t.c.pc = r.pc ∧ t.c.flags = ⟨bit r.stat 3, bit r.stat 2, bit r.stat 1, bit r.stat 0⟩ ∧ t.c.gie = bit r.stat 63 ∧
    t.c.prv = low ∧ t.c.inHandler = false ∧
    (bit r.stat 62 = true → RepFirst words → t.c.repi = bits r.stat 57 16) ∧ (bit r.stat 62 = false ∨ ¬ RepFirst words → t.c.repi = 0) ∧
    (bit r.stat 61 = true → words.head? = some 0x8C00 → t.c.wres = true ∧ t.c.wph = bit r.stat 60) ∧
    (bit r.stat 61 = false ∨ words.head? ≠ some 0x8C00 → t.c.wres = false ∧ t.c.wph = false) ∧
    t.c.supEntry = (if s.c.prv = .s ∧ lvl = .u then some s.c.tvec else s.c.supEntry) ∧
    t.c.acc = s.c.acc ∧ t.c.p = s.c.p ∧ t.c.k = s.c.k ∧ t.c.pd = s.c.pd ∧ t.c.loops = s.c.loops ∧ t.c.trap = s.c.trap ∧ t.c.mtrap = s.c.mtrap ∧
    t.c.tvec = s.c.tvec ∧ t.c.ien = s.c.ien ∧ t.c.jobs = s.c.jobs ∧ t.c.vq = s.c.vq ∧ t.c.mq = s.c.mq ∧ t.c.reports = s.c.reports ∧
    t = { s with c := t.c, waiters := s.waiters.filter fun w => w.uid ≠ s.c.uid }

/-- The first of some reports in the order of R382: the oldest, of equal ones that of the lowest UNIT, of these the first. -/
def FirstReport (r : Report) (rs : List Report) : Prop :=
  let before (a b : Report) : Prop := a.time < b.time ∨ a.time = b.time ∧ a.unit.code < b.unit.code
  ∃ pre post, rs = pre ++ r :: post ∧ (∀ x ∈ pre, before r x) ∧ ∀ x ∈ post, ¬ before x r

/-- R376, R382, R383, R384, R386: TRAP_ENTRY takes the first candidate of R382 at the boundary, and gives the state of that trap's entry
with the candidate taken up: BUDGET, whose grace of 1024 cycles begins (also in handler state); then, outside handler state, the first
deferred engine report, whose record is written; a vote's BARRIER; LINKLOST; FPX; CHECK. Traced BUDGETs apart, only the context
changes before the entry. -/
def CandidateOrder : Prop :=
  ∀ (s : State), s.c.canTrap = true → s.c.inMwait = false →
    let takes (cause sub : Byte) (val : Word) (u : State) : Prop :=
      exec .trapEntry s = .next (takeTrap false cause sub val s.c.pc (s.c.repi ≠ 0) u)
    let withC (c : Ctx) : State := { s with c := c }
    let deferred := s.c.reports.filter fun r => match r.unit with
      | .copy _ | .coll _ => false
      | _ => true
    let votes := s.c.barReps.filter fun b => b.ch.isNone
    (s.c.budgetDue = true → let u := withC { s.c with budgetDue := false, grace := some 1024 }
      takes 0x1D 0 0 (u.traceCtx 9 u.c)) ∧
    (s.c.budgetDue = false → s.c.inHandler = false →
      (∀ r, FirstReport r deferred →
        takes 0x17 r.sub r.addr (withC { s.c with erec0 := r.erec0, erec1 := r.e1, erec2 := r.e2, reports := s.c.reports.erase r })) ∧
      (deferred = [] →
        (∀ b, votes.head? = some b → takes 0x1B 0 b.obj (withC { s.c with barReps := s.c.barReps.erase b })) ∧
        (votes = [] →
          (∀ x, s.c.linkLost = some x →
            takes 0x14 0 (w64 (x.1.toNat * 2 ^ 48 + x.2.toNat % 2 ^ 48)) (withC { s.c with linkLost := none })) ∧
          (s.c.linkLost = none →
            (∀ v l, s.c.fpx = v :: l → takes 0x09 0 v (withC { s.c with fpx := l })) ∧
            (s.c.fpx = [] → ∀ v l, s.c.check = v :: l → takes 0x16 0 v.2 (withC { s.c with check := l }))))))

/-- R380, R382, R383, R388: with no candidate before it (none of R382's, or in handler state no BUDGET), an enabled and pending interrupt of
the highest line is the cause, with INTR set, when GIE is 1; TPC is the boundary. WFI completes when a line is both enabled and pending,
whatever GIE, and waits at its boundary otherwise. -/
def InterruptAndWfi : Prop :=
  ∀ (s : State) (line : Nat),
    (s.c.canTrap = true → s.c.inMwait = false → s.c.inWfi = false → s.c.budgetDue = false →
      (s.c.inHandler = true ∨ (∀ r ∈ s.c.reports, ∃ ch, r.unit = .copy ch ∨ r.unit = .coll ch) ∧ (∀ b ∈ s.c.barReps, b.ch ≠ none) ∧
        s.c.linkLost = none ∧ s.c.fpx = [] ∧ s.c.check = []) →
      s.c.gie = true → line < 5 → s.c.ien.getLsbD line = true → s.c.ipend.getLsbD line = true →
      (∀ l, line < l → l < 5 → (s.c.ien.getLsbD l && s.c.ipend.getLsbD l) = false) →
      exec .interruptEntry s = .next (takeTrap true (BitVec.ofNat 8 line) 0 0 s.c.pc (s.c.repi ≠ 0) s)) ∧
    (s.c.ien &&& s.c.ipend ≠ 0 → exec .wfi s = .next (retire 2 s)) ∧
    (s.c.ien &&& s.c.ipend = 0 → ∃ t, exec .wfi s = .next t ∧ t.c.stalled = true ∧ t.c.pc = s.c.pc ∧ t.c.acc = s.c.acc ∧ t.mem = s.mem)

/-- R376, R380, R382, R383, R384, R386, R388: what is taken at a boundary, and WFI. -/
def Obligations.BoundaryEntries : Prop := CandidateOrder ∧ InterruptAndWfi

/-- R25, R64, R381: a supervisor instruction at U, and a machine instruction below M, traps PRIV with its instruction word in TVAL and has no
other effect. -/
def Obligations.PrivilegedTrap : Prop :=
  ∀ (n q : R3) (s : State),
    let traps (i : Instr) : Prop :=
      exec i s = .next (takeTrap false 0x02 0 (w64 ((encode i).getLastD 0).toNat) s.c.pc false s)
    (s.c.prv = .u → ∀ i ∈ [Instr.gennew, .gennewKeep, .genset, .banksw, .shst n, .shld n, .shldImg n, .tlbinvVa n, .tlbinvTen n, .seize n,
      .seizeArm n, .release n], traps i) ∧
    (s.c.prv ≠ .m → ∀ i ∈ [Instr.dbgrd n q, .dbgrdTag n q, .dbgwr n q, .tlbinvAll n, .killCore, .killTask, .killRestart, .seal, .chkctlRd,
      .chkctlClr, .chkctlTest, .injarm, .injarmOff, .jrnl n, .kickscanOne, .kickscanAll, .kickscanCpl, .preempt n, .resume n], traps i)

/-! ## Waiting, barriers, votes, semaphores (R315 to R324) -/

/-- No load, atomic, page operation or acquire (VOTE, TMASS, MBGET) of the moving context is still to be performed, and no engine or lease
holds up one of its stores, so that a release is made at once (R233, R237, R245). -/
def Released (s : State) : Prop :=
  s.storesHeld s.c = false ∧ s.acquires s.c = false ∧ ∀ j ∈ s.c.jobs, match j with
    | .load .. | .atomic _ | .page .. => False
    | _ => True

/-- The state with ACC marked empty and a job that will fill it (R21). -/
def awaiting (t : State) (j : Job) : State :=
  { t with c := { t.c with acc := { t.c.acc with full := false }, jobs := t.c.jobs ++ [j] } }

/-- R316: WAITF completes when the granule is full or poisoned, WAITE when it is empty; otherwise each waits at its boundary. R317: MONITOR
completes with the granule monitored. Nothing is read or written. -/
def GranuleWaits : Prop :=
  ∀ (p : Pre) (n : R3) (s t : State) (v : Word) (r : Res), s.c.Reads (.p (n + s.c.stagger)) v →
    let ea := ringAddress (s.c.desc (n + s.c.stagger)) v 0
    let full := (t.gran (r.key / 32)).full || (t.gran (r.key / 32)).poison
    ((ea.toNat < 0x4000_0000_0000 ∨ 0x8000_0000_0000 ≤ ea.toNat) →
      s.resolve (s.c.issuer s.c.defscope) ea.toNat .read = .ok r → t = s.noteRes (s.c.issuer s.c.defscope) r →
      exec (.waitf n) s = .next (if full then retire 1 t else stall none .absent s) ∧
      exec (.waite n) s = .next (if full then stall none .absent s else retire 1 t)) ∧
    (s.resolve (s.c.issuer (s.c.scopeOf p)) ea.toNat .read = .ok r → t = s.noteRes (s.c.issuer (s.c.scopeOf p)) r →
      exec (.monitor p n) s = .next (retire (p.len false)
        { t with c := { t.c with monitor := some (r.key / 32), monHit := false, monLost := false } }))

/-- R318: MWAIT completes with 0 when the monitor has triggered, else with 1 when nothing is monitored, else with 2 when ACC cycles have
passed since it began; the monitor is dropped. Otherwise it waits at its boundary. -/
def MwaitResult : Prop :=
  ∀ (s : State) (limit : Word), s.c.Reads .acc limit →
    let ends (k : Nat) : Prop := exec .mwait s = .next (retire 1
      { s with c := { s.c with acc := ⟨w64 k, true, s.c.gen⟩, monitor := none, monHit := false, monLost := false } })
    let lost := s.c.monitor = none ∨ s.c.monLost = true
    let past := limit.toNat ≤ s.cyc - s.c.waitFrom.getD s.cyc
    (s.c.monHit = true → ends 0) ∧ (s.c.monHit = false → lost → ends 1) ∧ (s.c.monHit = false → ¬ lost → past → ends 2) ∧
    (s.c.monHit = false → ¬ lost → ¬ past → ∃ t, exec .mwait s = .next t ∧ t.c.stalled = true ∧ t.c.inMwait = true ∧ t.c.pc = s.c.pc ∧
      t.c.acc = s.c.acc ∧ t.mem = s.mem)

/-- R316, R317, R318: WAITF, WAITE, MONITOR and MWAIT. -/
def Obligations.WaitAndMonitor : Prop := GranuleWaits ∧ MwaitResult

/-- R319, R265: SLEEPT.T completes when CYC has reached ACC. SLEEPT on a channel completes then, if no command of the channel is promised for
a time that has passed (PROMISE with that time otherwise), and with all ones in ACC when no command is under way. CPQ completes with the
promised time of the latest command in order of issue, 0 for none. No stop is left to be reported on the channel. -/
def Obligations.SleeptResult : Prop :=
  ∀ (ch : R3) (s : State) (a : Word),
    let ps := s.chanTimes s.c ch
    let latest (x : Nat) : Prop := ∃ k, (k, x) ∈ s.chanCmds s.c ch ∧ ∀ y ∈ s.chanCmds s.c ch, y.1 < k ∨ y = (k, x)
    (s.c.Reads .acc a → exec .sleeptT s = .next (if s.cyc < a.toNat then stall none .absent s else retire 1 s)) ∧
    (s.c.mayChan ch = true → (∀ r ∈ s.c.reports, r.unit.onChan ch = false) → (∀ b ∈ s.c.barReps, b.ch = some ch → s.c.canReport b = false) →
      (s.c.Reads .acc a → a ≠ allOnes → s.cyc < a.toNat → exec (.sleept ch) s = .next (stall none .absent s)) ∧
      (s.c.Reads .acc a → a ≠ allOnes → a.toNat ≤ s.cyc → (∀ x ∈ ps, a.toNat < x) → exec (.sleept ch) s = .next (retire 1 s)) ∧
      (s.c.Reads .acc a → a ≠ allOnes → a.toNat ≤ s.cyc → ∀ x ∈ ps, x ≤ a.toNat → (∀ y ∈ ps, x ≤ y) →
        exec (.sleept ch) s = .next (takeTrap false 0x0A 0 (w64 x) s.c.pc false s)) ∧
      (s.c.Reads .acc allOnes → exec (.sleept ch) s = .next (if ps = [] then retire 1 s else stall none .absent s)) ∧
      (s.c.Takes .acc → (ps = [] → exec (.cpq ch) s = .next (retire 2 (s.withReg .acc 0))) ∧
        ∀ x, latest x → exec (.cpq ch) s = .next (retire 2 (s.withReg .acc (w64 x)))))

/-- A numbered barrier after an arrival with announced bytes, and after the completion test (R256, R320, R321). -/
def arrivedAt (x : Barrier) (bytes q : Nat) : Barrier :=
  { x with pend := Min.min (x.pend + bytes) (2 ^ 24 - 1), arrived := x.arrived + 1, quantum := Max.max x.quantum q }

/-- The phase is complete: every expected arrival and every announced byte is there (R256). -/
def phaseDone (x : Barrier) : Prop := x.expect = x.arrived ∧ x.pend = 0 ∧ 1 ≤ x.expect

/-- The barrier in its next phase (R256). -/
def nextPhase (x : Barrier) : Barrier :=
  { x with phase := !x.phase, arrived := 0, err := false, quantum := 0, lastQuantum := x.quantum }

/-- R320, R321: BARA, BARA.SET and BARW complete on a barrier that the launch has been granted. BARA arrives (the phase flips when it is
complete) and its ACC will be the phase before it; BARA.SET sets EXPECT and PEND and keeps the phase; BARW arrives once and completes
when the phase has flipped. Every other barrier, memory and the flags are left alone. -/
def Obligations.NumberedBarriers : Prop :=
  ∀ (s : State) (a : Word),
    let d := s.c.dist
    let b := bits a 4 0
    let t := s.drain s.c.uid
    let x := s.barrier d b
    let y := arrivedAt x (bits a 55 32) (s.c.retired / s.c.quantum)
    let only (u : State) (z : Barrier) : Prop := u.barrier d b = z ∧ (∀ d' b', (d', b') ≠ (d, b) → u.barrier d' b' = s.barrier d' b') ∧
      u.c.flags = s.c.flags ∧ u.c.p = s.c.p ∧ u.c.k = s.c.k
    s.c.Reads .acc a → s.c.isGuest = false → x.grant = some s.c.launch →
    (Released s → ∃ u, exec .bara s = .next u ∧ (phaseDone y → only u (nextPhase y)) ∧ (¬ phaseDone y → only u y) ∧ u.mem = t.mem ∧
      u.c.acc.full = false ∧ u.c.jobs = t.c.jobs ++ [.fill (w64 (b2n x.phase)) {} 0] ∧ u.c.pc = (s.c.advance 1).pc) ∧
    (Released s → (∀ k ∈ s.cmds, k.target = .barrier b → (k.iss.loc.map fun l => distIdx l.arr l.dist) ≠ some d) →
      (∀ k ∈ s.colls, k.target = .barrier b → (k.iss.loc.map fun l => distIdx l.arr l.dist) ≠ some d) →
      ∃ u, exec .baraSet s = .next u ∧ u.mem = t.mem ∧ u.c.acc = s.c.acc ∧ u.c.pc = (s.c.advance 1).pc ∧
        only u { x with expect := Max.max 1 (bits a 23 8), arrived := 0, pend := bits a 55 32, err := false }) ∧
    (Released s → s.c.wres = false → ∃ u, exec .barw s = .next u ∧ u.mem = t.mem ∧ u.c.acc = s.c.acc ∧
      (phaseDone y → only u (nextPhase y) ∧ u.c.pc = (s.c.advance 1).pc) ∧
      (¬ phaseDone y → only u y ∧ u.c.pc = s.c.pc ∧ u.c.stalled = true ∧ u.c.wres = true ∧ u.c.wph = x.phase)) ∧
    (s.c.wres = true → ∃ u, exec .barw s = .next u ∧ only u x ∧ u.mem = s.mem ∧ u.c.acc = s.c.acc ∧
      (x.phase ≠ s.c.wph → u.c.pc = (s.c.advance 1).pc ∧ u.c.wres = false) ∧
      (x.phase = s.c.wph → u.c.pc = s.c.pc ∧ u.c.stalled = true ∧ u.c.wres = true ∧ u.c.wph = s.c.wph))

/-- R322: the six VOTE forms complete: the vote with its number, operation and ACC's value waits for the others, and ACC is empty until it
is decided. Guests and threads have no vote. -/
def Obligations.VoteResult : Prop :=
  ∀ (i : Instr) (op : Nat), (i, op) ∈ [(Instr.voteAnd, 0), (.voteOr, 1), (.voteMaxu, 2), (.voteMinu, 3), (.voteSum, 4), (.voteEq, 5)] →
    ∀ (s : State) (a : Word), s.c.Reads .acc a →
    (s.c.isGuest = false → s.c.isThread = false → Released s →
      let t := awaiting (s.drain s.c.uid) (.vote (s.c.votes + 1) op a)
      exec i s = .next (retire 1 { t with c := { t.c with votes := s.c.votes + 1 } })) ∧
    (s.c.isGuest = true ∨ s.c.isThread = true → exec i s = .next (takeTrap false 0x06 0 0 s.c.pc false s))

/-- R323: SEMP completes by taking one from a count that is not 0 when no earlier waiter stands before it, and otherwise queues behind them,
with a count of 0 and behind an earlier waiter alike; SEMV completes by adding one, and traps BARRIER at 65,535. R324: EVSIG completes
by pulsing the district's software event in the cycle after it. -/
def Obligations.SemaphoreAndEvent : Prop :=
  ∀ (n : BitVec 4) (m : R3) (s : State) (v : Nat),
    let t := s.drain s.c.uid
    let k := s.c.task * 16 + n.toNat
    let put (w : Nat) (u : State) : State :=
      { u with tasks := u.tasks.map fun x => if x.num = s.c.task then { x with sems := x.sems.set n.toNat w n.isLt } else x }
    (s.c.isGuest = false → s.sem s.c.task n.toNat = v →
      (0 < v → s.semTurn k = true → exec (.semp n) s = .next (retire 1 (put (v - 1) s))) ∧
      (v = 0 ∨ s.semTurn k = false → exec (.semp n) s = .next (stall (some { uid := s.c.uid, key := k, sem := true }) .absent s)) ∧
      (v < 65535 → Released s → exec (.semv n) s = .next (retire 1 (put (v + 1) t))) ∧
      (65535 ≤ v → exec (.semv n) s = .next (takeTrap false 0x1B 0 (w64 n.toNat) s.c.pc false s))) ∧
    (s.ownsEvx s.c.dist s.c.tenant = true → Released s → exec (.evsig m) s = .next (retire 1 (t.pulseSoon s.c.dist (56 + m.toNat)))) ∧
    (s.ownsEvx s.c.dist s.c.tenant = false → exec (.evsig m) s = .next (takeTrap false 0x06 0 (w64 m.toNat) s.c.pc false s))

/-! ## Fences, barrier objects, atomics, the stash (R233, R247 to R258) -/

/-- R233, R247, R248: a FENCE completes once the context's earlier reads, unit work and write-backs are over; with release (REL, ACQ_REL,
SEQ) its pending stores are then performed, once no engine and no lease holds them up. It changes no register and no flag, at every scope. -/
def Obligations.FenceResult : Prop :=
  ∀ (x : R3) (s : State), s.c.vq = [] → s.c.mq = [] → (∀ j ∈ s.c.jobs, match j with
      | .load .. | .atomic _ | .page .. | .atomicRefused .. => False
      | .stash o _ => o = .spf
      | _ => True) →
    exec (.fenceAcq x) s = .next (retire 1 s) ∧
    (s.storesHeld s.c = false → exec (.fenceRel x) s = .next (retire 1 (s.drain s.c.uid)) ∧
      exec (.fenceAcqRel x) s = .next (retire 1 (s.drain s.c.uid)) ∧ exec (.fenceSeq x) s = .next (retire 1 (s.drain s.c.uid)))

/-- A completion barrier object that an instruction reaches with no wait and no trap (R256, R257): its address and its place. A write waits
for the leases on it (R169), BINIT also for the commands that name it (R258). -/
structure ObjectAt (p : Pre) (s : State) (n : R3) (own write : Bool) (ea : Word) (r : Res) : Prop where
  reads : ∃ v, s.c.Reads (.p (n + s.c.stagger)) v ∧ ea = ringAddress (s.c.desc (n + s.c.stagger)) v 0
  aligned : ea.toNat % 32 = 0
  window : ea.toNat < 0x1000_0000_0000 + 2 ^ 37
  place : s.resolve (s.c.issuer (s.c.scopeOf p)) ea.toNat .rmw = .ok r
  calm : (s.acquires s.c || s.unitHazard s.c r.key 32 || s.pendingAt s.c r.key || s.ownedData (r.key / 32)) = false
  alone : (own = true → s.ownedObj (r.key / 32) = false) ∧ (write = true → s.leased (r.key / 32) = false)
  readable : s.readFault (s.c.issuer (s.c.scopeOf p)) r ea.toNat 8 = none

/-- R256, R257: BINIT completes with EXPECT and PEND set, no arrivals and the phase kept in the object's 32 bytes; BARV completes with one
more arrival, and its ACC will be the phase before it: the phase completes with the last expected arrival, but not after more arrivals
than expected until the next BINIT (the granule is marked so); BWAIT completes when the phase differs from bit 0 of ACC. -/
def Obligations.BarrierObjects : Prop :=
  ∀ (p : Pre) (n : R3) (s : State) (a ea : Word) (r : Res), s.c.Reads .acc a →
    let iss := s.c.issuer (s.c.scopeOf p)
    let t := s.drain s.c.uid
    let word (u : State) : Nat := leNat (u.readBytes iss r ea.toNat 8)
    let o : Barrier := { phase := (word t).testBit 63, err := (word t).testBit 62, expect := word t % 65536, arrived := word t / 65536 % 65536,
                         pend := word t / 2 ^ 32 % 2 ^ 24 }
    let y := arrivedAt o (bits a 23 0) 0
    let fields (z : Barrier) : Nat := b2n z.phase * 2 ^ 63 + b2n z.err * 2 ^ 62 + z.pend % 2 ^ 24 * 2 ^ 32 + z.arrived % 65536 * 65536 + z.expect
    let g := r.key / 32
    let marked (u : State) (extra : Bool) : State := u.setGran g { u.gran g with extra := extra }
    let extra := ((t.gran g).extra && !(r.gran && (t.gran g).tag != r.wgen iss)) || decide (y.expect < y.arrived)
    (ObjectAt p s n true true ea r → s.capFail iss ea.toNat = none →
      exec (.binit p n) s = .next (retire (p.len false) (marked (s.put iss r (some s.c.uid)
        (leBytes 8 (word s / 2 ^ 63 % 2 * 2 ^ 63 + bits a 55 32 % 2 ^ 24 * 2 ^ 32 + Max.max 1 (bits a 15 0)) ++ List.replicate 24 0)) false))) ∧
    (ObjectAt p s n false true ea r → s.capFail iss ea.toNat = none → Released s →
      let done (z : Barrier) : Prop := exec (.barv p n) s = .next (retire (p.len false)
        (awaiting (marked (t.put iss r (some s.c.uid) (leBytes 8 (fields z))) extra) (.fill (w64 (b2n o.phase)) {} 0)))
      (phaseDone y ∧ extra = false → done (nextPhase y)) ∧ (¬ (phaseDone y ∧ extra = false) → done y)) ∧
    (ObjectAt p s n false false ea r → exec (.bwait p n) s =
      .next (if (word s).testBit 63 = bit a 0 then stall none .absent s else retire (p.len false) s))

/-- The atomics with their operations; the second pointer is ACAS's (R249). -/
def atomics : List (AtomOp × (Pre → BitVec 2 → R3 → R3 → Bool → Instr)) :=
  [(.add, fun p o n _ nr => .aadd p o n nr), (.and, fun p o n _ nr => .aand p o n nr), (.or, fun p o n _ nr => .aor p o n nr),
   (.xor, fun p o n _ nr => .axor p o n nr), (.min, fun p o n _ nr => .amin p o n nr), (.max, fun p o n _ nr => .amax p o n nr),
   (.minu, fun p o n _ nr => .aminu p o n nr), (.maxu, fun p o n _ nr => .amaxu p o n nr), (.swp, fun p o n _ nr => .aswp p o n nr),
   (.cas, fun p o n q nr => .acas p o n q nr), (.fadd, fun p o n _ nr => .afadd p o n nr)]

/-- An atomic request can leave the context: fewer than four refusals possible, what a release waits for is over, and ACC and the flags
that it writes take a result (R23, R114, R233, R385). -/
def MaySend (r : AtomReq) (t : State) : Prop :=
  t.c.atomStops < 4 ∧ (bit r.order 1 = true → Released t) ∧ (r.nr = false → t.c.acc.full = true ∧ t.c.Settled { z := r.op = .cas })

/-- The request has left: after a release's stores; ACC is empty, and ACAS's Z pending, unless .NR (R250). -/
def sentAtomic (r : AtomReq) (t : State) : State :=
  let w := if bit r.order 1 then t.drain t.c.uid else t
  if r.nr then { w with c := { w.c with jobs := w.c.jobs ++ [.atomic r] } }
  else { w with c := { w.c with acc := { w.c.acc with full := false }, pend := w.c.pend.join { z := r.op = .cas }, jobs := w.c.jobs ++ [.atomic r] } }

/-- R249, R250, R251, R253: an atomic completes by sending its request: the operation, the element and its address, ACC's and ACAS's second
value cut to the element, the order and .NR; a sequence tag where the home may lie across the spare link. ARETRY sends the lost request
again. -/
def AtomicSent : Prop :=
  (∀ (op : AtomOp) (mk : Pre → BitVec 2 → R3 → R3 → Bool → Instr), (op, mk) ∈ atomics →
    ∀ (p : Pre) (o : BitVec 2) (n q : R3) (nr : Bool) (s t : State) (a v x : Word) (ty : ETy) (ea : Word) (r : Res),
      let i := repIndex p s
      let pn := s.c.field p 0 i n
      let iss := s.c.issuer (s.c.scopeOf p)
      let tagged := s.across iss r
      let req : AtomReq := { iss := iss, op := op, el := ⟨ea, ty⟩, v := w64 (a.toNat % 2 ^ ty.width), swap := w64 (x.toNat % 2 ^ ty.width)
                             order := o, nr := nr, tag := if tagged then some s.c.seqTag else none, sent := s.cyc }
      let u : State := if tagged then { t with c := { t.c with seqTag := s.c.seqTag + 1 } } else t
      repLeft p s → s.c.Reads .acc a → s.c.Reads (.p pn) v →
      (if op = .cas then s.c.Reads (.p (s.c.field p 1 i q)) x else x = 0) →
      (s.c.det = true → op.ordered nr = false) →
      ETy.ofCode (s.c.desc pn).ty.toNat = some ty → op.types ty = true → ea = ringAddress (s.c.desc pn) v 0 → ea.toNat % ty.bytes = 0 →
      s.resolve iss ea.toNat .rmw = .ok r → t = s.noteRes iss r → t.redirects iss ea.toNat = none → t.capFail iss ea.toNat = none →
      (t.acquires t.c || t.unitHazard t.c r.key ty.bytes) = false → (tagged = true → t.c.tagOut = false) → MaySend req u →
      exec (mk p o n q nr) s = .next (afterRep false p s (sentAtomic req u))) ∧
  (∀ (s : State) (r : AtomReq), s.c.retry = some r → s.c.tagOut = false → MaySend { r with sent := s.cyc } s →
    exec .aretry s = .next (retire 1 (sentAtomic { r with sent := s.cyc } s))) ∧
  (∀ (s : State), s.c.retry = none → exec .aretry s = .next (takeTrap false 0x06 0 0 s.c.pc false s))

/-- R249: the new value of each atomic, from the old value and the operand, both of the element's width w: the sum modulo 2^w, the bitwise
operations, the smaller and the larger of the two as signed and as unsigned numbers, the operand, and ACAS's second operand where the
comparison holds (no write where it fails); AFADD rounds the exact sum of the two f32 values once, to nearest even, with that rounding's
flags. -/
def AtomicTable : Prop :=
  ∀ (op : AtomOp) (ty : ETy) (old v swap : Nat), op.types ty = true → old < 2 ^ ty.width → v < 2 ^ ty.width → swap < 2 ^ ty.width →
    let num (x : Nat) : Int := if x < 2 ^ (ty.width - 1) then x else (x : Int) - 2 ^ ty.width
    let new := op.apply ty old v swap
    match op with
    | .add => new = (some ((old + v) % 2 ^ ty.width), 0)
    | .and => new = (some (old &&& v), 0)
    | .or => new = (some (old ||| v), 0)
    | .xor => new = (some (old ^^^ v), 0)
    | .min => new.2 = 0 ∧ ∃ x, new.1 = some x ∧ (x = old ∨ x = v) ∧ num x ≤ num old ∧ num x ≤ num v
    | .max => new.2 = 0 ∧ ∃ x, new.1 = some x ∧ (x = old ∨ x = v) ∧ num old ≤ num x ∧ num v ≤ num x
    | .minu => new = (some (Min.min old v), 0)
    | .maxu => new = (some (Max.max old v), 0)
    | .swp => new = (some v, 0)
    | .cas => new = (if old = v then some swap else none, 0)
    | .fadd => ∀ x y : Dy, ETy.f32.value old = (.fin x, 0) → ETy.f32.value v = (.fin y, 0) → (x.add y).m ≠ 0 →
        new = (some ((⟨24, -126, 127, 8, true, true, 2 ^ 24 - 1⟩ : Fmt).roundFin {} (x.add y)).1,
          ((⟨24, -126, 127, 8, true, true, 2 ^ 24 - 1⟩ : Fmt).roundFin {} (x.add y)).2)

/-- R249, R250, R251, R253: the atomics at issue, and what each computes. -/
def Obligations.AtomicResult : Prop := AtomicSent ∧ AtomicTable

/-- R254, R255: a stash instruction completes; on a reason tile it begins its operation on the DRAM line of its address, anywhere else and
at an address with no such line it has no effect. Its data is not read. -/
def Obligations.StashResult : Prop :=
  ∀ (p : Pre) (n : R3) (s : State) (v : Word), repLeft p s → s.c.Reads (.p (s.c.field p 0 (repIndex p s) n)) v →
    let line := s.stashLine (ringAddress (s.c.desc (s.c.field p 0 (repIndex p s) n)) v 0)
    let begins (op : StashOp) (l : Option Nat) : State := { s with c := { s.c with jobs := s.c.jobs ++ [.stash op l] } }
    let at_ (op : StashOp) : Out := .next (afterRep false p s (if line.isSome then begins op line else s))
    exec (.spf p n) s = at_ .spf ∧ exec (.swb p n) s = at_ .swb ∧ exec (.sinv p n) s = at_ .sinv ∧
    exec (.sflush p) s = .next (afterRep false p s (if s.c.isDisp || s.c.onReflex then s else begins .sflush none)) ∧
    ((s.c.isDisp || s.c.onReflex) = true → line = none)

/-! ## The units' instructions at issue (R128 to R176, R221 to R226, R258 to R266) -/

/-- An operation's check passes and leaves the state as it is. -/
def Passes (m : M Unit) (s : State) : Prop := m s = .ok ((), s)

/-- The page 1 vector instructions: operation, number of pointer operands, instruction. -/
def vectors : List (VOp × Nat × (Pre → R3 → R3 → R3 → Instr)) :=
  [(.mov, 2, fun p d a _ => .vmov p d a), (.add, 3, .vadd), (.sub, 3, .vsub), (.mul, 3, .vmul), (.fma, 3, .vfma), (.fms, 3, .vfms),
   (.min, 3, .vmin), (.max, 3, .vmax), (.abs, 2, fun p d a _ => .vabs p d a), (.neg, 2, fun p d a _ => .vneg p d a), (.and, 3, .vand),
   (.or, 3, .vor), (.xor, 3, .vxor), (.shl, 3, .vshl), (.shr, 3, .vshr), (.sar, 3, .vsar), (.cmpeq, 3, .vcmpeq), (.cmplt, 3, .vcmplt),
   (.cmple, 3, .vcmple), (.sel, 3, .vsel), (.cvt, 2, fun p d a _ => .vcvt p d a), (.scale, 3, .vscale),
   (.redSum, 2, fun p d a _ => .vredSum p d a), (.redMax, 2, fun p d a _ => .vredMax p d a), (.redMin, 2, fun p d a _ => .vredMin p d a),
   (.redSsq, 2, fun p d a _ => .vredSsq p d a), (.redAmax, 2, fun p d a _ => .vredAmax p d a),
   (.redAmin, 2, fun p d a _ => .vredAmin p d a), (.dot, 3, .vdot), (.rcp, 2, fun p d a _ => .vrcp p d a),
   (.rsq, 2, fun p d a _ => .vrsq p d a), (.rcpr, 3, .vrcpr), (.rsqr, 3, .vrsqr), (.exp2, 2, fun p d a _ => .vexp2 p d a),
   (.log2, 2, fun p d a _ => .vlog2 p d a), (.exp, 2, fun p d a _ => .vexp p d a), (.bcast, 1, fun p d _ _ => .vbcast p d),
   (.iota, 1, fun p d _ _ => .viota p d), (.gath, 3, .vgath), (.scat, 3, .vscat), (.sqrt, 2, fun p d a _ => .vsqrt p d a)]

/-- The state with an entry queued for the vector unit, its draws taken, and ACC empty when the entry fills it (R101, R128, R144). -/
def vectorQueued (u : State) (e : VEntry) (draws : Nat) (fills : Bool) : State :=
  { u with next := u.next + 1
           c := { u.c with acc := if fills then { u.c.acc with full := false } else u.c.acc
                           vq := u.c.vq ++ [{ e with order := u.next, seq := u.c.unitSeq, iss := { e.iss with issued := true } }], unitSeq := u.c.unitSeq + 1
                           qidx := u.c.qidx + BitVec.ofNat 32 draws } }

/-- The core's vector queue takes an entry: fewer than 16 wait, and no stop of the unit is unreported, ENGINE or CHECK (R128, R385, R392). -/
def VectorRoom (u : State) : Prop :=
  (u.coreQueue u.c.place).length < 16 ∧ (∀ x ∈ u.c.reports, x.unit ≠ .vector ∧ x.unit ≠ .tree) ∧ ∀ x ∈ u.c.check, x.1 ≠ .vector

/-- R128, R129, R144: a vector instruction whose records, mask, draws, translations, indices, capabilities and escrow lines are in order
and whose queue has room completes at issue: one entry with everything sampled is queued behind the others, ACC is empty for a reduction,
QIDX moves on by the draws. Nothing else changes. -/
def VectorQueuedAtIssue : Prop :=
  ∀ (op : VOp) (arity : Nat) (mk : Pre → R3 → R3 → R3 → Instr), (op, arity, mk) ∈ vectors →
  ∀ (p : Pre) (d a b : R3) (s t1 t2 t3 t4 : State) (r : VRecs) (mask acc : Word) (pages : List (Nat × Nat)) (idx : List Nat),
    let t := s.drain s.c.uid
    let i := repIndex p s
    let iss := t.c.issuer (t.c.scopeOf p)
    let fp := t.c.fpCtlOf p.v
    let e0 : VEntry := { op := op, d := r.d, a := r.a, b := r.b, c := r.c, mask := mask, zeroing := p.v.any fun v => v.zero, mode := fp.mode
                         sat := fp.sat, ftz := fp.ftz, traps := fp.traps, acc := acc, qsrd := t.c.qsrd.toNat, qidx := t.c.qidx.toNat, iss := iss }
    let n := e0.draws
    let e1 : VEntry := { (if n = 0 then e0 else { e0 with mint := t.c.mint }) with iss := { iss with xlat := pages } }
    let e : VEntry := { e1 with idx := idx }
    let w := (r.d.getD {}).written e.writes
    repLeft p s → Released s →
    vrecords op p (some (t.c.field p 0 i d), if 2 ≤ arity then some (t.c.field p 1 i a) else none,
      if 3 ≤ arity then some (t.c.field p 3 i b) else none) t = .ok (r, t1) →
    Passes (vchecks op iss r) t1 → vmask p t1 = .ok (mask, t1) → (if op = .bcast then t1.c.Reads .acc acc else acc = 0) →
    Passes (drawCheck n) t1 → vtranslate iss r t1 = .ok (pages, t2) → vindices e1 t2 = .ok (idx, t3) → Passes (capAll e1.iss w) t3 →
    reserveRange e1.iss (r.d.getD {}) t3 = .ok ((), t4) → VectorRoom t4 →
    (op.isRed = true → t4.c.Takes .acc) →
    exec (mk p d a b) s = .next (afterRep true p s (vectorQueued t4 e n op.isRed))

/-- R89 to R91: the values of floating codes, with sign s, exponent field x and fraction m: zeros, subnormals (F36 has none), normal numbers,
infinities and NaNs; e4m3 has neither infinity nor other NaNs than all ones. -/
def CodeValues : Prop :=
  ∀ (ty : ETy) (f : Fmt) (s x m : Nat), ty.fmt = some f → s < 2 → x < 2 ^ f.ebits → m < 2 ^ (f.p - 1) →
    let v := f.value (s * 2 ^ (f.p - 1 + f.ebits) + x * 2 ^ (f.p - 1) + m)
    let signed (n : Nat) : Int := if s = 1 then -(n : Int) else n
    let top := 2 ^ f.ebits - 1
    (x = 0 → v = if m = 0 ∨ ty = .f36 then .zero (decide (s = 1)) else .fin ⟨signed m, f.emin - (f.p - 1)⟩) ∧
    (0 < x → x < top ∨ (ty = .e4m3 ∧ m ≠ 7) → v = .fin ⟨signed (2 ^ (f.p - 1) + m), (x : Int) - (1 - f.emin) - (f.p - 1)⟩) ∧
    (x = top → ty ≠ .e4m3 → v = if m = 0 then .inf (decide (s = 1)) else .nan) ∧ (x = top → ty = .e4m3 → m = 7 → v = .nan) ∧
    f.emax = (if ty = .e4m3 then 8 else 1 - f.emin)

/-- A multiple `k` of 2^q is what a mode makes of the magnitude `a` of a number (R99, R101): `a` itself where it is one, otherwise `lo` or the
next one. -/
def Rounds (rc : RCtl) (pos : Bool) (a : Dy) (q : Int) (lo k : Nat) : Prop :=
  let mid : Dy := ⟨2 * lo + 1, q - 1⟩
  (Dy.cmp ⟨lo, q⟩ a ≤ 0 ∧ Dy.cmp a ⟨lo + 1, q⟩ < 0) ∧
  if Dy.cmp ⟨lo, q⟩ a = 0 then k = lo else
    match rc.mode with
    | .rtz => k = lo
    | .rup => k = if pos then lo + 1 else lo
    | .rdn => k = if pos then lo else lo + 1
    | .rne => k = if Dy.cmp a mid < 0 ∨ (Dy.cmp a mid = 0 ∧ lo % 2 = 0) then lo else lo + 1
    | .rna => k = if Dy.cmp a mid < 0 then lo else lo + 1
    | .sr => k = if Dy.cmp ⟨lo * 2 ^ 24 + rc.u + 1, q - 24⟩ a ≤ 0 then lo + 1 else lo

/-- R99 to R103: a finite number taken into a floating format. With eu its binary exponent (at least emin, where the format has subnormals),
it becomes a multiple k of 2^(eu - (p - 1)) by the mode. Beyond the largest finite number the result is OF and IX with an infinity or
that number by the mode, in e4m3 that number or NaN by the saturation setting. Below 2^emin, FTZ and F36 give a zero of the sign with UF
and IX. Otherwise the code has exactly that value, with IX where it differs from the number, and never OF. -/
def Rounding : Prop :=
  ∀ (ty : ETy) (f : Fmt) (rc : RCtl) (d : Dy) (eu : Int), ty.fmt = some f → d.m ≠ 0 →
    let a : Dy := ⟨d.m.natAbs, d.e⟩
    let pos := decide (0 < d.m)
    Dy.cmp ⟨1, eu⟩ a ≤ 0 → Dy.cmp a ⟨1, eu + 1⟩ < 0 →
    let q : Int := (if ty = .f36 then eu else Max.max eu f.emin) - (f.p - 1)
    let out := f.roundFin rc d
    let sign := if pos then 0 else 2 ^ (f.p - 1 + f.ebits)
    let infinite := sign + (2 ^ f.ebits - 1) * 2 ^ (f.p - 1)
    ∃ lo k : Nat, Rounds rc pos a q lo k ∧
      let beyond : Prop := Dy.cmp ⟨f.maxM, f.emax - (f.p - 1)⟩ ⟨k, q⟩ < 0
      let toInf : Prop := match rc.mode with
        | .rne | .rna => True
        | .rtz => False
        | .rup => pos = true
        | .rdn => pos = false
        | .sr => k ≠ lo
      (beyond → out.2 = 0b101 ∧ if ty = .e4m3 then out.1 = if rc.sat then sign + 0x7E else 0x7F
        else (toInf → out.1 = infinite) ∧ (¬ toInf → out.1 + 1 = infinite)) ∧
      (¬ beyond → Dy.cmp ⟨k, q⟩ ⟨1, f.emin⟩ < 0 ∧ (ty = .f36 ∨ rc.ftz = true ∧ k ≠ 0) → out = (sign, 0b011)) ∧
      (¬ beyond → ¬ (Dy.cmp ⟨k, q⟩ ⟨1, f.emin⟩ < 0 ∧ (ty = .f36 ∨ rc.ftz = true ∧ k ≠ 0)) →
        (k = 0 → f.value out.1 = .zero (!pos)) ∧
        (k ≠ 0 → ∃ v : Dy, f.value out.1 = .fin v ∧ (0 < v.m ↔ pos = true) ∧ Dy.cmp ⟨v.m.natAbs, v.e⟩ ⟨k, q⟩ = 0) ∧
        out.2.getLsbD 0 = decide (Dy.cmp ⟨k, q⟩ a ≠ 0) ∧ out.2.getLsbD 2 = false)

/-- R98, R104, R105, R108: conversions. Into a floating type zeros and infinities keep their sign and a NaN is the canonical one. Into an
integer type a finite number is rounded to an integer by the mode (IX); outside the range it is saturated or wrapped with IV; a NaN gives
0 with IV. Into E8 a number gives the exponent of its leading bit (R107). -/
def Conversions : Prop :=
  ∀ (ty : ETy) (rc : RCtl),
    (∀ f n, ty.fmt = some f → ty.conv rc (.zero n) = (if n then 2 ^ (f.p - 1 + f.ebits) else 0, 0) ∧ (∃ c, ty.conv rc .nan = (c, 0) ∧ f.value c = .nan) ∧
      (ty ≠ .e4m3 → ∃ c, ty.conv rc (.inf n) = (c, 0) ∧ f.value c = .inf n) ∧ ∀ d, ty.conv rc (.fin d) = f.roundFin rc d) ∧
    (ty.isInt = true → ty.conv rc .nan = (0, 0b010000) ∧ (∀ n, ty.conv rc (.zero n) = (0, 0)) ∧ ∀ d : Dy, d.m ≠ 0 →
      ∃ lo k : Nat, Rounds rc (decide (0 < d.m)) ⟨d.m.natAbs, d.e⟩ 0 lo k ∧
        let n : Int := if 0 < d.m then k else -(k : Int)
        let ix : FF := if Dy.cmp ⟨k, 0⟩ ⟨d.m.natAbs, d.e⟩ = 0 then 0 else 1
        let code (v : Int) : Nat := (v % 2 ^ ty.width).toNat
        ty.conv rc (.fin d) = if ty.minT ≤ n ∧ n ≤ ty.maxT then (code n, ix)
          else (if rc.sat then code (Min.min (Max.max n ty.minT) ty.maxT) else code n, ix ||| 0b010000)) ∧
    (∀ (d : Dy) (k : Int), d.m ≠ 0 → -127 ≤ k → k ≤ 127 → Dy.cmp ⟨1, k⟩ ⟨d.m.natAbs, d.e⟩ ≤ 0 → Dy.cmp ⟨d.m.natAbs, d.e⟩ ⟨1, k + 1⟩ < 0 →
      ETy.e8.conv rc (.fin d) = ((k + 127).toNat, if Dy.cmp ⟨1, k⟩ ⟨d.m.natAbs, d.e⟩ = 0 then 0 else 1))

/-- The logarithm of an lns6 code in quarters (R92). -/
def lnsQuarters (code : Nat) : Int := if code % 32 < 16 then (code % 32 : Nat) else (code % 32 : Nat) - 32

/-- lin(n) of R93: a logarithm of n quarters, linear. -/
def lnsLinear (n : Int) : Dy := ⟨([4096, 4871, 5793, 6889].getD (n % 4).toNat 0 : Nat), n / 4 - 12⟩

/-- R92 to R95, R106: lns6. A code's value is lin of its logarithm with its sign, 0x10 is zero, 0x30 a NaN that sets RSV; a product adds the
logarithms; a number that a code has converts to that code with no flag; one between two neighbours becomes one of them, by the mode, with
IX; beyond the largest it is that one with OF and IX. -/
def LnsRules : Prop :=
  (∀ c, c < 64 → let d := lnsLinear (lnsQuarters c)
    ETy.lns6.value c = (if c = 0x10 then .zero false else if c = 0x30 then .nan else .fin (if c < 32 then d else d.neg), if c = 0x30 then 0b100000 else 0)) ∧
  (∀ (x y : VOpd) (p : Dy), x.ty = .lns6 → y.ty = .lns6 → x.code < 64 → y.code < 64 → x.code ∉ [0x10, 0x30] → y.code ∉ [0x10, 0x30] →
    x.scl = none → y.scl = none → p = lnsLinear (lnsQuarters x.code + lnsQuarters y.code) →
    ∀ t rc, VOp.result .mul t none rc x y {} = t.conv rc (.fin (if (x.code < 32 ↔ y.code < 32) then p else p.neg))) ∧
  (∀ (rc : RCtl) (c : Nat) (d : Dy), c < 64 → c ≠ 0x10 → c ≠ 0x30 → ETy.lns6.value c = (.fin d, 0) → ETy.lns6.conv rc (.fin d) = (c, 0)) ∧
  (∀ (rc : RCtl) (d : Dy), d.m ≠ 0 → let a : Dy := ⟨d.m.natAbs, d.e⟩
    let code (n : Int) : Nat := (if 0 < d.m then 0 else 32) + (n % 32).toNat
    (Dy.cmp (lnsLinear 15) a < 0 → ETy.lns6.conv rc (.fin d) = (code 15, 0b101)) ∧
    (∀ n : Int, -15 ≤ n → n < 15 → Dy.cmp (lnsLinear n) a < 0 → Dy.cmp a (lnsLinear (n + 1)) < 0 →
      let mid : Int := Dy.cmp ((lnsLinear n).add (lnsLinear (n + 1))) ⟨2 * a.m, a.e⟩
      let up : Prop := match rc.mode with
        | .rtz => False
        | .rup => 0 < d.m
        | .rdn => d.m < 0
        | .rna => mid ≤ 0
        | .rne => mid < 0 ∨ (mid = 0 ∧ n % 2 = 1)
        | .sr => True
      rc.mode ≠ .sr → (up → ETy.lns6.conv rc (.fin d) = (code (n + 1), 1)) ∧ (¬ up → ETy.lns6.conv rc (.fin d) = (code n, 1))))

/-- R98, R104, R138 to R141: the elementwise operations on unscaled integer operands into an integer type. The exact integer is wrapped, or
saturated by the setting, and no flag is set; the logic operations and shifts work on the raw bits, an amount outside 0 to w - 1 shifting
everything out; a compare gives all ones or 0. -/
def IntegerElements : Prop :=
  ∀ (t ta tb tc : ETy) (rc : RCtl) (x y z : Nat), t.isInt = true → ta.isInt = true → tb.isInt = true → tc.isInt = true →
    let i := ta.intOf x
    let j := tb.intOf y
    let k := tc.intOf z
    let w := t.width
    let raw (n : Nat) : Nat := n % 2 ^ w
    let gives (op : VOp) (n : Nat) : Prop := VOp.result op t none rc { ty := ta, code := x } { ty := tb, code := y } { ty := tc, code := z } = (n, 0)
    let put (op : VOp) (v : Int) : Prop := gives op ((if rc.sat then Min.min (Max.max v t.minT) t.maxT else v) % 2 ^ w).toNat
    let within : Prop := 0 ≤ j ∧ j < (w : Int)
    put .add (i + j) ∧ put .sub (i - j) ∧ put .mul (i * j) ∧ put .fma (i * j + k) ∧ put .fms (i * j - k) ∧ put .min (Min.min i j) ∧
    put .max (Max.max i j) ∧ put .abs (i.natAbs : Int) ∧ put .neg (-i) ∧ put .cvt i ∧
    gives .mov (raw x) ∧ gives .and (raw x &&& raw y) ∧ gives .or (raw x ||| raw y) ∧ gives .xor (raw x ^^^ raw y) ∧
    gives .sel (if z % 2 ^ tc.width ≠ 0 then raw x else raw y) ∧
    (within → gives .shl (raw (raw x * 2 ^ j.toNat)) ∧ gives .shr (raw x / 2 ^ j.toNat) ∧ gives .sar (sextNat w (raw x) / 2 ^ j.toNat % 2 ^ w).toNat) ∧
    (¬ within → gives .shl 0 ∧ gives .shr 0 ∧ gives .sar (if raw x < 2 ^ (w - 1) then 0 else 2 ^ w - 1)) ∧
    gives .cmpeq (if i = j then 2 ^ w - 1 else 0) ∧ gives .cmplt (if i < j then 2 ^ w - 1 else 0) ∧ gives .cmple (if i ≤ j then 2 ^ w - 1 else 0)

/-- R97, R138, R141, R145, R147: the elementwise operations into a floating type, on operands with the exact values x, y, z (lns6 apart, whose
products are R94's): the exact result is rounded once; an exact zero sum is -0 only under RDN; NaN operands give the canonical NaN and no
flag; infinities of opposite signs added, 0 times an infinity, and a square root or logarithm of a negative number give it with IV; the
reciprocal, reciprocal root and logarithm of 0 are infinite with DZ. -/
def FloatElements : Prop :=
  ∀ (t : ETy) (f : Fmt) (rc : RCtl) (a b c : VOpd), t.fmt = some f → a.ty ≠ .lns6 → b.ty ≠ .lns6 →
    let r (op : VOp) : Nat × FF := VOp.result op t none rc a b c
    let nan (ff : FF) (out : Nat × FF) : Prop := f.value out.1 = .nan ∧ out.2 = ff
    let lt (x y : Dy) : Prop := x.cmp y < 0
    (∀ x y z : Dy, a.val = (.fin x, 0) → b.val = (.fin y, 0) → c.val = (.fin z, 0) → x.m ≠ 0 → y.m ≠ 0 →
      let sum (op : VOp) (d : Dy) : Prop := r op = if d.m = 0 then (if rc.mode = .rdn then 2 ^ (f.p - 1 + f.ebits) else 0, 0) else f.roundFin rc d
      sum .add (x.add y) ∧ sum .sub (x.add y.neg) ∧ sum .fma ((x.mul y).add z) ∧ sum .fms ((x.mul y).add z.neg) ∧
      r .mul = f.roundFin rc ⟨x.m * y.m, x.e + y.e⟩ ∧ r .cvt = f.roundFin rc x ∧
      (lt x y → r .min = f.roundFin rc x ∧ r .max = f.roundFin rc y) ∧ (lt y x → r .min = f.roundFin rc y ∧ r .max = f.roundFin rc x) ∧
      (∀ n : Int, b.ty.isInt = true → b.scaled = false → b.scl = none → b.ty.intOf b.code = n → -8192 ≤ n → n ≤ 8192 →
        r .scale = f.roundFin rc ⟨x.m, x.e + n⟩) ∧
      (x.m < 0 → nan 0b010000 (r .sqrt) ∧ nan 0b010000 (r .log2) ∧ nan 0b010000 (r .rsq))) ∧
    (a.val = (.nan, 0) ∨ b.val = (.nan, 0) → a.val.2 = 0 → b.val.2 = 0 → ∀ op ∈ [VOp.add, .sub, .mul, .min, .max], nan 0 (r op)) ∧
    (∀ p q, a.val = (.inf p, 0) → b.val = (.inf q, 0) → if p = q then nan 0b010000 (r .sub) else nan 0b010000 (r .add)) ∧
    (∀ p q, a.val = (.inf p, 0) → b.val = (.zero q, 0) → nan 0b010000 (r .mul)) ∧
    (∀ n, a.val = (.zero n, 0) → t ≠ .e4m3 → f.value (r .rcp).1 = .inf n ∧ (r .rcp).2 = 0b001000 ∧ f.value (r .rsq).1 = .inf n ∧
      (r .rsq).2 = 0b001000 ∧ f.value (r .log2).1 = .inf true ∧ (r .log2).2 = 0b001000) ∧
    (t = a.ty → r .abs = (a.code % 2 ^ t.width % 2 ^ (t.width - 1), 0) ∧ r .neg = ((a.code % 2 ^ t.width + 2 ^ (t.width - 1)) % 2 ^ t.width, 0))

/-- R98, R142 to R144: a row of VRED and VDOT over unscaled integers, `xs` being its active elements with their places and codes: the sum,
the sum of squares or of products, the extreme, the lowest place that attains it, each wrapped or saturated, no flag set. A row of at
most 16 finite elements summed into a floating type is their exact sum, rounded once; every further group of 16 is rounded, added to the running sum,
and rounded again. -/
def RowResults : Prop :=
  ∀ (e : VEntry) (s : State) (n : Nat) (d a : Shape) (ta tb : ETy) (xs : List (Nat × Nat × Nat)), e.d = some d → e.a = some a → a.ty = ta →
    (∀ b, e.b = some b → b.ty = tb ∧ b.scaled = false) → a.scaled = false → ta.isInt = true → tb.isInt = true →
    let row := e.rowResult s n (xs.map fun q => (q.1, { ty := ta, code := q.2.1 }, { ty := tb, code := q.2.2 }))
    let i (q : Nat × Nat × Nat) : Int := ta.intOf q.2.1
    let put (v : Int) : Prop := row = (((if e.sat then Min.min (Max.max v d.ty.minT) d.ty.maxT else v) % 2 ^ d.ty.width).toNat, 0)
    (d.ty.isInt = true →
      (e.op = .redSum → put ((xs.map i).sum)) ∧ (e.op = .redSsq → put ((xs.map fun q => i q * i q).sum)) ∧
      (e.op = .dot → put ((xs.map fun q => i q * tb.intOf q.2.2).sum)) ∧
      (∀ q ∈ xs, (∀ q' ∈ xs, i q' ≤ i q) → e.op = .redMax → put (i q)) ∧ (∀ q ∈ xs, (∀ q' ∈ xs, i q ≤ i q') → e.op = .redMin → put (i q)) ∧
      (∀ pre q post, xs = pre ++ q :: post → (∀ q' ∈ pre, i q' < i q) → (∀ q' ∈ post, i q' ≤ i q) → e.op = .redAmax → put (q.1 : Int)) ∧
      (∀ pre q post, xs = pre ++ q :: post → (∀ q' ∈ pre, i q < i q') → (∀ q' ∈ post, i q ≤ i q') → e.op = .redAmin → put (q.1 : Int))) ∧
    (∀ (t : ETy) (f : Fmt) (rc : RCtl) (draw : Nat → Nat) (ds : List Dy), t.fmt = some f → ds ≠ [] → ds.length ≤ 16 →
      let x := ds.foldl (fun u v => u.add v) ⟨0, 0⟩
      x.m ≠ 0 → rowSum t rc draw (ds.map Val.fin) = f.roundFin { rc with u := draw 0 } x) ∧
    (∀ (t : ETy) (rc : RCtl) (draw : Nat → Nat) (front group : List Val) (x y : Dy), rc.mode ≠ .sr → front ≠ [] → front.length % 16 = 0 → group ≠ [] →
      group.length ≤ 16 → (t.value (rowSum t rc draw front).1).1 = .fin x → (t.value (rowSum t rc draw group).1).1 = .fin y →
      let sum := [x, y].foldl Dy.add ⟨0, 0⟩
      sum.m ≠ 0 → (rowSum t rc draw (front ++ group)).1 = (t.conv rc (.fin sum)).1)

/-- R128 to R132, R138: one element of an entry's pass, at an ordinal of the shape order. An inactive index keeps d's element, or gets the zero
code under PFX.V Z; at an active one the sources' codes are read, the operation's result is written to d, and its flags are added. -/
def ElementStep : Prop :=
  ∀ (e : VEntry) (before : State) (free : Nat → Bool) (r : VRun) (ord : Nat) (d : Shape), e.d = some d → d.strm = false →
    e.op.isRed = false → e.op ≠ .gath → e.op ≠ .scat →
    let j := d.ix ord
    let writes (code : Nat) (f : State → VRun) : Prop := ∀ w, r.s.unitWrite e.iss free d e.writes j code = .ok w → e.step before free r ord = .ok (f w)
    (e.mask.getLsbD (j.j0 % 64) = false → e.zeroing = false → e.step before free r ord = .ok r) ∧
    (e.mask.getLsbD (j.j0 % 64) = false → e.zeroing = true → writes (if d.ty = .lns6 then 0x10 else 0) fun w => { r with s := w }) ∧
    (e.mask.getLsbD (j.j0 % 64) = true → e.op ≠ .cvt → e.op ≠ .bcast → e.op ≠ .iota → e.mode ≠ .sr →
      ∀ (a : Shape) (x : Nat) (b : Shape) (y : Nat), e.a = some a → e.b = some b → e.c = none → a.strm = false → b.strm = false → a.scaled = false → b.scaled = false →
        r.s.unitCode e.iss a (a.at j) = .ok x → r.s.unitCode e.iss b (b.at j) = .ok y →
        let out := VOp.result e.op d.ty none { mode := e.mode, sat := e.sat, ftz := e.ftz } { ty := a.ty, code := x } { ty := b.ty, code := y } {}
        writes out.1 fun w => { r with s := w, ff := r.ff ||| out.2, n := r.n + b2n e.rounds })

/-- R89 to R91, R98 to R109, R128 to R132, R138 to R144: the vector instructions at issue; what their entries compute: the values of codes,
rounding, conversions, elements and rows. -/
def Obligations.VectorIssue : Prop :=
  VectorQueuedAtIssue ∧ CodeValues ∧ Rounding ∧ Conversions ∧ LnsRules ∧ IntegerElements ∧ FloatElements ∧ RowResults ∧ ElementStep

/-- The entry that a matrix instruction queues, with what R167 samples. -/
def matrixEntry (t : State) (op : MOp) (k : BitVec 2) (scope : R3) (a b : Option Shape) (acc : Word) : MEntry :=
  { t.c.mentry op k.toNat (t.c.issuer scope) with a := a, b := b, acc := acc }

/-- An entry with its number: its accesses carry the number and its leases, and meet no lock that comes later (R169, R172; log entry 127). -/
def numberedEntry (e : MEntry) (n : Nat) : MEntry := { e with order := n, iss := { e.iss with order := n, lease := e.lease, issued := true } }

/-- The state with an entry queued for the matrix unit and its draws taken (R167). -/
def matrixQueued (u : State) (e : MEntry) (draws : Nat) : State :=
  { u with next := u.next + 1
           c := { u.c with mq := u.c.mq ++ [{ numberedEntry e u.next with seq := u.c.unitSeq }]
                           unitSeq := u.c.unitSeq + 1, qidx := u.c.qidx + BitVec.ofNat 32 draws } }

/-- The matrix queue takes an entry: fewer than two wait, and no stop of the unit is unreported, ENGINE or CHECK (R167, R385, R392). -/
def MatrixRoom (u : State) : Prop := u.c.mq.length < 2 ∧ (∀ x ∈ u.c.reports, x.unit ≠ .matrix) ∧ ∀ x ∈ u.c.check, x.1 ≠ .matrix

/-- R152, R155, R162 to R169: the matrix instructions complete at issue when their bank, records, geometry and places are in order and the
queue has room: one entry with everything sampled is queued; MMA, MMZ and MMSUB lease their operands, MMMASK has read its block (at the
pointer's value, log entry 21), MMST counts its draws and checks its type under the mask store that the queue will have loaded (log entry
48). R176: a product whose path is absent takes FMTEMU with MFMT in TVAL instead, its entry numbered and its leases held for the
firmware; MMSUB needs ACC for that only where B lies in DRAM (log entry 114). -/
def MatrixQueuedAtIssue : Prop :=
  ∀ (p : Pre) (a b : R3) (k : BitVec 2) (s : State), repLeft p s → s.c.mayBank k.toNat = true →
    let t := s.drain s.c.uid
    let i := repIndex p s
    let puts (j : Instr) (u : State) (e : MEntry) (n : Nat) : Prop := exec j s = .next (afterRep true p s (matrixQueued u e n))
    (Released s → ∀ (op : MOp) (mk : Pre → R3 → R3 → BitVec 2 → Instr), (op, mk) ∈ [(MOp.mma, Instr.mma), (.mmz, .mmz), (.mmsub, .mmsub)] →
      ∀ (t1 t2 t3 : State) (x y : Shape) (acc : Word) (pages : List (Nat × Nat)),
      let iss := t.c.issuer t.c.defscope
      let e := matrixEntry t op k t.c.defscope (some x) (some y) acc
      let left := (e.elems 0).flatMap x.bytesOf ++ e.scales 0
      let right := (e.elems 1).flatMap y.bytesOf ++ e.scales 1
      let at_ := { iss with xlat := pages }
      let entry := { e with iss := at_, lease := ((t3.keysOf at_ (left ++ right)).flatMap operandLease).eraseDups }
      readRecordAs (underConst t.c.mscla) (t.c.field p 0 i a) 1 t = .ok (x, t1) →
      readRecordAs (underConst t.c.msclb) (t.c.field p 1 i b) 2 t1 = .ok (y, t2) →
      Passes (mmaChecks iss k.toNat x y) t2 → (op ≠ .mmsub → acc = 0) →
      (op = .mmsub → t2.c.Reads .acc acc ∨ (∀ v, ¬ t2.c.Reads .acc v) ∧ acc = w64 0x7F00_7F00_7F00 ∧ t.winOf iss y ≠ some .dram ∧
        t3.hasPath ((mpath x.ty y.ty).getD .lns6) = false) →
      (t.c.onReflex = true → t.winOf iss y ≠ some .dram) → translateAll iss .read (firsts [] (left ++ right)) t2 = .ok (pages, t3) →
      (t3.hasPath ((mpath x.ty y.ty).getD .lns6) = true → Passes (vectorFirst at_ (left ++ right)) t3 → MatrixRoom t3 →
        puts (mk p a b k) t3 entry 0) ∧
      (t3.hasPath ((mpath x.ty y.ty).getD .lns6) = false → exec (mk p a b k) s = .next (takeTrap false 0x12 0 t3.c.mfmt s.c.pc p.rep.isSome
        { t3 with next := t3.next + 1, c := { t3.c with emu := some { numberedEntry entry t3.next with emu := true } } }))) ∧
    (Released s → ∀ (t1 t2 : State) (x : Shape) (pages : List (Nat × Nat)),
      let iss := t.c.issuer (t.c.scopeOf p)
      let mask := t.storeAhead k.toNat
      let e := matrixEntry t .mmst k (t.c.scopeOf p) (some x) none 0
      let n := if e.mode = .sr then e.converted mask else 0
      readRecord (t.c.field p 0 i a) 0 t = .ok (x, t1) →
      (mask.isSome → x.ty.maskable = true) → x.rank ≤ 2 → x.dim 0 ≤ 128 → x.dim 1 ≤ 128 → x.strm = false → t.winOf iss x ≠ some .dram →
      Passes (drawCheck n) t1 → translateShape iss x .write x.ixs t1 = .ok (pages, t2) → Passes (capAll iss (x.written x.ixs)) t2 →
      Passes (vectorFirst iss x.addrs) t2 → MatrixRoom t2 →
      puts (.mmst p a k) t2 (if n = 0 then e else { e with mint := t.c.mint }) n) ∧
    (Released s → ∀ (t1 t2 : State) (x : Shape) (pages : List (Nat × Nat)),
      let iss := t.c.issuer (t.c.scopeOf p)
      readRecord (t.c.field p 0 i a) 1 t = .ok (x, t1) → (bit t.c.mfmt (16 + k.toNat) = false → x.ty.isInt = true) → x.rank ≤ 2 →
      x.dim 0 ≤ 128 → x.dim 1 ≤ 128 → x.strm = false → t.winOf iss x = some .own → translateShape iss x .read x.ixs t1 = .ok (pages, t2) →
      Passes (vectorFirst iss x.addrs) t2 → MatrixRoom t2 →
      puts (.mmld p a k) t2 (matrixEntry t .mmld k (t.c.scopeOf p) (some x) none 0) 0) ∧
    (∀ (t1 : State) (v : Word) (bs : List Byte) (st : Option MaskStore),
      let iss := s.c.issuer s.c.defscope
      s.c.Reads (.p (s.c.field p 0 i a)) v → v.toNat % 64 = 0 → v.toNat + 2112 ≤ localSize iss → loadGranules iss v 66 s = .ok (bs, t1) →
      parseMask bs = .ok st → MatrixRoom t1 →
      puts (.mmmask p a k) t1 { matrixEntry s .mmmask k s.c.defscope none none 0 with store := st } 0)

/-- The exact product of two codes on a matrix path (R94, R95, R157): for lns6 by the logarithms, a reserved code being zero; otherwise of the
two values, where both are finite. -/
def exactTerm (ta tb : ETy) (x y : Nat) : Option Dy :=
  if ta = .lns6 ∧ tb = .lns6 then
    let p := lnsLinear (lnsQuarters x + lnsQuarters y)
    some (if x % 32 = 16 ∨ y % 32 = 16 then ⟨0, 0⟩ else if (x / 32 + y / 32) % 2 = 1 then p.neg else p)
  else match (ta.value x).1, (tb.value y).1 with
    | .fin u, .fin v => some ⟨u.m * v.m, u.e + v.e⟩
    | .fin _, .zero _ | .zero _, .fin _ | .zero _, .zero _ => some ⟨0, 0⟩
    | _, _ => none

/-- R152, R157 to R159, R162, R163: what MMA, MMZ and MMSUB leave in an element (m, n) of the bank, from the operands' codes and scale
exponents. Outside the edge and MMSUB's range MMZ leaves 0 and the others the old element. In I36 mode the exact sum B over the active k is
added with wrapping, or up to a bound that sticks, and no flag is set; MMZ stores it and clears the saturation bit. In F36 mode T is the exact
sum of the products times both scales, rounded to F36 by RNE; MMZ stores it, the others add it to the element and round again; a NaN
operand or scale gives NaN. -/
def MatrixProducts : Prop :=
  ∀ (e : MEntry) (o : MOps) (bk : Bank) (a b : Shape) (m n : Nat), e.op = .mma ∨ e.op = .mmz ∨ e.op = .mmsub → e.a = some a → e.b = some b →
    e.emu = false →
    let at_ (i j0 j1 : Nat) : Ix := { j0 := 128 * bits e.mgeo1 23 16 + j0, j1 := 128 * bits e.mgeo1 (8 * i + 7) (8 * i) + j1 }
    let within (dim i lo hi x : Nat) : Prop := x < Min.min (dim - 128 * i) 128 ∧ (e.op = .mmsub → lo ≤ x ∧ x ≤ hi)
    let inside : Prop := within (a.dim 1) (bits e.mgeo1 7 0) (bits e.acc 6 0) (bits e.acc 14 8) m ∧
      within (b.dim 1) (bits e.mgeo1 15 8) (bits e.acc 22 16) (bits e.acc 30 24) n
    let active (k : Nat) : Prop := within (a.dim 0) (bits e.mgeo1 23 16) (bits e.acc 38 32) (bits e.acc 46 40) k
    let x (k : Nat) : Nat := codeAt o.a (at_ 0 k m)
    let y (k : Nat) : Nat := codeAt o.b (at_ 1 k n)
    let old := bk.cell m n
    let new := (e.product o bk).1.cell m n
    (¬ inside → new = if e.op = .mmz then {} else old) ∧
    (inside → bit e.mfmt (16 + e.bank) = false → ∀ f : Nat → Int, (∀ k, active k → f k = a.ty.intOf (x k) * b.ty.intOf (y k)) →
      (∀ k, ¬ active k → f k = 0) →
      let B : Int := ((List.range 128).map f).sum
      let c := old.bits.toInt + B
      (e.product o bk).2 = 0 ∧
      new = if e.op = .mmz then ⟨BitVec.ofInt 36 B, false⟩ else if bit e.msat e.bank = false then { old with bits := BitVec.ofInt 36 c }
        else if old.sat then old else if 2 ^ 35 - 1 < c then ⟨BitVec.ofInt 36 (2 ^ 35 - 1), true⟩
        else if c < -(2 ^ 35) then ⟨BitVec.ofInt 36 (-(2 ^ 35)), true⟩ else { old with bits := BitVec.ofInt 36 c }) ∧
    (inside → bit e.mfmt (16 + e.bank) = true → ∃ t : Nat, ∃ v : Val, ETy.f36.value t = (v, 0) ∧
      (∀ (f : Nat → Dy) (p q : Int) (ks : List Nat), (∀ k, k ∈ ks ↔ active k) → ks.Pairwise (· < ·) →
        (∀ k, active k → exactTerm a.ty b.ty (x k) (y k) = some (f k)) → scaleAt o.sa m = some p → scaleAt o.sb n = some q →
        let S := (ks.map f).foldl Dy.add ⟨0, 0⟩
        t = if S.m = 0 then 0 else (ETy.f36.conv {} (.fin ⟨S.m, S.e + (p + q)⟩)).1) ∧
      ((a.ty ≠ .lns6 ∧ ∃ k, active k ∧ ((a.ty.value (x k)).1 = .nan ∨ (b.ty.value (y k)).1 = .nan)) ∨ scaleAt o.sa m = none ∨
        scaleAt o.sb n = none → v = .nan) ∧
      new.bits.toNat = if e.op = .mmz then t else
        match (ETy.f36.value old.bits.toNat).1, v with
        | .nan, _ | _, .nan => (ETy.f36.conv {} .nan).1
        | .fin c, .fin d => if (c.add d).m = 0 then 0 else (ETy.f36.conv {} (.fin (c.add d))).1
        | .fin c, .zero _ => (ETy.f36.conv {} (.fin c)).1
        | .zero _, .fin _ => t
        | .zero p, .zero q => (ETy.f36.conv {} (.zero (p && q))).1
        | .inf p, .inf q => (ETy.f36.conv {} (if p = q then .inf p else .nan)).1
        | .inf p, _ | _, .inf p => (ETy.f36.conv {} (.inf p)).1)

/-- R153, R154, R164 to R166, R172 to R174: what matrix entries do otherwise. A product whose operands can all be read leaves its result in the
bank at once, with its flags. A constant scale is 2^(SCALE - 127), and NaN for 0xFF. masked(m, n) is R166's. MMST gives a masked element the -inf of
its type with no flag, another the value times 2^(MSCLO - 127), rounded by the entry's mode; MMLD rounds into F36 by RNE, or takes an unscaled
integer with no flag; MMMASK loads the store. -/
def MatrixEntries : Prop :=
  ∀ (e : MEntry) (s : State),
    (∀ o, e.op = .mma ∨ e.op = .mmz ∨ e.op = .mmsub → e.readOps s = .ok (o, none) →
      let r := e.product o (s.bankOf e)
      e.run s = some { s := s.setBank e r.1, ff := r.2 } ∧
      (∀ a m k, e.a = some a → m ∈ e.ms → k ∈ e.ks → s.unitCode e.iss a (e.ix 0 m k) = .ok (codeAt o.a (e.ix 0 m k))) ∧
      (∀ b n k, e.b = some b → n ∈ e.ns → k ∈ e.ks → s.unitCode e.iss b (e.ix 1 n k) = .ok (codeAt o.b (e.ix 1 n k))) ∧
      (∀ m, m ∈ e.ms → bit e.mscla 15 = true → scaleAt o.sa m = if bits e.mscla 7 0 = 0xFF then none else some ((bits e.mscla 7 0 : Nat) - 127)) ∧
      (∀ n, n ∈ e.ns → bit e.msclb 15 = true → scaleAt o.sb n = if bits e.msclb 7 0 = 0xFF then none else some ((bits e.msclb 7 0 : Nat) - 127))) ∧
    (e.op = .mmmask → e.run s = some { s := s.setBank e { s.bankOf e with store := e.store } }) ∧
    (∀ (b : Bank) (t : Loc), e.iss.loc = some t → e.bank < 3 → (s.setBank e b).bankOf e = b) ∧
    (∀ (x : MaskStore) (m n : Nat), let c := 128 * bits e.mgeo1 15 8 + n
      let tree := x.tbase ≤ c ∧ c < x.tbase + x.tlen
      e.masked (some x) m n = true ↔ (x.flags.testBit 2 = true ∧ Min.min e.vocabn e.vocabp ≤ c) ∨
        (m < x.rows ∧ x.flags.testBit 1 = true ∧ tree ∧ (x.row.getD m (0, 0)).1.getLsbD (c - x.tbase) = false) ∨
        (m < x.rows ∧ x.flags.testBit 0 = true ∧ ¬ tree ∧ (x.row.getD m (0, 0)).2.toNat < c)) ∧
    (∀ m n, e.masked none m n = false) ∧
    (∀ (d : Shape) (r : MRun) (j : Ix), e.a = some d → d.scaled = false →
      let writes (code : Nat) (f : State → MRun) : Prop :=
        ∀ w, r.s.unitWrite e.iss (fun _ => false) d d.ixs j code = .ok w → e.storeStep r j = .ok (f w)
      (e.masked r.bk.store j.j1 j.j0 = true → ∀ f, d.ty.fmt = some f → writes ((2 ^ (f.ebits + 1) - 1) * 2 ^ (f.p - 1)) fun w => { r with s := w }) ∧
      (e.masked r.bk.store j.j1 j.j0 = false → e.mode ≠ .sr →
        let c := r.bk.cell j.j1 j.j0
        let rc : RCtl := { mode := e.mode, sat := e.sat, ftz := e.ftz }
        let v := if e.f36 then (ETy.f36.value c.bits.toNat).1 else if c.bits.toInt = 0 then .zero false else .fin ⟨c.bits.toInt, 0⟩
        let out := d.ty.conv rc (if bits e.msclo 7 0 = 0xFF then .nan else match v with
          | .fin x => .fin ⟨x.m, x.e + ((bits e.msclo 7 0 : Nat) - 127)⟩
          | x => x)
        e.f36 = true ∨ d.ty.isInt = false → writes out.1 fun w => { r with s := w, ff := r.ff ||| out.2, n := r.n + 1 })) ∧
    (∀ (ty : ETy) (code : Nat) (scl : Option Nat), let o : VOpd := { ty := ty, scaled := scl.isSome, code := code, scl := scl }
      (e.f36 = true → ∀ d, ty ≠ .lns6 → o.val = (.fin d, 0) → let c := ETy.f36.conv {} (.fin d)
        e.loaded o = (⟨BitVec.ofNat 36 c.1, false⟩, c.2)) ∧
      (e.f36 = false → ty.isInt = true → scl = none → let i := ty.intOf code
        e.loaded o = (⟨BitVec.ofInt 36 (if bit e.msat e.bank then Min.min (Max.max i (-(2 ^ 35))) (2 ^ 35 - 1) else i), false⟩, 0)))

/-- R152 to R167, R169, R176: the matrix instructions at issue, and what their entries compute. -/
def Obligations.MatrixIssue : Prop := MatrixQueuedAtIssue ∧ MatrixProducts ∧ MatrixEntries

/-- R222, R224, R260 to R263: CPY, CPYM and GATH complete when their channel, target, records and places are in order, the channel has
room (an active and a shadow set) and the context no unreported stop on it: the granules of the destination are owned and empty, the command is in the channel with its target, and ACC is the promised time:
24 cycles and the bytes of one destination at the slowest rate after the cycle of issue or the promise before it, all ones while unknown. -/
def CopyQueued : Prop :=
  ∀ (op : EngOp) (mk : Pre → R3 → R3 → R3 → Instr), (op, mk) ∈ [(EngOp.cpy, Instr.cpy), (.cpym, .cpym), (.gath, .gath)] →
  ∀ (p : Pre) (dn an ch : R3) (s t0 t1 t2 t3 t4 : State) (l : Loc) (acc mask : Word) (target : Target) (d a : Shape)
    (ix : Option Shape),
    let t := s.drain s.c.uid
    let i := repIndex p s
    let iss := t.c.issuer (t.c.scopeOf p)
    let at_ := fun o => if d.strm then [] else d.destBytes.map fun x => x + o * 2 ^ 21
    let dests := (List.range 64).filter fun n => bit mask n
    let w := dests.flatMap at_
    let k : Cmd := { op := op, d := d, a := a, idx := ix, dests := dests, iss := iss, target := target }
    let c := t3.chan l ch
    let span := if dests = [] then 24 else 24 + cdiv d.promised (t4.rate k)
    let promise := if c.src then none else match c.shadow.orElse fun _ => c.active with
      | none => some (t4.cyc + span)
      | some before => before.promise.map fun x => Max.max t4.cyc x + span
    let own := t4.ownedBy iss k.lineAddrs
    let cmd := { k with num := t4.next, todo := own, issued := t4.cyc, promise := promise, span := span
                        wait := if c.src then some c.out.toNat else none }
    let u := { t4.markEmpty iss own with next := t4.next + 1 }
    repLeft p s → Released s → t.c.mayChan ch = true → engineAcc i t = .ok (acc, t0) → targetOf iss acc t0 = .ok (target, t0) →
    readRecord (t.c.field p 0 i dn) 0 t0 = .ok (d, t1) → readRecord (t.c.field p 1 i an) 1 t1 = .ok (a, t2) →
    optRecord (if op = .gath then some ((p.x.map fun x => x.q).getD 0 + s.c.stagger) else none) 4 t2 = .ok (ix, t3) →
    Passes (engineChecks op iss ch d a ix dests) t3 →
    (if op = .cpym then t3.c.Reads (.k ((p.x.map fun x => x.k).getD 0)) mask else mask = 1) →
    Passes (dramOperands ([d, a] ++ ix.toList)) t3 → (op = .cpym → Passes (ranksAdmitted iss w) t3) → Passes (capAll iss w) t3 →
    Passes (unitsFirst iss (w ++ a.addrs ++ ix.toList.flatMap Shape.addrs)) t3 → t3.c.loc = some l →
    ((t3.chan l ch).active = none ∨ (t3.chan l ch).shadow = none) → (∀ x ∈ t3.c.reports, x.unit.onChan ch = false) →
    reserveAll iss (dests.flatMap fun o => t3.coveredLines iss d o) t3 = .ok ((), t4) → u.c.Takes .acc →
    exec (mk p dn an ch) s = .next (afterRep true p s (((u.setChan l ch ((u.chan l ch).place cmd u.cyc))).withReg .acc (w64 (promise.getD (2 ^ 64 - 1)))))

/-- R221: a channel that the context may not use traps ACCESS with the channel's number: on a reason tile a task has channels 0 to 5 and a
guest 6 and 7, on a reflex tile a thread and a guest have all. -/
def ChannelAccess : Prop :=
  ∀ (p : Pre) (d a ch : R3) (s : State), s.c.onReflex = false → (s.c.isGuest = true ↔ ch.toNat < 6) →
    let traps (rep : Bool) : Out := .next (takeTrap false 0x06 0 (w64 ch.toNat) s.c.pc rep s)
    (repLeft p s → Released s → exec (.cpy p d a ch) s = traps p.rep.isSome ∧ exec (.cpym p d a ch) s = traps p.rep.isSome ∧
      exec (.gath p d a ch) s = traps p.rep.isSome) ∧
    exec (.sleept ch) s = traps false ∧ exec (.cpq ch) s = traps false

/-- R221, R222, R224, R260 to R263: the copy commands at issue, and channels that are not the context's. -/
def Obligations.CopyIssue : Prop := CopyQueued ∧ ChannelAccess

/-- R264: the four COLL forms complete when the target, records and shapes are in order and the context has no command and no unreported
stop on the collective's channel:
the participation is recorded with the context's collective number and rank, the destination's granules are owned and empty, ACC is all
ones. -/
def Obligations.CollectiveIssue : Prop :=
  ∀ (op : BitVec 2) (mk : Pre → R3 → R3 → Instr), (op, mk) ∈ [((0 : BitVec 2), Instr.collSum), (1, .collGather), (2, .collRscat), (3, .collBcast)] →
  ∀ (p : Pre) (dn an : R3) (s t1 t2 t3 : State) (acc : Word) (target : Target) (d a : Shape),
    let t := s.drain s.c.uid
    let iss := t.c.issuer (t.c.scopeOf p)
    let own := t3.ownedBy iss (d.lines.map fun l => l * 32)
    let k : Coll := { launch := t3.c.launch, ic := t3.c.isIc, k := t3.c.colls, rank := t3.c.rank, op := op, d := d, a := a, iss := iss
                      target := target, sat := t3.c.fpCtl.sat, traps := t3.c.fpCtl.traps, num := t3.next, todo := own }
    let u := t3.markEmpty iss own
    Released s → t.c.Reads .acc acc → targetOf iss acc t = .ok (target, t) → readRecord (dn + t.c.stagger) 0 t = .ok (d, t1) →
    readRecord (an + t.c.stagger) 1 t1 = .ok (a, t2) → Passes (collChecks op iss d a) t2 → Passes (capAll iss d.destBytes) t2 →
    Passes (unitsFirst iss (d.addrs ++ a.addrs)) t2 → t2.chanCmds t2.c t.c.collChan = [] →
    (∀ x ∈ t2.c.reports, x.unit.onChan t.c.collChan = false) → reserveRange iss d t2 = .ok ((), t3) → u.c.Takes .acc →
    exec (mk p dn an) s = .next (retire (p.len true)
      ({ u with next := u.next + 1, colls := u.colls ++ [k], c := { u.c with colls := u.c.colls + 1 } }.withReg .acc allOnes))

/-! ## The Square and escrow (R267 to R285) -/

/-- The state with a Square request sent by the moving context: ACC is empty until it is answered (R276). -/
def squareSent (t : State) (q : SqReq) : State :=
  { awaiting t (.square t.next) with next := t.next + 1, square := t.square ++ [{ q with num := t.next, uid := t.c.uid }] }

/-- The context may send a Square request: fewer than two are under way or stopped (R276, R385). -/
def SquareRoom (t : State) : Prop := t.squareOut t.c.uid + (t.c.reports.filter fun r => r.unit = .square).length < 2

/-- R272 to R276: MBPUB, MBGET and the four MBINFO forms complete when the context may use the slot that ACC names, the memory operand
is aligned and lies in a window that the form allows, and the context's earlier accesses and unit work there are over (R241, R245): a request with
a number of its own is sent; MBPUB leases its source, MBGET owns and empties its destination, which it writes at device scope. A slot that the context may not use traps ACCESS with ACC in TVAL, in every form. -/
def Obligations.SquareIssue : Prop :=
  ∀ (n : R3) (s : State) (a v : Word), s.c.Reads .acc a →
    let slot := bits a 9 0
    let x := s.slot slot
    let pn := ringAddress (s.c.desc (n + s.c.stagger)) v 0
    let bytes := if bits a 31 16 = 0 then 64 * x.size else bits a 31 16
    let size := 32 + 64 * x.size
    let t := s.drain s.c.uid
    (s.c.Reads (.p (n + s.c.stagger)) v → s.slotDenied x (some bytes) = false → pn.toNat % 32 = 0 →
      let iss := s.c.issuer s.c.defscope
      (s.window iss pn.toNat (pn.toNat + bytes - 1) = some .own ∨ s.dispHolds pn.toNat (pn.toNat + bytes - 1) = true) →
      Passes (unitsFirst iss ((List.range bytes).map fun k => pn.toNat + k)) s → Released s → SquareRoom t →
      exec (.mbpub n) s = .next (retire 2 (squareSent t
        { num := 0, uid := 0, slot := slot, kind := .pub pn bytes (BitVec.ofNat 16 (bits a 47 32)), iss := iss
          lease := t.ownedBy iss (granAddrs pn.toNat bytes) }))) ∧
    (s.c.Reads (.p (n + s.c.stagger)) v → s.slotDenied x none = false → pn.toNat % 32 = 0 →
      let iss := s.c.issuer 5
      let own := t.ownedBy iss (granAddrs pn.toNat size)
      let u := squareSent t { num := 0, uid := 0, slot := slot, kind := .get pn, iss := iss, own := own }
      (s.window iss pn.toNat (pn.toNat + size - 1) = some .own ∨
        (∃ k, s.window iss pn.toNat (pn.toNat + size - 1) = some (.rank k)) ∧ s.rankDenied iss pn.toNat = false) →
      Passes (unitsFirst iss ((List.range size).map fun k => pn.toNat + k)) s → Released s → SquareRoom t → t.c.Takes .acc →
      exec (.mbget n) s = .next (retire 2 ({ u with c := { u.c with sqLast := some slot } }.markEmpty iss own))) ∧
    (s.slotDenied x none = false → SquareRoom s →
      ∀ (i : Instr) (sel : BitVec 2), (i, sel) ∈ [(Instr.mbinfoVer, (0 : BitVec 2)), (.mbinfoTime, 1), (.mbinfoWho, 2), (.mbinfoFlags, 3)] →
      exec i s = .next (retire 2 (squareSent s { num := 0, uid := 0, slot := slot, kind := .info sel, iss := s.c.issuer s.c.defscope }))) ∧
    let denied (i : Instr) : Prop := exec i s = .next (takeTrap false 0x06 0 a s.c.pc false s)
    (s.slotDenied x none = true → ∀ i ∈ [Instr.mbinfoVer, .mbinfoTime, .mbinfoWho, .mbinfoFlags], denied i) ∧
    (s.c.Reads (.p (n + s.c.stagger)) v → s.slotDenied x none = true → denied (.mbget n)) ∧
    (s.c.Reads (.p (n + s.c.stagger)) v → s.slotDenied x (some bytes) = true → denied (.mbpub n))

/-- R284: the instant of a commit of n positions. Every byte that some entry of the window wrote at a position below n takes the value of the
highest such position, at the physical line of the entry; every other byte of memory stays; the count is that of the lines installed. -/
def CommitRule : Prop :=
  ∀ (s : State) (w n : Nat), s.Canonical →
    let r := s.commit w n
    let holds (e : EscEntry) (k : Nat) (b : Byte) : Prop := e ∈ (s.win w).entries ∧ e.pos < n ∧ e.pline = k / 32 ∧ (k % 32, b) ∈ e.bytes
    (∀ e ∈ (s.win w).entries, (e.bytes.map fun x => x.1).Nodup ∧ ∀ x ∈ e.bytes, x.1 < 32) →
    (∀ k e b, holds e k b → (∀ e' b', holds e' k b' → e' = e ∨ e'.pos < e.pos) → Mem.byte r.1.mem k = b) ∧
    (∀ k, (∀ e b, ¬ holds e k b) → Mem.byte r.1.mem k = Mem.byte s.mem k) ∧
    (∃ lines : List Nat, lines.Nodup ∧ lines.length = r.2 ∧ ∀ l, l ∈ lines ↔ ∃ e ∈ (s.win w).entries, e.pos < n ∧ e.bytes ≠ [] ∧ e.pline = l)

/-- R278, R283, R284: ESOPEN, ESPOS, ESCOMMIT and ESABORT complete. ESOPEN opens or joins a window of the tenant at position 0, and waits while
a commit or abort of the window waits; ESPOS moves the position, its OFF form leaves; the last strand joined commits the bytes of the
positions below ACC, or drops them all, once its own earlier accesses are performed and the work under the window is over, and the window is
idle again. -/
def WindowInstructions : Prop :=
  ∀ (w : R3) (s : State) (a : Word),
    let x := s.win w.toNat
    let joinedHere := s.c.esEn = true ∧ s.c.esWin = w
    let idle (u : State) : State :=
      { u.setWin w.toNat { u.win w.toNat with open_ := false, joined := 0, entries := [] } with c := { u.c with esEn := false } }
    let t := s.drain s.c.uid
    let r := t.commit w.toNat a.toNat
    let waiting := ∃ c ∈ s.ctxs, c.esEn = true ∧ c.esWin = w ∧ c.stalled = true ∧ c.inClose = true
    (s.c.esEn = false → s.c.isDisp = false → x.tenant = s.c.tenant → ¬ waiting →
      exec (.esopen w) s = .next (retire 2 { s.setWin w.toNat
        (if x.open_ then { x with joined := x.joined + 1 } else { x with open_ := true, entries := [], joined := 1 }) with
          c := { s.c with esEn := true, esWin := w, esPos := 0 } })) ∧
    (s.c.esEn = false → s.c.isDisp = false → x.tenant = s.c.tenant → waiting → ∃ u, exec (.esopen w) s = .next u ∧ u.c.pc = s.c.pc ∧ u.c.esEn = false ∧
      u.escrow = s.escrow) ∧
    (s.c.esEn = true → exec (.esopen w) s = .next (takeTrap false 0x1C 0 2 s.c.pc false s)) ∧
    (s.c.esEn = true → s.c.Reads .acc a → a.toNat ≤ 63 →
      exec .espos s = .next (retire 2 { s with c := { s.c with esPos := BitVec.ofNat 6 a.toNat } })) ∧
    (s.c.esEn = true → let y := s.win s.c.esWin.toNat
      exec .esposOff s = .next (retire 2 { s.setWin s.c.esWin.toNat { y with joined := y.joined - 1 } with c := { s.c with esEn := false } })) ∧
    (joinedHere → x.joined = 1 → s.c.Reads .acc a → a.toNat ≤ 64 → s.winBusy w.toNat = false →
      (∀ e ∈ x.installs a.toNat, s.busy e.pline true = false) → Released s → (idle r.1).c.Takes .acc →
      exec (.escommit w) s = .next (retire 2 ((idle r.1).withReg .acc (w64 r.2)))) ∧
    (joinedHere → x.joined = 1 → s.winBusy w.toNat = false → Released s → exec (.esabort w) s = .next (retire 2 (idle t))) ∧
    (joinedHere → x.joined ≠ 1 → exec (.esabort w) s = .next (takeTrap false 0x1C 0 (w64 (x.joined % 256 * 256 + 3)) s.c.pc false s))

/-- R278, R283, R284: the escrow instructions, and what a commit installs. -/
def Obligations.EscrowResult : Prop := WindowInstructions ∧ CommitRule

/-- R280, R281, R285: the page step in the pool of a window that covers the descriptor and the LIST element. Where the list is empty, or full, ACC
gets all ones and nothing is written. Otherwise PGALLOC's ACC is the last free element and COUNT is one less, PGFREE's page is stored there, COUNT
is one more and is ACC; both writes go to the position named. A place outside the window, and a position below the highest at which the
window wrote the descriptor, trap ACCESS and WINDOW. -/
def PageStep : Prop :=
  ∀ (iss : Issuer) (w pos : Nat) (pn : Word) (r p : Res) (free : Option (BitVec 32)) (s u v : State),
    let x := s.win w
    let bs := s.readBytes iss r pn.toNat 16
    let count := leNat (bs.take 4)
    let cap := leNat ((bs.drop 4).take 4)
    let element := w64 (leNat ((bs.drop 8).take 8)) + w64 (4 * if free.isSome then count else count - 1)
    let step := pageInside iss w pos pn r free s
    let used : Prop := if free.isSome then cap ≤ count else count = 0
    let next := if free.isSome then count + 1 else count - 1
    let ready (q : Res) (n : Nat) : Prop :=
      s.acquires s.c = false ∧ s.unitHazard s.c q.key n = false ∧ s.pendingAt s.c q.key = false ∧ s.busy (q.key / 32) false = false
    let wrote (e : EscEntry) : Prop := e ∈ x.entries ∧ e.vline = pn.toNat / 32 ∧ e.bytes ≠ []
    (x.covers pn.toNat = false → step = .error (.trap 0x06 (w64 pn.toNat) 0)) ∧
    (x.covers pn.toNat = true → s.capFail iss pn.toNat = none → ready r 32 →
      ((∃ e, wrote e ∧ pos < e.pos) → step = .error (.trap 0x1C 4 0)) ∧
      ((∀ e, wrote e → e.pos ≤ pos) → s.readFault iss r pn.toNat 16 = none →
        (used → s.c.Takes .acc → step = .ok ((), awaiting s (.fill allOnes {} 0))) ∧
        (¬ used → x.covers element.toNat = false → step = .error (.trap 0x06 (w64 element.toNat) 0)) ∧
        (¬ used → x.covers element.toNat = true → (free.isSome → s.capFail iss element.toNat = none) →
          s.listPlace iss element = .ok p → ready p 4 → s.readFault iss p element.toNat 4 = none →
          (match free with
            | none => v = s
            | some page => redirect w pos p element (leBytes 4 page.toNat) s = .ok ((), v)) →
          redirect w pos r pn (leBytes 4 next) v = .ok ((), u) → u.c.Takes .acc →
          step = .ok ((), awaiting u (.fill (if free.isSome then w64 next else w64 (leNat (s.readBytes iss p element.toNat 4))) {} 0)))))

/-- R280: a redirected write. Where the window has no entry at (position, line) and none can be had, ESFULL is trapped; otherwise the bytes are in
the window's entry for that position and line, which holds the physical line, and a read under the window at that position sees them. -/
def RedirectRule : Prop :=
  ∀ (s : State) (w pos : Nat) (r : Res) (va : Word) (bs : List Byte), w < 8 → s.escrow.length = 8 → va.toNat % 32 + bs.length ≤ 32 → bs ≠ [] →
    let line := va.toNat / 32
    let known := ∃ e ∈ (s.win w).entries, e.pos = pos ∧ e.vline = line
    (¬ known → ((s.win w).quota ≤ (s.win w).entries.length ∨ s.pcap ≤ (s.escrow.map fun y => y.entries.length).sum) →
      redirect w pos r va bs s = .error (.trap 0x0B va 0)) ∧
    (known ∨ ((s.win w).entries.length < (s.win w).quota ∧ (s.escrow.map fun y => y.entries.length).sum < s.pcap) →
      ∃ u, redirect w pos r va bs s = .ok ((), u) ∧ (∀ j, j < bs.length → (u.win w).look pos (va.toNat + j) = some (bs.getD j 0)) ∧
        (∀ e ∈ (u.win w).entries, e ∈ (s.win w).entries ∨ (e.pos = pos ∧ e.vline = line ∧ (¬ known → e.pline = r.key / 32))) ∧
        (∀ e ∈ (s.win w).entries, ¬ (e.pos = pos ∧ e.vline = line) → e ∈ (u.win w).entries) ∧
        (∀ k, k ≠ w → u.win k = s.win k) ∧ u.mem = s.mem ∧ u.c = s.c)

/-- R285: PGALLOC and PGFREE complete when their descriptor is an aligned, writable granule of the DRAM window: outside an escrow window the
page step is on its way to the descriptor's home and ACC is empty; under a window the step is made in the pool at once. Under deterministic
mode without a window they trap DETATOM. -/
def PageInstructions : Prop :=
  ∀ (free : Bool) (n : R3) (s t u : State) (a v : Word) (r : Res), s.c.Reads (.p (n + s.c.stagger)) v → (if free then s.c.Reads .acc a else a = 0) →
    let i : Instr := if free then .pgfree n else .pgalloc n
    let pn := ringAddress (s.c.desc (n + s.c.stagger)) v 0
    let iss := s.c.issuer 5
    let w := t.drain t.c.uid
    let page : Option (BitVec 32) := if free then some (BitVec.ofNat 32 a.toNat) else none
    (s.c.det = true → s.c.esEn = false → exec i s = .next (takeTrap false 0x0D 0 (atomWord i) s.c.pc false s)) ∧
    ((s.c.det = true → s.c.esEn = true) → pn.toNat % 32 = 0 → 0x4000_0000_0000 ≤ pn.toNat → pn.toNat < 0x8000_0000_0000 →
      s.resolve iss pn.toNat .rmw = .ok r → t = s.noteRes iss r → t.c.atomStops < 4 → Released t →
      (s.c.esEn = false → w.capFail iss pn.toNat = none → w.c.Takes .acc → exec i s = .next (retire 2 (awaiting w (.page iss pn page)))) ∧
      (s.c.esEn = true → let step := pageInside iss s.c.esWin.toNat s.c.esPos.toNat pn r page w
        (step = .ok ((), u) → exec i s = .next (retire 2 u)) ∧
        (∀ c x, step = .error (.trap c x 0) → exec i s = .next (takeTrap false c 0 x s.c.pc false s))))

/-- R280, R281, R285: the page instructions, their step in a window, and redirected writes. -/
def Obligations.PageResult : Prop := PageInstructions ∧ PageStep ∧ RedirectRule

/-! ## The Mint, the seed stack, sampling (R177 to R194) -/

/-- The Mint context has a table with a dimension of QDIM's number (R178). -/
def HasPoint (c : Ctx) : Prop := c.mint.table ≠ [] ∧ c.qdim.toNat < c.mint.table.length

/-- QIDX or QDIM moved on by one draw (R183). -/
def drawnOn (da : Bool) (u : State) : State :=
  { u with c := if da then { u.c with qdim := u.c.qdim + 1 } else { u.c with qidx := u.c.qidx + 1 } }

/-- mix(z, i) of R184. -/
def mixing (z i : Word) : Word :=
  let h1 := z + (i + 1) * 0x9E37_79B9_7F4A_7C15#64
  let h2 := (h1 ^^^ w64 (h1.toNat / 2 ^ 30)) * 0xBF58_476D_1CE4_E5B9#64
  let h3 := (h2 ^^^ w64 (h2.toNat / 2 ^ 27)) * 0x94D0_49BB_1331_11EB#64
  h3 ^^^ w64 (h3.toNat / 2 ^ 31)

/-- An odd number of the numbers below n satisfy p. -/
def OddCount (n : Nat) (p : Nat → Bool) : Bool := (((List.range n).filter p).length % 2 == 1)

/-- R179 to R181: a point. Bit b of x is the parity of the direction numbers' bits b that the Gray code of the index, taken modulo 2^32, picks; with SCR = 1 it
is combined with s_d and with the parity of the bits of x above it that row_d(b) picks, both from the mixing function. The formats give the 32 bits,
(y >> 8) * 2^-24 in f32 and (y >> 24) * 2^-8 in bf16, exactly. -/
def PointRule : Prop :=
  (∀ (m : Mint) (d idx b : Nat), (m.table.getD d []).length = 32 → b < 32 →
    let n := idx % 2 ^ 32
    let g := n ^^^ (n / 2)
    let x (b : Nat) : Bool := OddCount 32 fun k => g.testBit k && ((m.table.getD d []).getD k 0).getLsbD b
    let word (j : Nat) : Word := mixing m.skey (w64 (64 * d + j))
    let stream (t : Nat) : Bool := (word (1 + t / 64)).getLsbD (t % 64)
    let row := OddCount (31 - b) fun i => x (b + 1 + i) && stream ((30 - b) * (31 - b) / 2 + i)
    (m.point d idx).getLsbD b = if m.scr then (x b != (word 0).getLsbD b) != row else x b) ∧
  (∀ y : BitVec 32, mintFormat 0 y = y.toNat ∧
    (let a : Nat := y.toNat / 2 ^ 8
     if a = 0 then mintFormat 1 y = 0 else ∃ v, (ETy.f32.value (mintFormat 1 y)).1 = .fin v ∧ Dy.cmp v ⟨(a : Nat), -24⟩ = 0) ∧
    (let a : Nat := y.toNat / 2 ^ 24
     if a = 0 then mintFormat 2 y = 0 else ∃ v, (ETy.bf16.value (mintFormat 2 y)).1 = .fin v ∧ Dy.cmp v ⟨(a : Nat), -8⟩ = 0))

/-- R178, R183: QSEQ completes with the point of (QDIM, QIDX) on its way to ACC in the format named, or stored at the pointer, which then
steps; QIDX or QDIM moves on. QTAB loads the directions of 1 to 64 dimensions and ends scrambling; QSCR scrambles by the top of the seed
stack, its OFF form ends that. -/
def MintInstructions : Prop :=
  ∀ (p : Pre) (n : R3) (da : Bool) (f : BitVec 2) (s t : State) (a v key : Word) (seeds : List Word) (r : Res) (bs : List Byte),
    let point := mintFormat f (s.c.mint.point s.c.qdim.toNat s.c.qidx.toNat)
    let m := s.c.field p 0 (repIndex p s) n
    let d := s.c.desc m
    let ea := ringAddress d v 0
    let width := if f = 2 then 2 else 4
    let iss := s.c.issuer s.c.defscope
    let mint (g : Mint) (u : State) : State := { u with c := { u.c with mint := g } }
    (repLeft p s → HasPoint s.c → s.c.Takes .acc →
      exec (.qseq p da f) s = .next (afterRep true p s (drawnOn da (awaiting s (.fill (w64 point) {} 0))))) ∧
    (repLeft p s → HasPoint s.c → s.c.Reads (.p m) v → ea.toNat % width = 0 → PlainPlace s t iss ea width true r →
      exec (.qseqStore p n da f) s = .next (afterRep true p s (drawnOn da (stepped ⟨.up, n, 0⟩ m d v
        (if r.dram && (t.slow || t.c.storing r.key) then { t with c := { t.c with jobs := t.c.jobs ++ [.store r.key (leBytes width point)] } }
          else t.put iss r (some s.c.uid) (leBytes width point)))))) ∧
    (s.c.Reads .acc a → s.c.Reads (.p (n + s.c.stagger)) v →
      let block := ringAddress (s.c.desc (n + s.c.stagger)) v 0
      1 ≤ a.toNat → a.toNat ≤ 64 → block.toNat % 64 = 0 → block.toNat + 128 * a.toNat ≤ localSize iss →
      loadGranules iss block (4 * a.toNat) s = .ok (bs, t) →
      let number (d k : Nat) : BitVec 32 := BitVec.ofNat 32 (leNat ((bs.drop (128 * d + 4 * k)).take 4))
      exec (.qtab n) s = .next (retire 2 (mint { table := (List.range a.toNat).map fun d => (List.range 32).map (number d), scr := false
                                                 skey := t.c.mint.skey } t))) ∧
    (s.c.seeds = key :: seeds → exec .qscr s = .next (retire 2 (mint { s.c.mint with skey := key, scr := true } s))) ∧
    exec .qscrOff s = .next (retire 2 (mint { s.c.mint with scr := false } s))

/-- R178 to R183: the Mint's instructions and its points. -/
def Obligations.MintResult : Prop := MintInstructions ∧ PointRule

/-- R184, R186: SPUSH, SPOP, SFORK and SPEEK complete on a stack that has the room or the entries: ACC is pushed, the top is popped into
ACC, the mix of the top and ACC is pushed, entry n from the top is read. Otherwise they trap SEEDSTK with the depth and the form, and the
stack stays. -/
def Obligations.SeedStackResult : Prop :=
  ∀ (n : BitVec 4) (s : State) (a top : Word) (rest : List Word),
    let seeds (l : List Word) (u : State) : State := { u with c := { u.c with seeds := l } }
    let traps (i : Instr) (form : Nat) : Prop :=
      exec i s = .next (takeTrap false 0x10 0 (w64 (s.c.seeds.length * 256 + form)) s.c.pc false s)
    (s.c.Reads .acc a → s.c.seeds.length < 16 → exec .spush s = .next (retire 2 (seeds (a :: s.c.seeds) s))) ∧
    (s.c.Reads .acc a → 16 ≤ s.c.seeds.length → traps .spush 1) ∧
    (s.c.Takes .acc → s.c.seeds = top :: rest → exec .spop s = .next (retire 2 ((seeds rest s).withReg .acc top))) ∧
    (s.c.seeds = [] → traps .spop 2) ∧
    (s.c.Reads .acc a → s.c.seeds = top :: rest → s.c.seeds.length < 16 → exec .sfork s = .next (retire 2 (seeds (mixing top a :: top :: rest) s))) ∧
    (s.c.Reads .acc a → s.c.seeds = [] ∨ 16 ≤ s.c.seeds.length → traps .sfork 3) ∧
    (s.c.Takes .acc → s.c.seeds[n.toNat]? = some top → exec (.speek n) s = .next (retire 2 (s.withReg .acc top))) ∧
    (s.c.seeds.length ≤ n.toNat → traps (.speek n) 4)

/-- v is at least x as real numbers; false where either is a NaN. -/
def atLeast (v x : Val) : Bool :=
  match v, x with
  | .nan, _ | _, .nan => false
  | .inf p, .inf q => !p || q
  | .inf p, _ => !p
  | _, .inf q => q
  | a, b => decide (0 ≤ Dy.cmp a.dy b.dy)

/-- The value of an f32 code. -/
def single (code : Nat) : Val := (ETy.f32.value (code % 2 ^ 32)).1

/-- The slice sum A under a threshold: the sum of R142 in f32 by RNE over the elements at least as large, the others counting as +0. -/
def sliceSum (th : Val) (vals : List Val) : Nat := (rowSum .f32 {} (fun _ => 0) (vals.map fun v => if atLeast v th then v else .zero false)).1

/-- R187, R189, R190, R194: MSUM, TSRCH and TFIND over the values of a slice. MSUM gives the number of elements at or above the threshold and their
sum. TSRCH leaves in STHR 0 or a code whose sum reaches the target, within SLIM halvings of one above that does not, and MSUM's word under it. TFIND
gives all ones where every term is zero, otherwise a place whose term is not: in the first group whose running sum exceeds the remainder, the first
place at which the group's exact prefix sum exceeds what the groups before leave of it. -/
def SliceRules : Prop :=
  ∀ (e : VEntry) (s : State) (vals : List Val),
    let out := sampleRun s e vals
    let word (c : Nat) : Word := w64 ((vals.filter fun v => atLeast v (single c)).length % 2 ^ 32 * 2 ^ 32 + sliceSum (single c) vals)
    (e.op = .msum → out.s = s ∧ out.acc = some (word s.c.sthr.toNat)) ∧
    ((e.op = .msum ∨ e.op = .tfind) → .nan ∈ vals → out.ff.getLsbD 4 = true) ∧
    (e.op = .tsrch → ∃ lo, lo < 0x7F80_0000 ∧ out.acc = some (word lo) ∧ out.s = { s with c := { s.c with sthr := BitVec.ofNat 32 lo } } ∧
      let target := single e.acc.toNat
      let enough (c : Nat) : Prop := atLeast (single (sliceSum (single c) vals)) target = true
      match target with
      | .fin d => (d.m < 0 → lo = 0) ∧ (0 < d.m → (lo = 0 ∨ enough lo) ∧
          ∃ hi, lo < hi ∧ (hi = 0x7F80_0000 ∨ ¬ enough hi) ∧ hi - lo ≤ (0x7F80_0000 + 2 ^ e.slim - 1) / 2 ^ e.slim)
      | .nan => lo = 0 ∧ out.ff.getLsbD 4 = true
      | _ => lo = 0) ∧
    (e.op = .tfind → out.s = s ∧
      let terms := vals.map fun v => if atLeast v (single s.c.sthr.toNat) then v else .zero false
      let counts (j : Nat) : Prop := j < terms.length ∧ ∀ b, terms.getD j .nan ≠ .zero b
      let sums (g : Nat) : Val := single (rowSum .f32 {} (fun _ => 0) (terms.take (16 * g))).1
      ((∀ j, ¬ counts j) → out.acc = some allOnes) ∧
      ((∃ j, counts j) → ∃ j, counts j ∧ out.acc = some (w64 j)) ∧
      (∀ (g j : Nat) (x : Dy), single e.acc.toNat = .fin x → (∀ v ∈ terms, v ≠ .nan ∧ ∀ b, v ≠ .inf b) → 16 * g < terms.length →
        (∀ k, k ≤ g + 1 → sums k ≠ .nan ∧ ∀ b, sums k ≠ .inf b) → Dy.cmp x (sums (g + 1)).dy < 0 →
        (∀ k, k < g → ¬ Dy.cmp x (sums (k + 1)).dy < 0) →
        let left := if g = 0 then x else x.add (sums g).dy.neg
        let upto (k : Nat) : Dy := (((terms.drop (16 * g)).take (k + 1 - 16 * g)).map Val.dy).foldl Dy.add ⟨0, 0⟩
        let here (k : Nat) : Prop := 16 * g ≤ k ∧ k < 16 * g + 16 ∧ counts k
        (here j → Dy.cmp left (upto j) < 0 → (∀ k, k < j → here k → ¬ Dy.cmp left (upto k) < 0) → out.acc = some (w64 j)) ∧
        (here j → (∀ k, here k → k ≤ j ∧ ¬ Dy.cmp left (upto k) < 0) → out.acc = some (w64 j))))

/-- R192: one update of TMASS's climb. At the root TOTAL and DONE are written. Elsewhere a side that has arrived already faults TREE; otherwise the side's
mass and its ARRIVED bit are written, and only where ARRIVED is then exactly 3 the climb goes on, with the sum of both sides rounded to f32. -/
def TreeRule : Prop :=
  ∀ (s s1 s2 s3 : State) (e : VEntry) (k m arr l r : Nat),
    let at_ := e.block.toNat
    (k = 0 → s.treeStrong e.iss (at_ + 4) 8 = .ok s1 → s1.setTreeWord e.iss (at_ + 4) m = .ok s2 → s2.setTreeWord e.iss (at_ + 8) 1 = .ok s3 →
      treeStep s e k m = .ok (s3, none, m, 0)) ∧
    (0 < k → let j := (k - 1) / 2
      let node := at_ + 0x20 + 16 * j
      let side := if k % 2 = 1 then 0 else 1
      s.treeStrong e.iss node 16 = .ok s1 → s1.treeWord e.iss (node + 8) = .ok arr →
      (arr.testBit side = true → treeStep s e k m = .error (.fault 0x31 node)) ∧
      (arr.testBit side = false → s1.setTreeWord e.iss (node + 4 * side) m = .ok s2 → s2.setTreeWord e.iss (node + 8) (arr + 2 ^ side) = .ok s3 →
        (arr + 2 ^ side ≠ 3 → treeStep s e k m = .ok (s3, none, m, 0)) ∧
        (arr + 2 ^ side = 3 → s3.treeWord e.iss node = .ok l → s3.treeWord e.iss (node + 4) = .ok r →
          ∃ ff, treeStep s e k m = .ok (s3, some j, (ETy.f32.conv {} (Val.add .rne (single l) (single r)).1).1, ff))))

/-- R193: the descent from heap position k with the remainder, through the words of the tree block: to the left while the remainder is below LEFT or
RIGHT is +0, otherwise to the right with the rounded difference, until a leaf. -/
inductive Descends (iss : Issuer) (ea : Word) (leaves : Nat) : Nat → Nat → FF → State → Nat → Nat → FF → State → Prop
  | leaf (k rem : Nat) (ff : FF) (u : State) : leaves - 1 ≤ k → Descends iss ea leaves k rem ff u k rem ff u
  | left (k rem l r k' rem' : Nat) (ff ff' : FF) (u u1 u2 t : State) : k < leaves - 1 →
      loadWord4 iss (ea + w64 (0x20 + 16 * k)) u = .ok (l, u1) → loadWord4 iss (ea + w64 (0x20 + 16 * k) + 4) u1 = .ok (r, u2) →
      (single rem).lt (single l) = true ∨ r = 0 → Descends iss ea leaves (2 * k + 1) rem ff u2 k' rem' ff' t →
      Descends iss ea leaves k rem ff u k' rem' ff' t
  | right (k rem l r k' rem' : Nat) (ff ff' : FF) (u u1 u2 t : State) (x : Val × FF) (c : Nat × FF) : k < leaves - 1 →
      loadWord4 iss (ea + w64 (0x20 + 16 * k)) u = .ok (l, u1) → loadWord4 iss (ea + w64 (0x20 + 16 * k) + 4) u1 = .ok (r, u2) →
      (single rem).lt (single l) = false → r ≠ 0 → x = Val.add .rne (single rem) (single l).neg → c = ETy.f32.conv {} x.1 →
      Descends iss ea leaves (2 * k + 2) c.1 (ff ||| (x.2 ||| c.2)) u2 k' rem' ff' t → Descends iss ea leaves k rem ff u k' rem' ff' t

/-- R187 to R193: MSUM, TSRCH, TFIND and TMASS complete at issue with their entry queued and ACC empty, ACC sampled where they use it; TDESC
completes on a tree whose climb is done with the leaf and the remainder of its descent on their way to ACC with the flags of its
roundings, all ones above a zero total and, with IV, for one that is no number, and QIDX moved on. The flags are raised, and FPX is asked for, when
ACC is filled (R110, R151). The traps and waits of TDESC's block, and a LEAVES that no check covers, are log entry 114. -/
def SamplingInstructions : Prop :=
  ∀ (n m : R3) (s t1 t2 t3 : State) (sh : Shape) (acc ea : Word) (pages : List (Nat × Nat)) (bs : List Byte),
    let t := s.drain s.c.uid
    let iss := t.c.issuer t.c.defscope
    let entry (op : VOp) (acc block : Word) (leaves : Nat) (u : State) : VEntry :=
      { op := op, a := some sh, acc := acc, block := block, leaves := leaves, slim := u.c.slim.toNat, traps := u.c.fpCtl.traps
        iss := { u.c.issuer u.c.defscope with xlat := pages } }
    let puts (i : Instr) (e : VEntry) (u : State) : Prop := exec i s = .next (retire 2 (vectorQueued u e 0 true))
    (Released s → sliceRecord m 1 t = .ok (sh, t1) →
      translateShape (t1.c.issuer t1.c.defscope) sh .read sh.ixs t1 = .ok (pages, t2) → VectorRoom t2 → t2.c.Takes .acc →
      puts (.msum m) (entry .msum 0 0 0 t1) t2 ∧
      (t1.c.Reads .acc acc → puts (.tsrch m) (entry .tsrch acc 0 0 t1) t2 ∧ puts (.tfind m) (entry .tfind acc 0 0 t1) t2)) ∧
    (Released s → treeBlock n iss t = .ok (ea, t) → sliceRecord m 1 t = .ok (sh, t1) → t1.c.Reads .acc acc →
      loadBytes iss ea 4 t1 = .ok (bs, t2) → 2 ≤ leNat bs → leNat bs ≤ 64 → acc.toNat < leNat bs → Passes (treeFits iss ea (leNat bs)) t2 →
      translateShape (t2.c.issuer t2.c.defscope) sh .read sh.ixs t2 = .ok (pages, t3) → VectorRoom t3 → t3.c.Takes .acc →
      puts (.tmass n m) (entry .tmass acc ea (leNat bs) t2) t3) ∧
    (∀ (total leaves k rem : Nat) (ff : FF) (t4 : State),
      let at_ := s.c.issuer 5
      let u : State := { t3 with c := { t3.c with acc := { t3.c.acc with full := false }, qidx := t3.c.qidx + 1 } }
      let x := (single (mintFormat 1 (s.c.mint.point s.c.qdim.toNat s.c.qidx.toNat))).mul (single total)
      let share := ETy.f32.conv {} x.1
      let gives (v : Word) (ff : FF) (w : State) : Prop :=
        exec (.tdesc n) s = .next (retire 2 { w with c := { w.c with jobs := w.c.jobs ++ [.leaf v ff s.c.fpCtl.traps s.c.pc s.next] } })
      HasPoint s.c → treeBlock n at_ s = .ok (ea, s) → loadWord4 at_ (ea + 8) s = .ok (1, t1) → loadWord4 at_ (ea + 4) t1 = .ok (total, t2) →
      loadWord4 at_ ea t2 = .ok (leaves, t3) → t3.c.Takes .acc →
      (total = 0 → gives 0xFFFF_FFFF_0000_0000#64 0 u) ∧
      (total ≠ 0 → single total = .nan ∨ (∃ b, single total = .inf b) → gives 0xFFFF_FFFF_0000_0000#64 0b010000 u) ∧
      (total ≠ 0 → single total ≠ .nan → (∀ b, single total ≠ .inf b) → leaves < 2 ^ 32 →
        Descends at_ ea leaves 0 share.1 (x.2 ||| share.2) u k rem ff t4 → gives (w64 ((k - (leaves - 1)) * 2 ^ 32 + rem)) ff t4))

/-- R187 to R194: the sampling instructions at issue, and what their entries compute. -/
def Obligations.SamplingIssue : Prop := SamplingInstructions ∧ SliceRules ∧ TreeRule

/-! ## Launches, ranks, task queues, capabilities (R198 to R203, R289 to R298, R325, R326) -/

/-- R289, R290, R295, R325, R403: LAUNCH completes when its record is readable and in order and its queue has room: the record is queued
with the tenant and the seed stack it makes; on a dispatch core a tag that was launched before has no other effect. That the registered
graph-control record is queued at priority 6 with the launch right, whatever it holds itself, is the model's reading (log entry 124), and
so is that a dispatch core's LAUNCH is for its selected tenant (log entry 61). -/
def Obligations.LaunchResult : Prop :=
  ∀ (n : R3) (s t : State) (ea tag : Word) (v : Word) (bs : List Byte) (seeds : List Word),
    let iss := s.c.issuer s.c.defscope
    let lrec := if s.isGraph ea then { parseLaunch bs with prio := 6, lr := true } else parseLaunch bs
    let w := t.drain t.c.uid
    let queued (tenant : Nat) (root : Option Word) : State := { w with next := w.next + 1 }.enqueue
      { num := w.next, lrec := lrec, tenant := tenant, seeds := seeds, enq := w.cyc, root := root }
    let ok : Prop := launchAddr n s = .ok (ea, s) ∧ loadGranules iss ea 2 s = .ok (bs, t) ∧ badLaunch s bs lrec s.c.prv s.c.mayLaunch = none ∧
      seedOps lrec.seedv lrec.seedops s.c.seeds = .ok seeds ∧ (s.queueOf lrec).length < 64 ∧ Released t
    (s.c.isDisp = false → ok → exec (.launch n) s = .next (retire 2 (queued w.c.tenant none))) ∧
    (s.c.isDisp = true → s.c.Reads (.p (n + s.c.stagger)) v → s.c.Reads .acc tag →
      (tag ≠ 0 → tag ∈ s.launchTags → exec (.launch n) s = .next (retire 2 s)) ∧
      ((tag = 0 ∨ tag ∉ s.launchTags) → ok →
        let u := queued w.tid (some (recordPa w ea))
        let tags := u.launchTags ++ [tag]
        exec (.launch n) s = .next (retire 2 (if tag = 0 then u else { u with launchTags := tags.drop (tags.length - 256) }))))

/-- R198, R199, R203, R326: DQREQ completes with its request, of the quantum in which it retires, on the way and ACC empty (the queue of the
launch in the district is made by the first); RANKQ.SELF completes with RANK and COORD, RANKQ.COORD and RANKQ.LOAD with their answer on the way; ENDORSE completes, when the
context holds the region and its writes there are over, with the region's holder changed and a handover under way. -/
def Obligations.TaskQueueAndRank : Prop :=
  ∀ (s : State) (a : Word) (r : CapRegion) (e : RankEntry),
    let d := s.c.dist
    let q0 : TaskQueue := { launch := s.c.launch, closed := (minOf (s.quanta d s.c.launch)).getD 0 }
    let t := if (s.taskQueue d s.c.launch).isSome then s else s.setDistrict d { s.district d with dq := (s.district d).dq ++ [q0] }
    let w := s.drain s.c.uid
    let h := coreCode e.tile (bit a 8)
    (s.c.Reads .acc a → ((s.taskQueue d s.c.launch).isSome ∨ (s.district d).dq.length < 8) →
      ∀ (i : Instr) (op : Nat), (i, op) ∈ [(Instr.dqreqPush, 0), (.dqreqPop, 1), (.dqreqCnt, 2)] →
      exec i s = .next (retire 2 (awaiting t.rejoin (.dqreq op a (if s.c.det then t.rejoin.c.retired / s.c.quantum else 0))))) ∧
    (s.c.Takes .acc → exec .rankqSelf s = .next (retire 2 (s.withReg .acc (w64 (s.c.rank % 65536 * 2 ^ 48 + s.c.coord % 2 ^ 48))))) ∧
    (s.c.Reads .acc a → exec .rankqCoord s = .next (retire 2 (awaiting s (.fill (rankCoord s (a.toNat % 65536)) {} 0)))) ∧
    (∀ l, s.c.loc = some l → s.c.Takes .acc → exec .rankqLoad s = .next (retire 2 (awaiting s (.fill (s.dload l.arr l.dist) {} 0)))) ∧
    (s.c.Reads .acc a → s.region s.c.tenant (bits a 7 0) = some r → bit r.flags 7 = false → some r.holder = s.c.place.code →
      bits a 31 16 < s.c.nrank → ((s.launchOf s.c.launch).bind fun l => l.ranks[bits a 31 16]?) = some e → s.writesInto s.c r = false →
      Released s → exec .endorse s = .next (retire 2
        (if h = r.holder then w else (w.setHolder r fun c => { c with holder := h, moving := some h }).tableHolder r h)))

/-! ## The end of a strand, YIELD (R311, R312) -/

/-- The strand has nothing under way that HALT waits for, no store that an engine or a lease holds up, and nothing to report of its engine
commands; a vote's BARRIER may still be due (R311, R322). -/
def Over (s : State) : Prop :=
  s.c.reports = [] ∧ (∀ b ∈ s.c.barReps, b.ch = none) ∧ s.hasCmd s.c.uid = false ∧ s.c.vq = [] ∧ s.c.mq = [] ∧ s.storesHeld s.c = false ∧
    ∀ j ∈ s.c.jobs, match j with
      | .atomic _ | .atomicDone .. | .atomicRefused .. | .square _ | .dqreq .. | .stash .. => False
      | _ => True

/-- A context as it goes on on its core: under deterministic mode with the count of instructions of its task's core, the highest of its
contexts' (R198, R200; that the count passes at a swap is log entry 64). -/
def withCount (s : State) (c : Ctx) : Ctx :=
  if c.det = true then { c with
    retired := ((s.ctxs.filter fun x => x.kind = .task ∧ c.kind = .task ∧ x.task = c.task ∧ x.isIc = c.isIc).map fun x => x.retired).foldl
      Max.max c.retired }
  else c

/-- R311, R304, R312: HALT completes when nothing that it waits for is under way: the strand's stores are performed, the strand is halted and its core
takes the next context; the retaining form hands ACC's token on, on a reason tile and unless it is 0. While an engine command is under
way HALT waits. YIELD completes; a tile task's context parks when another of its core role is parked, the longest parked one entering its
bank. -/
def Obligations.HaltYield : Prop :=
  ∀ (s : State) (a : Word) (t : Loc) (ic : Bool) (n : Ctx),
    let w := s.drain s.c.uid
    let ends (tok : Option Word) : Out := .next (({ w with c := w.c.advance 1 } : State).endStrand s.c.uid tok)
    (Over s → exec .halt s = ends none ∧ (∀ u, exec .halt s = .next u → (u.ctxOf s.c.uid).all (fun c => c.halted) = true) ∧
      (s.c.onReflex = true ∨ s.c.isGuest = true → exec .haltRetain s = ends none) ∧
      (s.c.onReflex = false → s.c.isGuest = false → s.c.Reads .acc a →
        exec .haltRetain s = ends (if a = 0 then none else some a))) ∧
    (s.c.reports = [] → (∀ b ∈ s.c.barReps, b.ch = none) → s.hasCmd s.c.uid = true → exec .halt s = .next (stall none .absent s)) ∧
    (s.c.place = .tile t ic → s.c.kind = .task → (retire 1 s).longestParked t ic = none → exec .yield s = .next (retire 1 s)) ∧
    (s.c.kind ≠ .task ∨ s.c.isDisp = true → exec .yield s = .next (retire 1 s)) ∧
    (s.c.place = .tile t ic → s.c.kind = .task → (retire 1 s).longestParked t ic = some n → n.uid ≠ s.c.uid →
      exec .yield s = .next { retire 1 s with
        c := { (retire 1 s).c.loseMonitor with role := .parked s.cyc }
        others := s.others.map fun c => if c.uid = n.uid then { withCount (retire 1 s) c with role := .active, bankIx := s.c.bankIx } else c })

/-! ## Control registers (R17, R25, R28 to R43, R370, R371) -/

/-- An access to a control register that the level and the core allow, and that waits for nothing (R25, R28, R110, R114, R187, R371). -/
def CsrOpen (s : State) (n : Nat) (r : CsrReg) : Prop :=
  CsrReg.ofNum n = some r ∧ csrLevel n ≤ s.c.prv.code ∧ (n = 0x207 → s.c.isDisp = true) ∧ match r with
    | .fflags => s.c.vq = [] ∧ s.c.mq = []
    | .sthr => ∀ e ∈ s.c.vq, e.op ≠ .msum ∧ e.op ≠ .tsrch ∧ e.op ≠ .tmass ∧ e.op ≠ .tfind
    | .status => s.c.Settled ⟨true, true, true, true⟩
    | _ => True

/-- The tiles that a write of TENANT gives away have been swept for their 1,152 cycles (R365). -/
def Swept (s : State) (r : CsrReg) (v : Word) : Prop :=
  r = .tenant → ∀ t ∈ s.sweptTiles v, ∃ c, (s.tile t).sweptFrom = some c ∧ c + 1152 ≤ s.cyc

/-- Registers of the context, and what a read gives after a write of `v` (R30 to R37, R41, R42, R267, R278, R357, R417): the low bits of
`v`, those under a mask, or those of its fields, FCTL's RM kept for 110 and 111, MGEO0's zero bytes stored as 1, IPEND's PEND bits cleared by
ones, and a PRV of TSTAT above the writer's lowered to it. -/
def contextRegs (s : State) (v : Word) : List (CsrReg × Word) :=
  let low (n : Nat) : Word := w64 (v.toNat % 2 ^ n)
  let mask (m : Nat) : Word := v &&& w64 m
  let part (hi lo : Nat) : Nat := bits v hi lo * 2 ^ lo
  let prv : Nat := if (bits v 9 8 = 1 ∧ s.c.prv = .u) ∨ (bits v 9 8 = 3 ∧ s.c.prv ≠ .m) then s.c.prv.code else bits v 9 8
  let max1 (lo : Nat) : Nat := Max.max 1 (bits v (lo + 7) lo) * 2 ^ lo
  (List.range 8).flatMap (fun i =>
    [(.pbase (BitVec.ofNat 3 i), v), (.pspan (BitVec.ofNat 3 i), w64 (v.toNat % 2 ^ 32 / 32 * 32)), (.pstep (BitVec.ofNat 3 i), low 32),
     (.ptype (BitVec.ofNat 3 i), low 6)]) ++
  [(.fflags, low 6), (.fepol, low 17), (.genpol, low 1), (.defscope, if v.toNat % 8 = 7 then w64 s.c.defscope.toNat else low 3),
   (.mfmt, mask 0x73F3F), (.mscla, mask 0x80FF), (.msclb, mask 0x80FF), (.mgeo1, mask 0xFFFFFF), (.msat, mask 7), (.msclo, mask 0xFF),
   (.sthr, low 32), (.slim, if v.toNat % 64 = 0 then 1 else low 6), (.vocabn, low 32), (.vocabp, low 32), (.qdim, low 6), (.qidx, low 32),
   (.qsrd, low 6), (.tvec, w64 (v.toNat / 2 * 2)), (.tpc, w64 (v.toNat / 2 * 2)), (.tscratch, v), (.evxsel, mask 0x1EF1F),
   (.esrsel, mask 0x7F), (.sqsel, mask 0x103FF), (.chsel, mask 0x1FC07), (.fpsel, mask 0x1F),
   (.fctl, w64 (part 13 12 + part 8 4 + if 6 ≤ bits v 2 0 then s.c.fctl.toNat % 8 else bits v 2 0)),
   (.mgeo0, w64 (max1 16 + max1 8 + max1 0)), (.ien, w64 (part 63 63 + bits v 4 0)),
   (.ipend, (w64 s.c.ipend.toNat &&& ~~~v &&& 0x1E) ||| low 1),
   (.tstat, mask 0xF3FFFFFFFFFFFCFF ||| w64 (prv * 2 ^ 8))]

/-- R370, R371: CSRR, CSRW, CSRS and CSRC complete on every register that the level and the core allow: CSRR and the read-modify-writes
put the old value into ACC, the writes store ACC, the old value with ACC's bits set, or with them cleared, W1C fields being touched by ACC's ones
of CSRC only. The context's registers then read back as their fields store (R30 to R37, R41, R42, R267, R278, R329, R357, R417), and VSHARE, which
the core's banks share, as 1 to 15 (R38). An unassigned number is ILLEGAL (R28 and R49, WHY 8), DSIG on a tile ILLEGAL (R438, WHY 6), too low
a level PRIV with the number (R25). -/
def Obligations.CsrResult : Prop :=
  ∀ (p : Pre) (f : BitVec 9) (s t : State) (a : Word) (r : CsrReg),
    let n := widenU f p.imm
    let old := s.csrRead r
    let u := s.withReg .acc old
    let set := (old ||| a) &&& ~~~(s.w1c r)
    let clear := (old &&& ~~~a &&& ~~~(s.w1c r)) ||| (a &&& s.w1c r)
    let all : List (Pre → BitVec 9 → Instr) := [.csrr, .csrw, .csrs, .csrc]
    (CsrOpen s n r → s.c.Takes .acc → exec (.csrr p f) s = .next (retire (p.len true) u)) ∧
    (CsrOpen s n r → s.c.Reads .acc a →
      (Swept s r a → s.csrWrite r a = some t → exec (.csrw p f) s = .next (retire (p.len true) t)) ∧
      (Swept s r set → u.csrWrite r set = some t → exec (.csrs p f) s = .next (retire (p.len true) t)) ∧
      (Swept s r clear → u.csrWrite r clear = some t → exec (.csrc p f) s = .next (retire (p.len true) t))) ∧
    (∀ x ∈ contextRegs s a, ∃ w, s.csrWrite x.1 a = some w ∧ w.csrRead x.1 = x.2 ∧ w.mem = s.mem ∧ w.others = s.others) ∧
    ((∀ l ic, s.c.place = .tile l ic → l.idx < s.tiles.length) → ∃ w, s.csrWrite .vshare a = some w ∧
      w.csrRead .vshare = w64 (Max.max 1 (bits a 3 0)) ∧ w.mem = s.mem ∧ w.c = s.c ∧ w.others = s.others) ∧
    (CsrReg.ofNum n = none → ∀ mk ∈ all, exec (mk p f) s =
      .next (takeTrap false 0x01 0 (w64 (8 * 2 ^ 24 + (p.len true - 1) * 2 ^ 16 + n % 2 ^ 16)) s.c.pc false s)) ∧
    (n = 0x207 → s.c.isDisp = false → ∀ mk ∈ all, exec (mk p f) s =
      .next (takeTrap false 0x01 0 (w64 (6 * 2 ^ 24 + (p.len true - 1) * 2 ^ 16 + n % 2 ^ 16)) s.c.pc false s)) ∧
    (CsrReg.ofNum n = some r → (n = 0x207 → s.c.isDisp = true) → s.c.prv.code < csrLevel n → ∀ mk ∈ all, exec (mk p f) s =
      .next (takeTrap false 0x02 0 (w64 (n % 2 ^ 12 * 2 ^ 16 + ((encode (mk p f)).getLastD 0).toNat)) s.c.pc false s))

/-! ## Generations, banks, seizure (R26, R335 to R338, R362, R364, R367 to R369) -/

/-- R364, R362: GENNEW and GENNEW.KEEP complete when the tile's counter can hand out a value: one that is not in use becomes GEN and fills ACC, tagged
with itself; the KEEP form shifts the old GEN into GENRD. GENSET completes with values that the context or its partner holds (any at M). -/
def GenerationResult : Prop :=
  ∀ (s w : State) (t : Loc) (v g : Gen) (a : Word), s.c.prv ≠ .u → s.c.isGuest = false →
    let r (i : Nat) : Gen := BitVec.ofNat 10 (a.toNat / 2 ^ (10 * i))
    let gens (g : Gen) (l : Vector Gen 3) (u : State) : State := { u with c := { u.c with gen := g, genrd := l } }
    (s.c.loc = some t → s.takeGen t = some (v, w) → s.c.Takes .acc →
      v ≠ 0 ∧ s.genInUse t v = false ∧
      exec .gennew s = .next (retire 2 ((gens v s.c.genrd w).withReg .acc (w64 v.toNat)).recheckOwn) ∧
      exec .gennewKeep s =
        .next (retire 2 ((gens v #v[s.c.gen, s.c.genrd[0], s.c.genrd[1]] w).withReg .acc (w64 v.toNat)).recheckOwn)) ∧
    (s.c.Reads .acc a → g = BitVec.ofNat 10 (a.toNat / 2 ^ 30) →
      (s.c.prv = .m ∨ (g ≠ 0 ∧ g ∈ s.genAllowed ∧ ∀ i, i < 3 → r i = 0 ∨ r i ∈ s.genAllowed) →
        exec .genset s = .next (retire 2 (gens g #v[r 0, r 1, r 2] s).recheckOwn)) ∧
      (s.c.prv = .s → g = 0 ∨ g ∉ s.genAllowed → exec .genset s = .next (takeTrap false 0x06 0 a s.c.pc false s)))

/-- The instructions on banks are allowed here: a reason tile that is not armed for seizure, nor open to it unless for storing (R367). -/
def BanksHere (s : State) (store : Bool) (t : Loc) (ic : Bool) : Prop :=
  s.c.prv ≠ .u ∧ s.c.place = .tile t ic ∧ t.arr = false ∧ s.c.isGuest = false ∧ (s.tile t).arming = none ∧
    (store = false → s.seizable t = false)

/-- A block of `size` bytes at the address that a pointer's value gives (R19, R368). -/
def BlockAt (s : State) (n : R3) (size : Nat) (dram : Bool) (pn a : Word) : Prop :=
  s.c.Reads (.p (n + s.c.stagger)) pn ∧ a = ringAddress (s.c.desc (n + s.c.stagger)) pn 0 ∧ a.toNat % 64 = 0 ∧
    let w := s.window (s.c.issuer 1) a.toNat (a.toNat + size - 1)
    w = some .own ∨ (dram = true ∧ w = some .dram)

/-- R367, R368, R369, R26: BANKSW completes and the shadow context goes on as the active one, under deterministic mode with its
core's count of instructions (log entry 64), the other waiting in the shadow bank.
SHST completes, the
active context's vector queue being empty (log entry 103), with the shadow context's block stored and the context off the tile; SHLD completes with a context that was saved there
unchanged back in the empty shadow bank, or with its copy where that context has come back before or is gone, and traps ACCESS on any other
block, with the pointer's value in TVAL (log entry 103); SHLD.IMG completes with a new context of the task from its image, and traps ACCESS on an image that is in no order. -/
def BankResult : Prop :=
  ∀ (n : R3) (s u : State) (t : Loc) (ic : Bool) (h : Ctx) (pn a : Word) (bs : List Byte) (v : Saved) (im : Image) (rest : List Ctx),
    let denied (i : Instr) : Prop := exec i s = .next (takeTrap false 0x06 0 pn s.c.pc false s)
    let bytes : List Byte := opaqueAt s.blockKey 0x4000
    (BanksHere s false t ic → s.shadowOf t ic = some h → s.c.role = .active → h.uid ≠ s.c.uid →
      (∀ x ∈ s.others, x.uid = h.uid → x = h) →
      ∃ w n, exec .banksw s = .next w ∧ w.c = { h with role := .active, retired := n } ∧
        (∃ o ∈ w.others, o.uid = s.c.uid ∧ o.role = .shadow) ∧ (h.det = false → n = h.retired) ∧
        (h.det = true → h.retired ≤ n ∧ (∀ o ∈ w.others, o.sameCore h = true → o.retired ≤ n) ∧
          (n = h.retired ∨ ∃ o ∈ w.others, o.sameCore h = true ∧ o.retired = n)) ∧ w.mem = s.mem ∧ w.tiles = s.tiles) ∧
    (BanksHere s true t ic → s.shadowOf t ic = some h → h.awaits = false → s.c.vq = [] → s.storesHeld s.c = false → s.storesHeld h = false →
      BlockAt s n 0x4000 true pn a → storeGranules (s.c.issuer 1) a bytes 512 s = .ok ((), u) →
      let w := (u.drain u.c.uid).drain h.uid
      let x := w.updCtx h.uid fun c => { c.loseMonitor with role := .off }
      let kept : Saved := { key := a.toNat, bytes := bytes, tenant := x.c.tenant, tile := t, task := x.c.task
                            ctxs := [(x.ctxOf h.uid).getD h] }
      exec (.shst n) s = .next (retire 2 (({ x with saved := x.saved ++ [kept], steps := x.steps + 1 } : State).recheck t))) ∧
    (BanksHere s false t ic → s.shadowOf t ic = none → BlockAt s n 0x4000 true pn a → loadGranules (s.c.issuer 1) a 512 s = .ok (bs, u) →
      let mine (x : Saved) : Bool := x.bytes = bs && x.tenant = u.c.tenant && x.tile = t && x.task = u.c.task
      let back (c : Ctx) : Ctx := { c with role := .shadow, place := .tile t ic, bankIx := u.freeBank t ic }
      let gives (w : State) : Prop := exec (.shld n) s = .next (retire 2 (w.recheck t))
      ((∀ x ∈ u.saved, mine x = false) → denied (.shld n)) ∧
      (u.saved.reverse.find? mine = some v → v.ctxs = h :: rest →
        (∀ c, u.ctxOf h.uid = some c → c.role = .off → c.halted = false → gives (u.updCtx h.uid back)) ∧
        (∀ c, u.ctxOf h.uid = some c → c.role ≠ .off ∨ c.halted = true →
          gives { u.addCtx (back { h with uid := u.next }) with next := u.next + 1 }) ∧
        (u.ctxOf h.uid = none → gives (u.addCtx (back h))))) ∧
    (BanksHere s false t ic → s.shadowOf t ic = none → BlockAt s n 256 false pn a → loadGranules (s.c.issuer 1) a 8 s = .ok (bs, u) →
      (parseImage bs = none → denied (.shldImg n)) ∧
      (parseImage bs = some im →
      let k : Ctx := { (u.c.ofTask u.next).loadImage im with
        role := .shadow, bankIx := u.freeBank t ic, pc := im.pc, genrd := Vector.replicate 3 0, prv := if im.sup then .s else .u }
      exec (.shldImg n) s = .next (retire 2 { u.addCtx k with next := u.next + 1 })))

/-- R335, R336, R337, R338: SEIZE, SEIZE.ARM and RELEASE complete for a context of the reflex array that SEIZECFG names, on tiles that it
names. SEIZE's ACC waits for the messages of its mask, RELEASE's for the tiles that its launch has seized, which are being released;
SEIZE.ARM arms the tiles of its mask that are neither seized nor held and whose shadow banks hold no context, and fills ACC with them. That
it leaves out tiles whose cores are out of service, arms a tile in its re-arm, and answers 0 for images that are in no order is log entry 66. Elsewhere, for another tenant and on other
tiles they trap ACCESS. -/
def SeizeResult : Prop :=
  ∀ (n : R3) (s t u : State) (m a : Word) (bs : List Byte) (sc ic : Image), s.c.prv ≠ .u →
    s.c.Reads (.k n) m →
    let here : Prop := s.c.onReflex = true ∧ s.c.isGuest = false
    let named : Prop := here ∧ bit s.seizecfg 63 = true ∧ bits s.seizecfg 55 52 = s.c.tenant ∧
      ∀ i, i < 64 → m.getLsbD i = true → i < 48 ∧ s.seizecfg.getLsbD i = true
    let mine := maskOf (fun t => (s.tile t).seizedBy = some s.c.launch) m
    let free (t : State) : Word := maskOf (fun l => t.hasTile l && t.inService l && (t.tile l).seizedBy.isNone &&
      (t.tile l).held.isNone && !t.shadowed l) m
    let denied (i : Instr) (v : Word) : Prop := exec i s = .next (takeTrap false 0x06 0 v s.c.pc false s)
    (named → s.c.Takes .acc → exec (.seize n) s = .next (retire 2 (awaiting s (.seize false false m 0 0)))) ∧
    (here → s.c.Takes .acc → exec (.release n) s = .next (retire 2 ((maskTiles mine).foldl
      (fun u t => u.setTile t { u.tile t with releasing := true }) (awaiting s (.seize false true mine 0 0))))) ∧
    (named → s.c.Reads .acc a → a.toNat % 64 = 0 → a.toNat + 512 ≤ localSize (s.c.issuer 0) →
      hardwareRead a.toNat 16 s = .ok (bs, t) →
      (parseImage (bs.take 256) = some sc → parseImage (bs.drop 256) = some ic → armTiles sc ic (maskTiles (free t)) t = .ok ((), u) →
        u.c.Takes .acc → exec (.seizeArm n) s = .next (retire 2 (awaiting u (.fill (free t) {} 0)))) ∧
      (parseImage (bs.take 256) = none ∨ parseImage (bs.drop 256) = none → t.c.Takes .acc →
        exec (.seizeArm n) s = .next (retire 2 (awaiting t (.fill 0 {} 0))))) ∧
    (¬ here → denied (.release n) 0) ∧
    (¬ named →
      let v : Word := if here ∧ bit s.seizecfg 63 = true ∧ bits s.seizecfg 55 52 = s.c.tenant then
        w64 ((lowestOutside m.toNat (bits s.seizecfg 47 0)).getD 0) else 0
      denied (.seize n) v ∧ (s.c.Reads .acc a → denied (.seizeArm n) v))

/-- R26, R335 to R338, R364, R367 to R369: the supervisor instructions on generations, banks and seized tiles. -/
def Obligations.SupervisorResult : Prop := GenerationResult ∧ BankResult ∧ SeizeResult

/-! ## The debugger, TLBs, the journal, recovery (R356, R366, R390 to R402, R343 to R347) -/

/-- A debugger's address in a pointer, and the granule that it finds with no unit in the way (R366). -/
structure DebugAt (s : State) (n : R3) (write : Bool) (a : Word) (r : Res) : Prop where
  found : s.c.Reads (.p (n + s.c.stagger)) a ∧
    let t : Loc := ⟨bit a 28, bits a 27 25, bits a 24 22⟩
    let off := a.toNat % 2 ^ 22
    s.hasTile t = true ∧ off < tileSize t ∧ off % 8 = 0 ∧ r = { key := tileKey t off, gran := true, far := decide (s.c.loc ≠ some t) }
  calm : (s.acquires s.c || s.unitHazard s.c r.key 8 || s.pendingAt s.c r.key || s.busy (r.key / 32) write) = false

/-- R366, R435: at M, DBGRD completes with the 8 bytes in ACC when the granule has the generation given, otherwise with 0, and Z says which; DBGRD.TAG
completes with the granule's tag and bit; DBGWR completes with ACC stored under the generation given, and the bit set as given. R435: with bit 11
of Pq it stores under the generation of the tile's current arming, and traps ACCESS where the tile is not armed. A read of another tile may be
late. -/
def DebugResult : Prop :=
  ∀ (n q : R3) (s : State) (g a pn : Word) (r : Res), s.c.prv = .m → s.c.Reads (.p (q + s.c.stagger)) g →
    let x := s.gran (r.key / 32)
    let hit := decide (x.tag.toNat = g.toNat % 1024)
    let v : Word := if hit then w64 (leNat (Mem.bytes s.mem r.key 8)) else 0
    let tagWord := w64 (b2n x.full * 1024 + x.tag.toNat)
    let late : Bool := s.slow && r.far
    (DebugAt s n false pn r → s.c.Takes .acc →
      (late = false → exec (.dbgrdTag n q) s = .next (retire 2 (s.withReg .acc tagWord))) ∧
      (late = true → ∃ u, exec (.dbgrdTag n q) s = .next u ∧ u.c.acc.full = false ∧ u.c.jobs = s.c.jobs ++ [.fill tagWord {} 0] ∧ u.mem = s.mem) ∧
      (s.c.Settled ⟨false, true, false, false⟩ →
        (late = false → exec (.dbgrd n q) s = .next (retire 2 ((s.withFlags { s.c.flags with z := hit }).withReg .acc v))) ∧
        (late = true → ∃ u, exec (.dbgrd n q) s = .next u ∧ u.c.acc.full = false ∧ u.c.pend.z = true ∧
          u.c.jobs = s.c.jobs ++ [.fill v { z := some hit } 0] ∧ u.mem = s.mem))) ∧
    (DebugAt s n true pn r → s.c.Reads .acc a →
      let writes (v : Gen) : Prop := exec (.dbgwr n q) s = .next (retire 2 ((s.put { s.c.issuer 5 with gen := v, esc := none } r (some s.c.uid)
        (leBytes 8 a.toNat)).setFull (r.key / 32) v (some s.c.uid) (bit g 10)))
      let armed := (s.tile ⟨bit pn 28, bits pn 27 25, bits pn 24 22⟩).arming
      (bit g 11 = false → writes (BitVec.ofNat 10 g.toNat)) ∧ (bit g 11 = true → (∀ x, armed = some x → writes x.gen) ∧
        (armed = none → exec (.dbgwr n q) s = .next (takeTrap false 0x06 0 pn s.c.pc false s))))

/-- R356: TLBINV.VA, TLBINV.TEN (at S and M) and TLBINV.ALL (at M) complete once the context's atomics and page operations are over and no
engine or lease holds up its stores, which are performed: no TLB of a tile or district in the scope holds an entry for the tenant's address, for the tenant, or any entry. -/
def TlbinvResult : Prop :=
  ∀ (x : R3) (s : State) (a : Word), s.storesHeld s.c = false → (∀ j ∈ s.c.jobs, match j with
      | .atomic _ | .page .. => False
      | _ => True) →
    let within (d : Nat) : Prop := s.c.isDisp = true ∨ x = 5 ∨ (x = 4 ∧ (s.c.onReflex = true ↔ 6 ≤ d)) ∨ (x ≠ 4 ∧ d = s.c.dist)
    let gone (i : Instr) (p : Nat × Nat × Nat × Nat → Prop) : Prop := ∃ u, exec i s = .next u ∧ u.mem = (s.drain s.c.uid).mem ∧
      u.c.pc = (s.c.advance 2).pc ∧
      (∀ k (t : Tile), u.tiles[k]? = some t → within (distIdx (Loc.ofIdx k).arr (Loc.ofIdx k).dist) → ∀ e ∈ t.tlb, ¬ p e) ∧
      (∀ k (d : District), u.districts[k]? = some d → within k → ∀ e ∈ d.tlb, ¬ p e)
    let page := (a.toNat - 0x4000_0000_0000) / 4096
    (s.c.prv ≠ .u → s.c.Reads .acc a → 0x4000_0000_0000 ≤ a.toNat → a.toNat < 0x8000_0000_0000 →
      gone (.tlbinvVa x) fun e => e.1 = s.csrTenant ∧ e.2.1 ≤ page ∧ page < e.2.1 + e.2.2.1) ∧
    (s.c.prv ≠ .u → gone (.tlbinvTen x) fun e => e.1 = s.csrTenant) ∧
    (s.c.prv = .m → gone (.tlbinvAll x) fun _ => True)

/-- R356, R366, R435: the debugger's instructions and TLBINV. -/
def Obligations.DebugAndTlb : Prop := DebugResult ∧ TlbinvResult

/-- R401, R343, R347, R402: at M, JRNL completes with 56 bytes of local memory as the next record and its number on the way to ACC; PREEMPT and
RESUME complete with their order under way and ACC empty; the kick scans complete with the next pending queue, all of them, or the oldest
completion on its way to ACC, which they take from what is pending when they execute (log entry 99). -/
def FirmwareResult : Prop :=
  ∀ (n : R3) (s : State) (a pn : Word) (b : Nat), s.c.prv = .m →
    let fills (v : Word) : State := awaiting s (.fill v {} 0)
    let ea := ringAddress (s.c.desc (n + s.c.stagger)) pn 0
    (s.c.Reads .acc a → s.c.Reads (.p (n + s.c.stagger)) pn → ea.toNat % 8 = 0 →
      (ea.toNat + 56 ≤ 0x8_0000 ∨ (0x10_0000 ≤ ea.toNat ∧ ea.toNat + 56 ≤ 0x20_0080)) → (s.jrnlHead + 1) % 8192 ≠ s.jrnlCkpt → Released s →
      let w := s.drain s.c.uid
      let e : State := { w with c := { w.c with acc := { w.c.acc with full := false } } }
      let k := dispLocal (s.c.place = .dispatch true) ea.toNat
      let u := e.writeRecord ((List.range 56).map fun j => e.peek (e.c.issuer 0) { key := k } (k + j))
      u.jrnlHead = (s.jrnlHead + 1) % 8192 ∧ u.jrnlSeq = s.jrnlSeq + 1 ∧
      exec (.jrnl n) s = .next (retire 2 { u with c := { u.c with jobs := u.c.jobs ++ [.fill (w64 (s.jrnlSeq + 1)) {} 0] } })) ∧
    (s.c.Reads (.p (n + s.c.stagger)) pn → ea.toNat % 4096 = 0 → ea.toNat + 0x3_0000 ≤ s.dramBytes →
      (s.c.Reads .acc a → a.getLsbD 12 = false →
        exec (.preempt n) s = .next (retire 2 (awaiting s (.preempt ⟨false, bits a 11 9, bits a 8 6⟩ ea.toNat)))) ∧
      (s.c.Takes .acc → exec (.resume n) s = .next (retire 2 (awaiting s (.resume ea.toNat))))) ∧
    (s.c.Takes .acc →
      exec .kickscanAll s = .next (retire 2 { fills s.kicks with kicks := 0 }) ∧
      exec .kickscanCpl s = .next (retire 2 { fills (s.fifo.headD allOnes) with fifo := s.fifo.tail }) ∧
      (s.kicks = 0 → exec .kickscanOne s = .next (retire 2 (fills allOnes))) ∧
      (b < 64 → (s.kicks.getLsbD ((s.kickNext + b) % 64) = true) → (∀ j, j < b → s.kicks.getLsbD ((s.kickNext + j) % 64) = false) →
        let q := (s.kickNext + b) % 64
        exec .kickscanOne s = .next (retire 2
          { fills (w64 q) with kicks := s.kicks &&& ~~~(w64 (2 ^ q)), kickNext := (q + 1) % 64 })))

/-- R390, R393, R394, R396, R397, R399: at M, the recovery instructions complete on a core that is present, with their answer on its way to ACC: kills
with the number of contexts ended, a restart with the number of ranks queued, SEAL with the granules poisoned (all ones for a core that is not
killed), CHKCTL with the counts and with the forced mismatch's outcome, INJARM with whether the injector is armed or has fired. That a forced mismatch stays after CHKCTL.TEST has answered 0 is log entry 100. -/
def RecoveryResult : Prop :=
  ∀ (s : State) (a : Word), s.c.prv = .m → s.c.Reads .acc a →
    let n : CoreName := ⟨⟨a.getLsbD 12, bits a 11 9, bits a 8 6⟩, a.getLsbD 5⟩
    let x := s.coreAt n
    let e : State := { s with c := { s.c with acc := { s.c.acc with full := false } } }
    let fill (u : State) (v : Nat) : State := { u with c := { u.c with jobs := u.c.jobs ++ [.fill (w64 v) {} 0] } }
    let ranks := x.ended.filter fun r => (s.launchOf r.1).any fun l => (l.ranks[r.2]?).any fun e => e.killed && !e.ended && !e.transit
    (s.hasTile n.tile = true →
      exec .killCore s = .next (retire 2 (fill (e.kill n).2 (e.kill n).1)) ∧
      exec .killTask s = .next (retire 2 (fill (e.killTile n.tile).2 (e.killTile n.tile).1)) ∧
      (let u := ranks.foldl State.restartRank e
       exec .killRestart s = .next (retire 2 (fill (u.setCore n { u.coreAt n with ended := [] }) ranks.length))) ∧
      (x.killed = false → exec .seal s = .next (retire 2 (fill e (2 ^ 64 - 1)))) ∧
      (x.killed = true → exec .seal s = .next (retire 2 (fill
        ((x.orphans.foldl State.poisonOwned e).setCore n { x with sealed := true, orphans := [] })
        (x.orphans.map fun p => p.1).eraseDups.length))) ∧
      exec .chkctlRd s = .next (retire 2 (fill e (b2n x.killed * 2 ^ 63 + x.corrected % 2 ^ 32))) ∧
      exec .chkctlClr s = .next (retire 2 ((fill e 0).setCore n { x with corrected := 0 })) ∧
      (s.c.waitFrom = none → ∃ u, exec .chkctlTest s = .next u ∧ u.c.stalled = true ∧ u.c.pc = s.c.pc ∧ u.mem = s.mem ∧
        u.tiles = (s.setCore n { x with forced := true }).tiles) ∧
      (∀ c, s.c.waitFrom = some c →
        (x.forced = false → exec .chkctlTest s = .next (retire 2 (fill e 1))) ∧
        (x.forced = true → c + 1024 ≤ s.cyc → exec .chkctlTest s = .next (retire 2 (fill e 0))))) ∧
    (s.hasTile n.tile = false → ∀ i ∈ [Instr.killCore, .killTask, .killRestart, .seal, .chkctlRd, .chkctlClr, .chkctlTest],
      exec i s = .next (takeTrap false 0x06 0 a s.c.pc false s)) ∧
    (let on := !s.injAbsent && bits s.injector.dat 63 62 ≠ 0
     let off := !s.injAbsent && s.injector.fired
     exec .injarm s = .next (retire 2 (if on then (fill e 1).setInjector { s.injector with armed := true, seen := 0 } else fill e 0)) ∧
     exec .injarmOff s = .next (retire 2
       (if s.injAbsent then fill e 0 else (fill e (b2n off)).setInjector { s.injector with armed := false })))

/-- The contexts that a kill ends: those held that `p` picks, and with them the partner strands of their tile tasks and both guests of a tile
(R394 steps 1, 4 and 5). -/
def endedBy (s : State) (p : Ctx → Bool) : List Ctx := s.ctxs.filter fun c => decide (c.role ≠ .off) && (p c || s.ctxs.any fun h =>
  decide (h.role ≠ .off) && p h && decide (h.loc = c.loc ∧ ((h.kind = .task ∧ c.kind = .task ∧ h.task = c.task) ∨ (h.kind = .guest ∧ c.kind = .guest))))

/-- Contexts are ended in a state: they are gone with their engine commands, collectives and Square requests (R394 steps 1 to 3). -/
def Ended (l : List Ctx) (u : State) : Prop :=
  ∀ d ∈ l, (∀ c ∈ u.ctxs, c.uid ≠ d.uid) ∧ (∀ k ∈ u.cmds, k.iss.uid ≠ d.uid) ∧ (∀ k ∈ u.colls, k.iss.uid ≠ d.uid) ∧ ∀ q ∈ u.square, q.uid ≠ d.uid

/-- R391, R393, R394, R402: what a kill by the moving dispatch core leaves: of a core, its contexts ended and counted, the core killed, and the ranks that it
ended known to it for a restart; one that is killed already is left alone. A kill by hardware writes a completion entry besides, for each
tenant whose contexts it ended, tenant 0 where it ended none (log entry 69). kill.task ends every context bound to the tile and leaves both cores
as they were. A mismatch corrected by retry is counted for the core and in CORR, which saturates. -/
def KillRule : Prop :=
  ∀ (n : CoreName) (t : Loc) (cause : Byte) (s : State), s.c.isDisp = true → (∀ c ∈ s.others, c.uid ≠ s.c.uid) →
    n.tile.idx < s.tiles.length → t.idx < s.tiles.length →
    let l := endedBy s fun c => decide (c.place = .tile n.tile n.ic)
    let u := (s.kill n).2
    let entry (x : Nat) : Word := w64 (2 * 2 ^ 60 + x % 16 * 2 ^ 56 + (coreCode n.tile n.ic).toNat * 2 ^ 48 + cause.toNat * 2 ^ 40)
    ((s.coreAt n).killed = true → s.kill n = (0, s) ∧ s.hardKill n cause = s) ∧
    ((s.coreAt n).killed = false → (s.kill n).1 = l.length ∧ Ended l u ∧ (u.coreAt n).killed = true ∧
      (∀ r, r ∈ (u.coreAt n).ended ↔ ∃ k ∈ s.tasks, r = (k.launch, k.rank) ∧ ∃ c ∈ l, c.kind = .task ∧ c.task = k.num) ∧
      ∃ ts : List Nat, ts.Nodup ∧ (∀ x, x ∈ ts ↔ (∃ c ∈ l, c.tenant = x) ∨ (l = [] ∧ x = 0)) ∧
        s.hardKill n cause = { u with fifo := u.fifo ++ ts.map entry }) ∧
    (let k := endedBy s fun c => decide (c.loc = some t)
     let w := (s.killTile t).2
     (s.killTile t).1 = k.length ∧ Ended k w ∧ (∀ m, (w.coreAt m).killed = (s.coreAt m).killed) ∧
      ∀ y ∈ s.tasks, (∃ c ∈ k, c.kind = .task ∧ c.task = y.num) → ∀ x ∈ w.launches, x.num = y.launch → ∀ e, x.ranks[y.rank]? = some e → e.ended = true) ∧
    (let w := s.corrected n
     (w.coreAt n).corrected = (s.coreAt n).corrected + 1 ∧ (w.coreAt n).forced = false ∧ (w.coreAt n).killed = (s.coreAt n).killed ∧
      bits w.chkcfg 47 32 = Min.min (bits s.chkcfg 47 32 + 1) 0xFFFF ∧ bits w.chkcfg 1 0 = bits s.chkcfg 1 0 ∧ w.mem = s.mem ∧ w.c = s.c)

/-- R343, R347, R390 to R402: the machine-level instructions and what a kill leaves. -/
def Obligations.FirmwareAndRecovery : Prop := FirmwareResult ∧ RecoveryResult ∧ KillRule

/-! ## Event rows: what a context's units do (R21, R43, R113, R114, R129, R150, R151, R168, R172, R192, R227, R250 to R254, R284, R299,
R318, R319, R321, R386) -/

/-- The row ends the wait at PC as the waiting instruction's own completion does. -/
def EndsWait (row waiting : Instr) (s : State) : Prop := ∀ u, exec waiting s = .next u → u.c.stalled = false → exec row s = .next u

/-- R21, R110, R114, R127, R214, R227, R395: a result that has arrived fills ACC under GEN with its flags, TDESC's with its FPX request; a store is
performed with its bytes in memory, a load reads its element. A load that meets poison, a stale granule under GENPOL.TRAP or a rank under the lock
is cancelled: ACC is zero, and its trap is taken at the boundary at which the context stands (log entry 93). -/
def LateRows : Prop :=
  ∀ (s : State) (v : Word) (fs : FlagSet) (ff : FF) (post : List Job) (pa : Nat) (bs : List Byte) (i : Issuer) (e : Elem) (r : Res) (a : Word)
      (b : Byte) (traps : FF) (pc : Word) (ord : Nat),
    (s.c.jobs = .leaf v ff traps pc ord :: post → exec .registerFill s = .next
      (let u := s.requestFpx ff traps pc ord
       { u with c := { u.c with acc := ⟨v, true, u.c.gen⟩, fflags := u.c.fflags ||| ff, jobs := post } })) ∧
    (s.c.jobs = .fill v fs ff :: post → ∃ u, exec .registerFill s = .next u ∧ u.c.acc = ⟨v, true, s.c.gen⟩ ∧ u.c.flags = s.c.flags.apply fs ∧
      u.c.fflags = s.c.fflags ||| ff ∧ u.c.jobs = post ∧ u.mem = s.mem ∧ u.grans = s.grans ∧ u.c.p = s.c.p ∧ u.c.k = s.c.k ∧ u.c.pc = s.c.pc) ∧
    (s.c.jobs = .store pa bs :: post → s.busy (pa / 32) true = false → ∃ u, exec .accessPerformed s = .next u ∧
      u.mem = Mem.write s.mem pa bs ∧ u.c.jobs = post ∧ u.c.acc = s.c.acc ∧ u.c.flags = s.c.flags ∧ u.c.p = s.c.p) ∧
    (s.c.jobs = .load i .ld a (.inl e) none :: post → s.resolve i e.ea.toNat .read = .ok r → s.busy (r.key / 32) false = false →
      s.readFault i r e.ea.toNat e.ty.bytes = none → exec .accessPerformed s = .next
        { s with c := { s.c with jobs := .fill (e.ty.extend (leNat (s.readBytes i r e.ea.toNat e.ty.bytes))) {} 0 :: post } }) ∧
    (s.c.jobs = .load i .ld a (.inl e) none :: post → s.c.canTrap = true →
      (s.resolve i e.ea.toNat .read = .ok r ∧ s.busy (r.key / 32) false = false ∧ s.readFault i r e.ea.toNat e.ty.bytes = some b) ∨
        s.resolve i e.ea.toNat .read = .error (.cause b) →
      exec .accessPerformed s = .next (takeTrap false b 0 e.ea s.c.pc (s.c.repi ≠ 0)
        { s with c := { s.c with acc := ⟨0, true, s.c.gen⟩, jobs := post } }))

/-- R113: a synchronising access that waits in its granule's queue is served: where the bit is as it awaits it, it is the first there, and nothing
else is in its way, it completes as it would at once. A synchronising store fills its granule with ACC's bytes; a synchronising read of
layout S completes as the instruction does, LD with the element in ACC (on its way where its home is slow and away from the tile), its
granule emptied. -/
def ServedAccess : Prop :=
  ∀ (s t : State) (p : Pre) (n x : R3) (ty : ETy) (a v ea : Word) (r : Res), s.c.stalled = true →
    s.waiters.any (fun w => w.uid = s.c.uid && !w.sem) = true → repLeft p s → s.c.Reads .acc a →
    let iss := s.c.issuer (s.c.scopeOf p)
    AddressOf p s (repIndex p s) ⟨.sync, n, x⟩ ty v ea →
    (s.fetch.1 = .instr (.st p ⟨.sync, n, x⟩) → SyncPlace s t iss ea ty.bytes false r →
      (∀ j ∈ s.c.jobs, match j with
        | .load .. | .atomic _ | .page .. => False
        | _ => True) → t.storesHeld t.c = false →
      ∃ u, exec .syncAccessServed s = .next (afterRep false p s u) ∧ u.c.acc = s.c.acc ∧ u.c.p = s.c.p ∧
        u.mem = ((t.drain s.c.uid).put iss r (some s.c.uid) (leBytes ty.bytes a.toNat)).mem ∧
        (s.Canonical → (u.gran (r.key / 32)).full = true)) ∧
    (∀ (op : AluOp) (mk : Pre → Src9 → Instr), (op, mk) ∈ layoutS → s.fetch.1 = .instr (mk p (.mem ⟨.sync, n, x⟩)) →
      SyncPlace s t iss ea ty.bytes true r → s.c.acc.full = true → s.c.Settled ⟨true, true, true, true⟩ →
      ∃ u, exec .syncAccessServed s = .next (afterRep false p s u) ∧ exec (mk p (.mem ⟨.sync, n, x⟩)) s = .next (afterRep false p s u) ∧
        (s.Canonical → (u.gran (r.key / 32)).full = false) ∧ (op = .ld → (t.slow && r.far) = false →
          u.c.acc = ⟨ty.extend (leNat (t.readBytes iss r ea.toNat ty.bytes)), true, s.c.gen⟩))

/-- R319, R321: a waiting SLEEPT completes once CYC has reached ACC, on a channel with no command left that is promised for a time passed, or, for
all ones in ACC, once no command is under way there, and nothing is to be reported on the channel; a waiting BARW completes once the phase of
its barrier has flipped. -/
def WaitsOver : Prop :=
  ∀ (s : State) (a : Word) (ch : R3), s.c.stalled = true → s.c.Reads .acc a →
    let x := s.barrier s.c.dist (bits a 4 0)
    (s.fetch.1 = .instr .sleeptT → a.toNat ≤ s.cyc → exec .sleeptWake s = .next (retire 1 s)) ∧
    (s.fetch.1 = .instr (.sleept ch) → s.c.mayChan ch = true → (∀ r ∈ s.c.reports, r.unit.onChan ch = false) →
      (∀ b ∈ s.c.barReps, b.ch = some ch → s.c.canReport b = false) →
      (if a = allOnes then s.chanTimes s.c ch = [] else a.toNat ≤ s.cyc ∧ ∀ x ∈ s.chanTimes s.c ch, a.toNat < x) →
      exec .sleeptWake s = .next (retire 1 s)) ∧
    (s.c.wres = true → s.c.isGuest = false → x.grant = some s.c.launch → x.phase ≠ s.c.wph → ∃ u, exec .barwWake s = .next u ∧
      u.c.pc = (s.c.advance 1).pc ∧ u.c.stalled = false ∧ u.c.wres = false ∧ u.c.acc = s.c.acc ∧ u.mem = s.mem ∧ u.districts = s.districts)

/-- R113, R318, R319, R321: the rows that end a wait: a synchronising access served, MWAIT's limit and its spurious end (at most once in 4,096
cycles of waiting, with the lowest code that holds; log entry 83), SLEEPT, BARW. -/
def WaitRows : Prop := ServedAccess ∧ WaitsOver ∧
  ∀ (s : State) (p : Pre) (n x : R3) (op : AluOp) (mk : Pre → Src9 → Instr) (i : Instr),
    (s.c.stalled = true → s.waiters.any (fun w => w.uid = s.c.uid && !w.sem) = true → s.fetch.1 = .instr i →
      (i = .st p ⟨.sync, n, x⟩ ∨ ((op, mk) ∈ layoutS ∧ i = mk p (.mem ⟨.sync, n, x⟩)) ∨ i = .mac p (.mem ⟨.sync, n, x⟩)) →
      EndsWait .syncAccessServed i s) ∧
    (s.c.inMwait = true → s.c.monHit = false → s.c.monitor ≠ none → s.c.monLost = false → s.c.Reads .acc s.c.acc.val →
      s.c.acc.val.toNat ≤ s.c.waited s.cyc → exec .mwaitTimeout s = .next (retire 1
        { s with c := { s.c with acc := ⟨2, true, s.c.gen⟩, monitor := none, monHit := false, monLost := false } })) ∧
    (s.c.inMwait = true → (∀ n, s.c.spurious = some n → 4096 ≤ n) → ∃ u, exec .mwaitSpurious s = .next u ∧
      u.c.acc = ⟨w64 ((s.c.mwaitCode s.cyc ((s.c.tagged s.c.acc).getD 0)).getD 4), true, s.c.gen⟩ ∧ u.c.monitor = none ∧ u.c.spurious = some 0 ∧ u.c.pc = (s.c.advance 1).pc ∧ u.mem = s.mem) ∧
    (s.c.stalled = true → (∀ ch, s.fetch.1 = .instr (.sleept ch) → EndsWait .sleeptWake (.sleept ch) s) ∧
      (s.fetch.1 = .instr .sleeptT → EndsWait .sleeptWake .sleeptT s)) ∧
    (s.c.stalled = true → s.c.wres = true → EndsWait .barwWake .barw s)

/-- R250, R252, R253, R254: an atomic performed at its home writes `new` and answers `old`; a refused one fills ACC with zero and leaves its report;
one whose tagged response has not come for 65,536 cycles is lost, with its retry record; a stash instruction's end changes no value. -/
def AtomicRows : Prop :=
  ∀ (s : State) (r : AtomReq) (post : List Job) (res : Res) (sub : Byte) (g : BitVec 16) (op : StashOp) (l : Option Nat),
    let old := leNat (s.readBytes { r.iss with esc := none } res r.el.ea.toNat r.el.ty.bytes)
    let new := (r.op.apply r.el.ty old r.v.toNat r.swap.toNat).1
    (s.c.jobs = .atomic r :: post → r.tag = none → s.resolve r.iss r.el.ea.toNat .rmw = .ok res → s.busy (res.key / 32) true = false →
      s.atomRefusal r res = none → ∃ u fs ff, exec .atomicAtHome s = .next u ∧
        u.c.jobs = .atomicDone r (r.el.ty.extend old) fs ff :: post ∧ (r.op = .cas → fs.z = some (decide (old = r.v.toNat))) ∧
        u.mem = (match new with
          | none => s.mem
          | some v => (s.put r.iss res (some r.iss.uid) (leBytes r.el.ty.bytes v)).mem)) ∧
    (s.c.jobs = .atomicRefused r sub :: post → r.nr = false → ∃ u, exec .atomicRefusal s = .next u ∧ u.c.acc = ⟨0, true, s.c.gen⟩ ∧
      u.c.reports = s.c.reports ++ [{ unit := .atomic, sub := sub, addr := r.el.ea, pc := r.iss.pc, time := s.cyc }] ∧ u.c.jobs = post ∧ u.mem = s.mem) ∧
    (s.c.jobs = .atomic r :: post → r.tag = some g → r.nr = false → r.sent + 65536 ≤ s.cyc → ∃ u, exec .atomicResponseLost s = .next u ∧
      u.c.retry = some r ∧ u.c.linkLost = some (g, r.el.ea) ∧ u.c.acc = ⟨0, true, s.c.gen⟩ ∧ u.c.jobs = post ∧ u.mem = s.mem) ∧
    (s.c.jobs = .stash op l :: post → (op = .spf ∨ op = .sflush ∨ ∀ k, l = some k → s.ownedData k = false ∧ s.ownedObj k = false) →
      exec .stashOpComplete s = .next { s with c := { s.c with jobs := post } })

/-- R23, R129, R110, R144, R150, R168, R172, R192, R284: the entry at the head of a vector or matrix queue completes with its flags in FFLAGS and its
result in ACC, or stops with its report, the later entries of the queue being discarded and an ACC that it or one of them would have filled made
zero; TMASS climbs by one update; the commit or abort at PC ends. -/
def QueueRows : Prop :=
  ∀ (s w w0 : State) (e e' e0 : VEntry) (es : List VEntry) (m : MEntry) (ms : List MEntry) (ff : FF) (acc : Option Word) (ord va : Nat) (c : Byte)
      (k : Nat) (x : MStop) (b : R3),
    (s.vhead = some (e, es) → s.pick = 0 → vheadRun s e = some { s := w, ff := ff, acc := acc } → ∃ u, exec .vectorEntryComplete s = .next u ∧
      u.c.vq = es ∧ u.c.fflags = w.c.fflags ||| ff ∧ u.mem = w.mem ∧ (∀ v, acc = some v → u.c.acc = ⟨v, true, w.c.gen⟩) ∧
      (acc = none → u.c.acc = w.c.acc)) ∧
    (s.vhead = some (e, es) → e.op.isSample = false → vheadRun s e = some { s := w, ff := ff, acc := acc, stop := some (ord, c, va) } →
      ∃ u, exec .vectorFaultStop s = .next u ∧ u.c.vq = [] ∧ u.c.fflags = w.c.fflags ||| ff ∧ u.mem = w.mem ∧ u.c.reports = w.c.reports ++
        [{ unit := .vector, sub := c, addr := w64 va, pc := e.iss.pc, disc := es.length, e1 := w64 ord, time := w.cyc }] ∧
        u.c.acc = (if ∃ y ∈ e :: es, y.op.isRed = true ∨ y.op.isSample = true then ⟨0, true, w.c.gen⟩ else w.c.acc)) ∧
    (s.vhead = some (e, es) → climbStart s e = some (w0, e0) → climbRun w0 e0 = some (.error (.fault c va)) →
      ∃ u, exec .vectorFaultStop s = .next u ∧ u.c.vq = [] ∧ u.c.fflags = w0.c.fflags ||| e0.ff ∧ u.c.acc = ⟨0, true, w0.c.gen⟩ ∧ u.mem = w0.mem ∧
        u.c.reports = w0.c.reports ++ [{ unit := .tree, sub := c, addr := w64 va, pc := e.iss.pc, disc := es.length, time := w0.cyc }]) ∧
    (s.mhead = some (m, ms) → s.pick = 0 → m.run s = some { s := w, ff := ff, n := k } → ∃ u, exec .matrixEntryComplete s = .next u ∧
      u.c.mq = ms ∧ u.c.fflags = w.c.fflags ||| ff ∧ u.mem = w.mem) ∧
    (s.mhead = some (m, ms) → m.run s = some { s := w, ff := ff, n := k, stop := some x } → ∃ u, exec .matrixFaultStop s = .next u ∧
      u.c.mq = [] ∧ u.c.fflags = w.c.fflags ||| ff ∧ u.mem = w.mem ∧ u.c.reports = w.c.reports ++
        [{ unit := .matrix, sub := x.cause, addr := w64 x.va, pc := m.iss.pc, disc := ms.length, e1 := w64 x.ord, e2 := w64 (x.opnd * 256)
           time := s.cyc }]) ∧
    (s.vhead = some (e, es) → climbStart s e = some (w0, e0) → climbRun w0 e0 = some (.ok (w, e')) →
      exec .treeUpdate s = .next { w with c := { w.c with vq := e' :: es } }) ∧
    (s.c.runs = true → s.c.stalled = true → s.c.inClose = true →
      (s.fetch = (.instr (.escommit b), w) → ∀ t, escommitOp b w = .ok ((), t) → exec .escrowInstall s = .next (retire 2 t)) ∧
      (s.fetch = (.instr (.esabort b), w) → ∀ t, esabortOp b w = .ok ((), t) → exec .escrowInstall s = .next (retire 2 t)))

/-- R43, R386, R151, R299: a thread's budget runs out, its remaining cycles passing at once, and BUDGET is due (log entry 80); a thread that has
not ended within its grace is over (log entry 84); a window of 64 cycles that has passed closes with the FPX requests in it (log entry 81);
where a window of 1,024 cycles begins, the vector units' deficits are cleared. -/
def BudgetRows : Prop :=
  ∀ (s : State) (t : Loc) (ic : Bool) (w : Nat),
    (s.c.isThread = true → s.c.role = .active → 0 < s.c.rbudget → let u := s.passTime s.c.rbudget
      exec .budgetExpire s = .next u ∧ (s.calm = true → u.c.rbudget = 0 ∧ u.c.budgetDue = true ∧ u.cyc = s.cyc + s.c.rbudget ∧
        u.c.acc = s.c.acc ∧ u.c.pc = s.c.pc ∧ (s.ewq = [] → u.mem = s.mem))) ∧
    (s.c.isThread = true → s.c.runs = true → s.c.grace = some 0 → s.c.place = .tile t ic → ∃ u, exec .budgetGraceExpire s = .next u ∧
      ∀ x ∈ u.others, x.uid ≠ s.c.uid) ∧
    (s.pick < 64 → s.tiles.length = 64 → s.windowDue (Loc.ofIdx s.pick) = some w → ∃ u, exec .fpxWindowClose s = .next u ∧
      (u.tile (Loc.ofIdx s.pick)).fpWindow = (s.tile (Loc.ofIdx s.pick)).fpWindow.filter (fun x => x.1 ≠ w) ∧ u.mem = s.mem ∧
      ((w, s.c.uid) ∈ (s.tile (Loc.ofIdx s.pick)).fpWindow → u.c.fpxReq = s.c.fpxReq.filter fun r => r.1 ≠ w)) ∧
    (s.pick < 64 → s.cyc % 1024 = 0 → let l := Loc.ofIdx s.pick
      exec .vectorShareWindow s = .next (s.setTile l { s.tile l with cores := (s.tile l).cores.map fun c => { c with deficit := 0 } }))

/-- The event rows of a context's own units. -/
def Obligations.ContextEvents : Prop := LateRows ∧ WaitRows ∧ AtomicRows ∧ QueueRows ∧ BudgetRows

/-! ## Event rows: what the units that contexts share do (R198 to R203, R222 to R225, R243, R258, R261, R264, R268 to R276, R296 to R304,
R322, R327 to R330, R337 to R339, R345, R346, R362) -/

/-- R222, R225, R243, R260, R261, R264: a copy channel's command makes its next fill, leaves the channel when it is complete, the codes of a streaming
source with it, or stops with its report at the first element whose source it cannot read: the source granules that the elements before
finish are emptied, and the codes before it leave the channel. A collective is performed for all its participants, each of which completes or
stops at its first element that cannot be performed (log entry 53). A stop waits while one on its channel is unreported (log entry 115),
a credit for an earlier lease on its object (log entry 112). When a command does so is the input list's choice (log entry 28). -/
def EngineRows : Prop :=
  ∀ (t : Loc) (ch : R3) (s w : State) (k k' : Cmd) (n o va : Nat) (c : Byte) (x : Coll) (l : List Coll) (r : List CollEnd),
    ((s.chan t ch).running = some k → (if k.d.strm then k.fillStream s t ch else k.fillLine s ch) = some (w, k') →
      exec (.engineFill t ch) s = .next (w.setChan t ch { w.chan t ch with active := some k' })) ∧
    ((s.chan t ch).running = some k → k.fills ≤ k.filled →
      (k.a.strm = false → exec (.copyCommandComplete t ch) s = .next (s.commandOver t ch k)) ∧
      (k.a.strm = true → exec (.copyCommandComplete t ch) s = .next
        ((s.setStream k.iss ch.toNat ((s.stream k.iss ch.toNat).drop (k.d.count - k.taken))).commandOver t ch k))) ∧
    ((s.chan t ch).running = some k → s.stopHeld k.iss ch = false → s.creditHeld k.target k.num = false →
      k.firstBad s ch k.next = some (n, o, .fault c va) → (∀ m ∈ k.next, n ≤ m) → (∃ f, k.source s ch n = .error f) →
      let y := k.syncSource s [] (k.unlanded.filter fun x => n ≤ x)
      let u := if k.a.strm then y.1.setStream k.iss ch.toNat ((y.1.stream k.iss ch.toNat).drop (n - k.taken)) else y.1
      (k.a.sync = false → (∀ x, k.idx = some x → x.sync = false) → y = (s, k)) ∧
      exec (.copyCommandStop t ch) s = .next
        ((u.updCtx k.iss.uid fun x => { x with reports := x.reports ++ [k.report s.cyc ch n o c va] }).commandOver t ch k)) ∧
    (s.colls[s.pick]? = some x → s.partners x = some l → (∀ x ∈ l, s.creditHeld x.target x.num = false) →
      (∀ x ∈ l, s.stopHeld x.iss (s.collChanOf x) = false) →
      (agree l = false → exec .collectiveComplete s = .next (l.foldl (fun s k => s.collStop 0x08 k.d.base.toNat 0 k) (s.dropColls l))) ∧
      (agree l = true → collRun (fun _ => s) l l s = some (w, r) → exec .collectiveComplete s = .next (r.foldl (fun s x => match x.2.2 with
        | none => s.collOver x.1 x.2.1
        | some (n, c, va) => s.collStop c va n x.1) (w.dropColls l))))

/-- R268 to R276: the Square grants a publication a buffer with its bytes, makes it the latest version with the next number, pins a read's version
at the grant and copies it to its reader, answers MBINFO by the slot at the response (log entry 58), and refuses with ENGINE due and zero in
ACC. A publication whose slot was cleared meanwhile completes and leaves the slot no version (log entry 60). -/
def SquareRows : Prop :=
  ∀ (s w : State) (q : SqReq) (addr : Word) (c : Nat) (uf : BitVec 16) (sel : BitVec 2) (bs : List Byte) (sub : Byte)
      (n : Word) (m : Bool),
    ((s.square.filter fun q => q.isPub && q.granted && q.refused.isNone).length < 2 → portNext (s.square.filter s.pubReady) = some q →
      q.kind = .pub addr c uf → s.pubBytes q addr c = .ok bs → exec .squareWriteGrant s = .next
        ((s.updReq { q with granted := true, buf := s.freeBuf (s.slot q.slot), payload := bs, lease := [] }).setSlot
          { s.slot q.slot with writing := some q.num })) ∧
    ((s.square.filter fun q => q.isPub && q.granted && s.settled q)[s.pick]? = some q → q.kind = .pub addr c uf → s.spare = false →
      let d := s.drain q.uid
      let x := d.slot q.slot
      let v : Version := { num := x.count + 1, stamp := i64 d.timeNs, wrank := BitVec.ofNat 32 q.iss.rank, flags := BitVec.ofNat 32 uf.toNat
                           payload := q.payload.take c }
      (q.cleared = none → exec .flip s = .next (((d.publish x (q.buf.getD 0) v q.iss.place.code).answer q (x.count + 1)).dropReq q.num)) ∧
      (q.cleared = some (n, m) → exec .flip s = .next ((d.answer q (n + 1)).dropReq q.num))) ∧
    ((s.square.filter fun q => q.isGet && q.granted).length < 8 → portNext (s.square.filter fun q => q.isGet && q.waits) = some q →
      let x := s.slot q.slot
      let y := s.trace 4 (some x.tenant) q.iss.place.code x.num 0 q.iss.pc
      exec .squareReadGrant s = .next
        ((y.updReq { q with granted := true, buf := x.latest, got := x.version }).setSlot { x with pins := x.pins ++ [q.num] })) ∧
    ((s.square.filter fun q => q.isGet && q.granted)[s.pick]? = some q → q.kind = .get addr → versionBytes q.got = bs →
      s.fillMixed q.iss addr.toNat bs.length = none →
      s.engPuts q.iss q.num (bs.zipIdx.map fun b => (addr.toNat + b.2, 0, b.1.toNat)) = .ok w →
      exec .mbgetComplete s = .next ((((w.fillGranules q.iss addr.toNat bs.length).unpin q).answer q
        ((q.got.map fun v => v.num).getD 0)).dropReq q.num)) ∧
    ((s.square.filter fun q => !q.isPub && !q.isGet)[s.pick]? = some q → q.kind = .info sel →
      exec .mbinfoResponse s = .next ((s.answer q (infoWord sel (s.slot q.slot).version)).dropReq q.num)) ∧
    ((s.square.filter fun q => q.refused.isSome)[s.pick]? = some q → q.refused = some sub → q.uid = s.c.uid →
      ∃ u, exec .squareRefusal s = .next u ∧ u.c.acc = ⟨0, true, s.c.gen⟩ ∧ u.mem = s.mem ∧
        u.c.reports = s.c.reports ++ [{ unit := .square, sub := sub, addr := q.failAt, pc := q.iss.pc, time := s.cyc }] ∧ ∀ y ∈ u.square, y.num ≠ q.num)

/-- R198, R199, R200, R201, R203, R322, R362: a DQREQ is served (the queue's push, pop or count), a quantum closes, a vote of one operation fills its voters' ACC
with the combined value, a handover ends, a capability table is read into valid regions when EN is written from 0 to 1, a sweep empties what its
generation tagged. Quanta: log entry 64. -/
def SharedRows : Prop :=
  ∀ (s : State) (c : Ctx) (d l k op : Nat) (q : TaskQueue) (v : Word) (ten : BitVec 4) (n : BitVec 8) (r : CapRegion) (t : Loc) (g : Gen)
      (gs : List Gen),
    ((s.ctxs.filter fun c => !c.det && c.request.isSome)[s.pick]? = some c → exec .dqreqServe s = .next (s.serveReq c.uid)) ∧
    (q.serve 0 v = (if 256 ≤ q.entries.length then (q, allOnes)
      else ({ q with entries := q.entries ++ [v] }, w64 (q.entries.length + 1))) ∧
      (q.serve 1 v).2 = q.entries.headD allOnes ∧ (q.serve 1 v).1.entries = q.entries.tail ∧ q.serve 2 v = (q, w64 q.entries.length)) ∧
    (s.detQueues[s.pick]? = some (d, q) → s.taskQueue d q.launch = some q → (∀ x ∈ s.quanta d q.launch, q.closed < x) →
      s.quanta d q.launch ≠ [] → (∀ x ∈ s.ctxs, x.request = none) →
      exec .quantumClose s = .next (s.setTaskQueue d { q with closed := q.closed + 1 })) ∧
    (s.votesDone[s.pick]? = some (l, k) → (∀ y ∈ s.votesAt l k, y.1 = op) → s.c.kind = .task → s.c.isDisp = false →
      s.c.launch = l → s.c.voteAt k = some (op, v) → ∃ u, exec .voteComplete s = .next u ∧ u.mem = s.mem ∧
        u.c.acc = ⟨combine op ((s.votesAt l k).map fun y => y.2), true, s.c.gen⟩) ∧
    (s.region ten.toNat n.toNat = some r → r.moving.isSome = true →
      exec (.handoverArrival ten n) s = .next (s.setHolder r fun c => { c with moving := none })) ∧
    (bit (s.tenant ten.toNat).detmode 0 = true → exec (.capabilityTableRead ten) s = .next s) ∧
    (bit (s.tenant ten.toNat).detmode 0 = false → ∃ u, exec (.capabilityTableRead ten) s = .next u ∧ u.mem = s.mem ∧ u.c = s.c ∧
      (s.tenants.length = 16 → bit (u.tenant ten.toNat).detmode 0 = true) ∧
      (u.caps.filter fun c => c.tenant ≠ ten.toNat) = (s.caps.filter fun c => c.tenant ≠ ten.toNat) ∧
      ∀ c ∈ u.caps, c.tenant = ten.toNat → c.len ≠ 0 ∧ c.base % 32 = 0 ∧ 0x4000_0000_0000 ≤ c.base ∧ c.base + 32 * c.len ≤ 0x8000_0000_0000) ∧
    ((s.tile t).sweeps = g :: gs → ∃ u, exec (.generationSweep t g) s = .next u ∧ ∀ x, (granRange t).1 ≤ x → x < (granRange t).2 →
      (s.gran x).tag = g → u.gran x = {} ∧ ∀ j, j < 32 → Mem.byte u.mem (32 * x + j) = 0)

/-- R327, R328: a cycle of a district's Interchange in which no counter stands at 0, no timer runs and no output that is due raises an interrupt or
names a reflex entry. Each enabled counter takes one off for a pulse of its signal, and reloads and pulses when that is its last; each
enabled term latches the operands whose signals pulse, a pulse on a latch that was set being lost into OVR, and one that has all its
used latches completes and clears them; the outputs that name a term completed in the cycle before pulse, which starts the copy commands
that wait for them; what pulses then reaches counters and latches in the next cycle. -/
def CycleRule : Prop :=
  ∀ (d : DistId) (s : State),
    let i := distIdx d.arr d.dist
    let e := (s.district i).evx
    let u := s.evxCycle d
    let f := (u.district i).evx
    (∀ o : BitVec 4, o ∈ e.drive.outs ↔ o ∈ e.outs ∨
      (bit (e.outputs[o.toNat]'o.isLt) 63 = true ∧ ∃ t ∈ e.done, bit (e.outputs[o.toNat]'o.isLt) t = true)) ∧
    (i < s.districts.length → e.pulses.Nodup → (∀ w ∈ e.counters.toList, counterDue w = false) → (∀ w ∈ e.timers.toList, bit w 63 = false) →
      (∀ w ∈ e.terms.toList, termDone w = false) →
      (∀ o ∈ e.drive.outs, bit (e.outputs[o.toNat]'o.isLt) 49 = false ∧ (bit (e.outputs[o.toNat]'o.isLt) 48 && d.arr) = false) →
      (∀ j : BitVec 5,
        let w := e.counters[j.toNat]'j.isLt
        let x := f.counters[j.toNat]'j.isLt
        let hit : Prop := bit w 63 = true ∧ BitVec.ofNat 7 (bits w 22 16) ∈ e.pulses
        (¬ hit → x = w) ∧ (hit → bits x 47 32 = (if bits w 47 32 = 1 then Max.max 1 (bits w 15 0) else bits w 47 32 - 1) ∧
          bits x 63 48 = bits w 63 48 ∧ bits x 31 0 = bits w 31 0)) ∧
      (∀ g : BitVec 7, g ∈ f.pulses ↔ g ∈ e.soon ∨ ∃ j : BitVec 5, g.toNat = 64 + j.toNat ∧
        let w := e.counters[j.toNat]'j.isLt
        bit w 63 = true ∧ bits w 47 32 = 1 ∧ BitVec.ofNat 7 (bits w 22 16) ∈ e.pulses) ∧
      (∀ j : BitVec 5,
        let w := e.terms[j.toNat]'j.isLt
        let x := f.terms[j.toNat]'j.isLt
        let hit (k : Nat) : Prop := bit w 63 = true ∧ bit w (8 * k + 7) = true ∧ BitVec.ofNat 7 (bits w (8 * k + 6) (8 * k)) ∈ e.pulses
        let full : Prop := bit w 63 = true ∧ (∃ k, k < 4 ∧ bit w (8 * k + 7) = true) ∧
          ∀ k, k < 4 → bit w (8 * k + 7) = true → bit w (32 + k) = true ∨ hit k
        (∀ k, k < 4 → (bit x (32 + k) = true ↔ (bit w (32 + k) = true ∨ hit k) ∧ ¬ full)) ∧
        (bit x 39 = true ↔ bit w 39 = true ∨ ∃ k, k < 4 ∧ hit k ∧ bit w (32 + k) = true) ∧ (j.toNat ∈ f.done ↔ full)) ∧
      f.outs = [] ∧ f.soon = [] ∧ u.mem = s.mem ∧ u.c = s.c ∧
      ∀ k, k < 8 → (⟨d.arr, d.dist, k⟩ : Loc).idx < s.tiles.length → (u.tile ⟨d.arr, d.dist, k⟩).chans =
        e.drive.outs.foldl (fun l o => l.map (Chan.outPulse o.toNat s.cyc)) (s.tile ⟨d.arr, d.dist, k⟩).chans)

/-- R327, R328, R330, R420: the Interchange: a pulse that is made in this cycle reaches counters and latches, and an output that is due pulses, in the next
one, which begins; a counter at 0 reloads and pulses, a timer ticks, a contact edge pulses in every district. -/
def InterchangeRows : Prop := CycleRule ∧
  ∀ (d : DistId) (sig : BitVec 7) (j : BitVec 5) (o : BitVec 4) (n pin : R3) (s : State),
    let i := distIdx d.arr d.dist
    let x := s.district i
    let evx (f : Interchange → Interchange) : State := s.setDistrict i { x with evx := f x.evx }
    (sig ∈ x.evx.pulses → exec (.interchangeSignal d sig) s = .next s.cycle) ∧
    (let w := x.evx.counters[j.toNat]'j.isLt
     counterDue w = true → exec (.counterExpire d j) s = .next
      ((evx fun e => { e with counters := e.counters.set j.toNat (setValue w (reload w)) j.isLt }).pulse i (64 + j.toNat))) ∧
    (o ∈ x.evx.drive.outs → exec (.outputPulse d o) s = .next s.cycle) ∧
    s.cycle = (s.elapse 1).evxCycles.arbitrate.closeWindows.background ∧
    (let w := x.evx.timers[n.toNat]'n.isLt
     let q := (if bit w 62 then s.timeNs.toNat else s.cyc) / bits w 31 0
     bit w 63 = true → bits w 31 0 ≠ 0 → x.evx.timerQ[n.toNat]'n.isLt < q → exec (.timerTick d n) s = .next
      ((evx fun e => { e with timerQ := e.timerQ.set n.toNat q n.isLt }).pulse i (32 + n.toNat))) ∧
    exec (.contactEdge pin) s = .next ((List.range 8).foldl (fun u k =>
      if (if k < 6 then decide (k < u.reas) else decide (k - 6 < u.refx)) then u.pulse k (48 + pin.toNat) else u) s)

/-- The state in which a strand of a bound tile task starts: the reset state but for R291's table; `rd` is its RD0. -/
def startsAs (s : State) (q : Queued) (k : Task) (ic : Bool) (rd : Gen) (c : Ctx) : Prop :=
  let l := q.lrec
  let te := s.tenant q.tenant
  let full (v : Word) : Reg := ⟨v, true, k.gen⟩
  let base := k.rank % (l.depth + 1) * l.spad
  let gm := Max.max 1 (bits l.geom 7 0)
  let gn := Max.max 1 (bits l.geom 15 8)
  let gk := Max.max 1 (bits l.geom 23 16)
  c = { uid := c.uid, role := c.role, bankIx := c.bankIx, kind := .task, place := .tile k.tile ic, reflex := k.tile.arr, tenant := q.tenant
        launch := q.num, task := k.num, lr := l.lr, pc := l.entry, prv := if l.sup then .s else .u, acc := full l.param
        p := (Vector.replicate 8 (full 0)).set 0 (full (w64 base)), k := Vector.replicate 8 (full 0), gen := k.gen, genrd := #v[rd, 0, 0]
        rank := k.rank, nrank := l.tiles, stage := l.stage, mgeo0 := w64 (gk * 65536 + gn * 256 + gm)
        mgeo1 := w64 (k.rank / (gm * gn) % gk * 65536 + k.rank / gm % gn * 256 + k.rank % gm), seeds := q.seeds, spadBase := base
        det := bit te.detmode 0, quantum := te.quantum, mixtrap := te.mixtrap, ipend := if q.marked then 16 else 0 }

/-- R291, R296, R298, R304, R347: what a district's scheduler selects, which tiles a record takes, and what binding it and the end of a tile task leave.
A record selected has the highest effective priority of its district's and array's queues, and no older one of its tenant has it. A record
takes as many tiles as it needs, in each of whose districts it is selected; none that a RESUME, which stands at priority 7, is to have.
Binding starts both strands of every rank in R291's state under the record's GEN or a fresh one. When a task leaves its tile, its contexts are
gone; with the tile's last task the tile is retained under the token, or its banks power down, and a reflex tile is unlocked. -/
def SchedRules : Prop :=
  ∀ (s : State) (d : Nat) (q b : Queued) (ts : List Loc) (k : Task) (tenant : Nat) (token : Option Word),
    (s.selected d = some b → b ∈ (s.district d).queue ++ (if d < 6 then s.arrayQ[0] else s.arrayQ[1]) ∧
      ∀ x ∈ (s.district d).queue ++ (if d < 6 then s.arrayQ[0] else s.arrayQ[1]), x.prio ≤ b.prio ∧
        (x.prio = b.prio → x.tenant = b.tenant → x.older b = false)) ∧
    (s.tilesFor q = some ts → ts.length = q.need ∧ ts.Nodup ∧ ∀ t ∈ ts, s.bindable t q = true ∧
      (∃ x, s.selected (distIdx t.arr t.dist) = some x ∧ x.num = q.num ∧ x.only = q.only) ∧ (q.prio = 7 ∨ t ∉ s.resumeTiles)) ∧
    (s.tilesFor q = some ts → s.gensReady q ts = true → q.only = none → s.tiles.length = 64 → ∀ r, r < q.lrec.tiles →
      let u := s.bindLaunch q ts
      ∃ k ∈ u.tasks, k.launch = q.num ∧ k.rank = r ∧ ts[r / (q.lrec.depth + 1)]? = some k.tile ∧ k.sems = Vector.replicate 16 0 ∧
        (q.lrec.gen ≠ 0 → k.gen = q.lrec.gen) ∧ (q.lrec.gen = 0 → k.gen ≠ 0 ∧ s.genInUse k.tile k.gen = false) ∧
        let old := (s.tile k.tile).retain
        let rd : Gen := if s.retainedFor k.tile q then (old.map fun x => x.gen).getD 0
          else if k.tile.arr && (s.tenant q.tenant).rfx.getLsbD (8 * k.tile.dist + k.tile.tile) then (s.tile k.tile).fillGen.getD 0 else 0
        ∀ ic : Bool, ∃ c ∈ u.ctxs, startsAs s q k ic rd c) ∧
    (let own (c : Ctx) : Prop := c.task = k.num ∧ c.kind = .task ∧ c.loc = some k.tile
     let u := s.leaveTile k tenant token
     let last : Prop := ∀ x ∈ s.tasks, x.num ≠ k.num → x.tile ≠ k.tile
     let ti := s.tile k.tile
     (∃ c ∈ s.ctxs, ¬ own c) → k.tile.idx < s.tiles.length →
      (∀ c ∈ u.ctxs, ¬ own c) ∧ u.tasks = s.tasks.filter (fun x => x.num ≠ k.num) ∧
      (¬ last → (u.tile k.tile).retain = ti.retain ∧ (u.tile k.tile).powered = ti.powered ∧ u.mem = s.mem) ∧
      (last → k.tile.arr = false → ∀ w, token = some w →
        (u.tile k.tile).retain = some { token := w, tenant := tenant, gen := k.lastGen, since := k.haltAt } ∧ u.mem = s.mem ∧ u.grans = s.grans) ∧
      (last → k.tile.arr = false → token = none → (u.tile k.tile).powered = false ∧
        ∀ x, tileKey k.tile 0 ≤ x → x < tileKey k.tile 0x14_0000 → Mem.byte u.mem x = 0 ∧ u.gran (x / 32) = {}) ∧
      (k.tile.arr = true → (∀ x ∈ s.tasks, x.num ≠ k.num → x.tile = k.tile → x.launch ≠ k.launch) → (u.tile k.tile).locked = none))

/-- R296, R298, R303, R304: a queued launch is bound, ages, a tile task ends, a retained tile is given up, a parked task is sent to another tile and lands
there. A migration has these two instants (log entry 97). -/
def SchedulerRows : Prop :=
  ∀ (s : State) (q : Queued) (ts : List Loc) (k : Task) (l : Launch) (t : Loc) (r : Retain),
    (s.allQueued[s.pick]? = some q → (∀ x ∈ s.allQueued, x.due s.cyc = false) → s.tilesFor q = some ts → s.barriersFree q ts = true → s.gensReady q ts = true → q.only = none →
      ∃ u, exec .launchBind s = .next u ∧ u = s.bindLaunch q ts ∧ ∃ y, u.launches = s.launches ++ [y] ∧ y.num = q.num ∧ y.lrec = q.lrec ∧
        y.tenant = q.tenant ∧ y.ranks.length = q.lrec.tiles) ∧
    (s.allQueued[s.pick]? = some q → q.due s.cyc = true → exec .aging s = .next (s.setQueue q.lrec ((s.queueOf q.lrec).map fun x =>
      if x.num = q.num && x.only = q.only then { x with aged := x.aged + 1 } else x))) ∧
    (s.tasks[s.pick]? = some k → s.launchOf k.launch = some l → k.scHalted = true → k.icHalted = true → (s.tile k.tile).held = none →
      (∀ c ∈ s.ctxs, c.task = k.num → c.kind = .task → s.unperformed c = false) → (l.root = none ∨ s.fifo.length < 512) →
      ∃ u, exec .tileTaskEnd s = .next u ∧ u = (s.leaveTile k l.tenant k.token).endRank k.launch k.rank ∧ ∀ x ∈ u.tasks, x.num ≠ k.num) ∧
    (s.pick < 64 → (s.tile (Loc.ofIdx s.pick)).retain = some r → r.since + 2 ^ 20 ≤ s.cyc → ∃ u, exec .retainExpire s = .next u ∧
      (u.tile (Loc.ofIdx s.pick)).retain = none ∧ u.tasks = s.tasks ∧ u.launches = s.launches) ∧
    (s.tasks[s.pick]? = some k → s.launchOf k.launch = some l → (s.canMigrate k = true → s.migrateTo k l = some t →
        ∃ u, exec .migrate s = .next u ∧ ∀ x ∈ u.tasks, x.num = k.num → x.tile = t ∧ x.moving = true) ∧
      (k.moving = true → ∃ u, exec .migrate s = .next u ∧ ∀ x ∈ u.tasks, x.num = k.num → x.moving = false))

/-- R337, R338, R339, R345, R346: a seize message takes an armed tile, which is to be released again where the thread that seized it has halted,
or leaves it alone, a releasing tile is free of its guests, its re-arm ends; a pre-emption order
freezes the one task of its tile, and its save ends with the task off the tile and its area known. The phases of a pre-emption are instants (log entry 68). -/
def SeizureRows : Prop :=
  ∀ (s : State) (uid i area : Nat) (t : Loc) (a : Arming) (j : Job) (k : Task) (h : Preempt),
    (s.seizing[s.pick]? = some (uid, i) → (s.tile (Loc.ofIdx i)).arming = some a →
      ((s.ctxOf uid).map fun c => c.launch) = some a.launch → (s.tile (Loc.ofIdx i)).seizedBy = none → (s.tile (Loc.ofIdx i)).rearming = false →
      s.inService (Loc.ofIdx i) = true →
      ∃ u, exec .seizeMessage s = .next u ∧ (u.tile (Loc.ofIdx i)).seizedBy = some a.launch ∧ u.mem = s.mem ∧
        ((s.ctxOf uid).any (fun c => c.isThread && c.halted) = true → (u.tile (Loc.ofIdx i)).releasing = true)) ∧
    (s.seizing[s.pick]? = some (uid, i) → (s.tile (Loc.ofIdx i)).arming = none →
      exec .seizeMessage s = .next (s.updCtx uid fun c => { c with jobs := c.jobs.map (Job.tileDone i false false) })) ∧
    (((s.tilesOf false).filter fun t => (s.tile t).releasing && s.guestsIdle t)[s.pick]? = some t → ∃ u, exec .tileRelease s = .next u ∧
      (u.tile t).seizedBy = none ∧ (u.tile t).releasing = false ∧ (u.tile t).rearming = true) ∧
    (((s.tilesOf false).filter fun t => (s.tile t).rearming)[s.pick]? = some t →
      exec .rearm s = .next (s.setTile t { s.tile t with rearming := false })) ∧
    (s.orders[s.pick]? = some (uid, j, t, area) →
      ((s.tasks.filter fun k => k.tile = t) = [] → exec .preemptOrderArrival s = .next (s.updCtx uid fun c => c.jobFill j 0)) ∧
      ((s.tasks.filter fun k => k.tile = t) = [k] → (s.tile t).held = none → exec .preemptOrderArrival s = .next
        ((s.freeze k area (((s.launchOf k.launch).map fun l => l.lrec.spad).getD 0)).updCtx uid fun c => c.jobFill j 1))) ∧
    ((((s.tilesOf false).filterMap fun t => (s.tile t).held.bind fun h => (s.taskOf h.task).map fun k => (h, k)).filter
        fun x => s.taskQuiet x.2 && (s.tile x.2.tile).fpWindow = [])[s.pick]? = some (h, k) → ∃ u, exec .preemptSaveDone s = .next u ∧ (∀ x ∈ u.tasks, x.num ≠ k.num) ∧
      ∃ v ∈ u.saved, v.key = h.area ∧ v.task = k.num ∧ v.taskRec = some k)

/-- The event rows of the units that contexts share. -/
def Obligations.SharedEvents : Prop := EngineRows ∧ SquareRows ∧ SharedRows ∧ InterchangeRows ∧ SchedRules ∧ SchedulerRows ∧ SeizureRows

/-! ## Event rows: the world outside (R268, R349, R352, R371 to R374, R408 to R412, R416 to R419, R421, R423, R438) -/

/-- R372, R373, R374: the commands of OWNER by a master that names the epoch: CLAIM of a free module, BEAT, NAME and RESIGN by the owner, ACK by
the named successor, CLEAR by the firmware; with another epoch, or by one that is no master of this part (the spare module without a spare
link), nothing happens; a lease, the rest of which passes at once (log entry 80), runs
out with the first cycle of its last unit (log entry 120). -/
def OwnerRows : Prop :=
  ∀ (m arg : BitVec 8) (e : BitVec 16) (lease : BitVec 32) (s : State),
    let load : BitVec 32 := if lease = 0 then 1 else lease
    let owned (m : BitVec 8) : State := { s with own := m, succ := 0, left := load, leaseCyc := 0, epoch := s.epoch + 1 }
    let free : State := { s with own := 0, succ := 0, left := 0, leaseCyc := 0, epoch := s.epoch + 1 }
    (s.hasMaster m = true → e = s.epoch →
      (s.own = 0 ∨ s.left = 0 → exec (.claim m e lease) s = .next (owned m)) ∧
      (s.own = m → s.left ≠ 0 → exec (.beat m e lease) s = .next { s with left := load, leaseCyc := 0 }) ∧
      (s.own = m → s.left ≠ 0 → isMaster arg = true → arg ≠ m → exec (.nameSucc m e arg) s = .next { s with succ := arg }) ∧
      (s.succ = m → s.left ≠ 0 → exec (.ackOwner m e lease) s = .next (owned m)) ∧
      (s.own = m → exec (.resign m e) s = .next free)) ∧
    (e = s.epoch → exec (.clearOwner e) s = .next free) ∧
    (s.hasMaster m = (isMaster m && (m ≠ 0x40 || s.spare)) ∧ (s.hasMaster m = false →
      ∀ i ∈ [Instr.claim m e lease, .beat m e lease, .nameSucc m e arg, .ackOwner m e lease, .resign m e, .mreset m (w64 lease.toNat)],
        exec i s = .next s)) ∧
    (e ≠ s.epoch → ∀ i ∈ [Instr.claim m e lease, .beat m e lease, .nameSucc m e arg, .ackOwner m e lease, .resign m e, .clearOwner e],
      exec i s = .next s) ∧
    (s.own ≠ 0 → s.left ≠ 0 → s.leaseCyc < 1024 →
      let n := (s.left.toNat - 1) * 1024 + if s.leaseCyc = 0 then 1 else 1025 - s.leaseCyc
      let u := s.passTime n
      exec .leaseExpire s = .next u ∧ (s.calm = true → u.left = 0 ∧ u.own = s.own ∧ u.cyc = s.cyc + n ∧ (s.ewq = [] → u.mem = s.mem)))

/-- R408, R409, R416 to R419, R421: the host kicks and accesses DRAM; frames come, go and are dropped (log entry 77); time is disciplined (log
entry 79); the SMBus selects (low byte first, log entry 8), reads and writes a management register. -/
def LinkRows : Prop :=
  ∀ (vf q : BitVec 4) (off len c i h : Nat) (bs : List Byte) (port ok slew : Bool) (pcp : R3) (ety : BitVec 16) (amount : Int) (iss : Issuer) (s : State),
    (q.toNat < 4 → exec (.hostKick vf q) s = .next { s with kicks := s.kicks ||| w64 (2 ^ (4 * vf.toNat + q.toNat)) }) ∧
    (off + bs.length ≤ s.dramBytes → (∀ k, k < bs.length → s.busy ((off + k) / 32) true = false) →
      ∃ u, exec (.hostDramRequest none off (some bs) len) s = .next u ∧ u.mem = Mem.write s.mem off bs ∧ u.tiles = s.tiles ∧ u.c.acc = s.c.acc) ∧
    (s.dramBytes < off + bs.length → bs ≠ [] → exec (.hostDramRequest none off (some bs) len) s = .next s) ∧
    (s.fport port = true → ety ≠ 0x88F7 → s.classOf port pcp ety = none → exec (.frameReceive port pcp ety bs) s = .next s) ∧
    (s.fport port = true → ety ≠ 0x88F7 → s.classOf port pcp ety = some c →
      let r := s.ring (b2n port * 5 + c)
      (r.started = false → ∃ u, exec (.frameReceive port pcp ety bs) s = .next u ∧ u.mem = s.mem ∧
        u.rings = s.rings.set (b2n port * 5 + c) { r with drops := Min.min (r.drops + 1) (2 ^ 32 - 1) }) ∧
      (r.header r.pos = some h → s.portIssuer (ringTile r.words[0]) = some iss → r.started = true → s.hasTile (ringTile r.words[0]) = true → r.inside = true →
        bs.length ≤ 2016 → (s.gran h).full = false → (s.gran h).poison = false →
        exec (.frameReceive port pcp ety bs) s = .next (s.deliver (b2n port * 5 + c) port c iss bs))) ∧
    (s.pick < 2 → s.sendable (s.pick = 1) = some (i, h, iss) → ∃ u, exec .frameTransmit s = .next u ∧
      let t := ringTile (s.ring i).words[0]
      let at' := (s.ring i).slotOff (s.ring i).pos
      u.sent = s.sent ++ [(decide (s.pick = 1), s.readLocal iss t (at' + 32) (Min.min (leNat (s.readLocal iss t (at' + 8) 2)) 2016))]) ∧
    (s.pick < 2 → s.fport (s.pick = 1) = true → exec .ptpFrame s = .next { s with ptp := some (decide (s.pick = 1), s.timeNs) }) ∧
    (s.fport false = true ∨ s.fport true = true →
      (if slew then amount.natAbs * 2000 ≤ (s.refTicks - s.slewAt) * 5 / 7 else 1000000 < amount.natAbs) →
      ∃ u, exec (.timensDiscipline slew amount) s = .next u ∧ u.timeNs = s.timeNs + amount ∧ u.slewAt = s.refTicks ∧ u.mem = s.mem ∧ u.c = s.c) ∧
    (bs.length = 2 → leNat bs % 8 = 0 → exec (.smbusSetPointer bs true) s = .next { s with smbPtr := leNat bs }) ∧
    exec (.smbusRead true) s = .next { s with smbOut := leBytes 8 (s.mgmtRead 0x30 s.smbPtr).toNat } ∧
    (bs.length = 8 → exec (.smbusWrite bs true) s = .next (s.mgmtWrite 0x30 s.smbPtr (w64 (leNat bs)))) ∧
    (ok = false → exec (.smbusSetPointer bs ok) s = .next s ∧ exec (.smbusRead ok) s = .next s ∧ exec (.smbusWrite bs ok) s = .next s)

/-- R351, R410, R411, R412: the device commands end, each in one step of the firmware (log entry 72), with their result in DSTAT: ADMIT by its
checks and writes, REMOVE with the tenant no longer admitted, SEIZE with SEIZECFG, FWUPD with the image or a flash write that fails (log entry
73); a write of MRESET by a master resets the module with 0x5E5E and is refused while another owns the module. -/
def DeviceRows : Prop :=
  ∀ (d : Word) (a : Admission) (m : BitVec 8) (v : Word) (s w : State),
    let res (op r : Nat) (u : State) : State := { u with dstat := w64 (op * 256 + r) }
    (s.serves' 1 d = true →
      (s.readAdmission d.toNat = none → exec (.admitTenant d) s = .next (res 1 2 s)) ∧
      (s.readAdmission d.toNat = some a → (s.tenant a.ten).admitted = true → exec (.admitTenant d) s = .next (res 1 4 s)) ∧
      (s.readAdmission d.toNat = some a → (s.tenant a.ten).admitted = false → s.admitTaken a = true →
        exec (.admitTenant d) s = .next (res 1 3 s)) ∧
      (s.readAdmission d.toNat = some a → (s.tenant a.ten).admitted = false → s.admitTaken a = false → s.admitTo a = some w →
        exec (.admitTenant d) s = .next (res 1 0 w))) ∧
    (s.serves' 2 d = true → let t := d.toNat % 16
      ((s.tenant t).admitted = false → exec (.removeTenant d) s = .next (res 2 4 s)) ∧
      ((s.tenant t).admitted = true → ∃ u, exec (.removeTenant d) s = .next u ∧ u.dstat = w64 0x200 ∧ (u.tenant t).admitted = false ∧
        ∀ l ∈ u.launches, l.tenant ≠ t)) ∧
    (s.serves' 3 d = true → exec (.dcmdSeize d) s = .next (res 3 0 { s with seizecfg := d &&& w64 s.seizeMask })) ∧
    (s.serves' 4 d = true →
      let len := leNat (Mem.bytes s.mem d.toNat 4)
      let image := Mem.bytes s.mem (d.toNat + 16) len
      d.toNat % 64 = 0 → d.toNat + 16 + len ≤ s.dramBytes → leNat (Mem.bytes s.mem (d.toNat + 8) 8) = 0 →
      (crc32 image).toNat = leNat (Mem.bytes s.mem (d.toNat + 4) 4) →
      exec (.fwupd d) s = .next (if s.pick = 0 then res 4 0 { s with altImage := some image } else res 4 5 s)) ∧
    (s.hasMaster m = true →
      (s.refuses m = true → exec (.mreset m v) s = .next (s.setRef m)) ∧
      (s.refuses m = false → exec (.mreset m 0x5E5E) s = .next s.moduleReset ∧ (v ≠ 0x5E5E → exec (.mreset m v) s = .next s)))

/-- R268, R349, R352, R371, R389, R410, R418, R423, R438: what a register write brings about, by whoever makes it. That a masked MSI-X vector is
held pending is log entry 116. -/
def RegisterRows : Prop :=
  ∀ (tid ten : BitVec 4) (w : R3) (n : BitVec 10) (v : Word) (core port : Bool) (vec : R3) (num : BitVec 12) (m : BitVec 8) (off : BitVec 12)
      (r : CsrReg) (s t : State),
    exec (.tenantSelect tid) s = .next { s with tid := tid.toNat } ∧
    (BitVec.ofNat 16 (bits v 63 48) = (s.tenant (bits v 3 0)).rfx → exec (.tenantEntryWrite v) s = .next
      (({ s with tid := bits v 3 0 } : State).setTenant (bits v 3 0) { s.tenant (bits v 3 0) with
        sqen := bit v 47, sqlast := bits v 46 37, sqfirst := bits v 36 27, escw := BitVec.ofNat 8 (bits v 23 16) })) ∧
    (s.tenants.length = 16 → ∃ u, exec (.ptbaseWrite ten v) s = .next u ∧ (u.tenant ten.toNat).ptbase = v &&& w64 0xF_FFFF_FFFF_F001 ∧ u.mem = s.mem ∧
      (∀ x ∈ u.tiles, ∀ e ∈ x.tlb, e.1 ≠ ten.toNat) ∧ ∀ x ∈ u.districts, ∀ e ∈ x.tlb, e.1 ≠ ten.toNat) ∧
    ((s.win w.toNat).tenant ≠ ten.toNat → s.escrow.length = 8 → ∃ u, exec (.escrowTenantChange w ten) s = .next u ∧
      (u.win w.toNat).tenant = ten.toNat ∧ (u.win w.toNat).entries = [] ∧ (u.win w.toNat).open_ = false ∧ (u.win w.toNat).joined = 0 ∧ u.mem = s.mem ∧
      (∀ c ∈ u.ctxs, ¬ (c.esEn = true ∧ c.esWin = w)) ∧ ∀ v ∈ u.saved, ∀ c ∈ v.ctxs, ¬ (c.esEn = true ∧ c.esWin = w)) ∧
    ((s.slot n.toNat).valid = false → ∃ u, exec (.slotValidSet n ten v) s = .next u ∧ u.mem = s.mem ∧
      (s.slotFits n.toNat (bits v 9 0) = true → (u.slot n.toNat).valid = true ∧ (u.slot n.toNat).tenant = ten.toNat ∧
        (u.slot n.toNat).size = bits v 9 0 ∧ (u.slot n.toNat).latest = none ∧ (u.slot n.toNat).count = 0) ∧
      (s.slotFits n.toNat (bits v 9 0) = false → (u.slot n.toNat).valid = false ∧ (u.slot n.toNat).nospace = true)) ∧
    ((s.slot n.toNat).valid = true → ∃ u, exec (.slotValidClear n) s = .next u ∧ (u.slot n.toNat).valid = false ∧
      (u.slot n.toNat).latest = none ∧ (u.slot n.toNat).bufs = [] ∧ u.mem = s.mem) ∧
    (w.toNat ≤ 4 → bit (s.ring (b2n port * 5 + w.toNat)).words[0] 63 = true → ∃ u, exec (.fieldRingStart port w) s = .next u ∧
      let x := u.ring (b2n port * 5 + w.toNat)
      x.started = true ∧ x.pos = 0 ∧ x.seq = 0 ∧ u.mem = s.mem) ∧
    (bit v 63 = true → bit s.ewctl 63 = false → ∃ u, exec (.ewctlEnable v) s = .next u ∧ bit u.ewctl 63 = true ∧ u.ewhead = 0 ∧ u.ewtail = 0 ∧
      u.mem = s.mem) ∧
    (CsrReg.ofNum num.toNat = some r → csrLevel num.toNat ≤ s.c.prv.code →
      (r = .dsig ∧ s.c.isDisp = false → exec (.registerWrite (.csr num) v) s = .next s) ∧
      (r ≠ .dsig ∨ s.c.isDisp = true → s.csrWrite r v = some t → exec (.registerWrite (.csr num) v) s = .next t)) ∧
    (s.hasMaster m = true → exec (.registerWrite (.mgmt m 0x88 none) v) s = .next (if s.refuses m then s.setRef m else { s with darg := v })) ∧
    (off.toNat % 8 = 0 → s.hasMaster m = false → exec (.registerWrite (.mgmt m off none) v) s = .next s) ∧
    (∃ u, exec (.dsigKick core ten) s = .next u ∧ u.mem = s.mem ∧ (s.kicked ten.toNat s.c = true → u.c.ipend.getLsbD 4 = true)) ∧
    (ten.toNat < s.msixFns.length → ∃ u, exec (.dsigMsix core ten vec) s = .next u ∧ u.mem = s.mem ∧ u.c = s.c ∧
      if (s.msixVec ten.toNat vec.toNat).masked then
        u.msix = s.msix ∧ (u.msixFns.getD ten.toNat {}).pending.getLsbD vec.toNat = true
      else u.msix = s.msix ++ [(ten.toNat, vec.toNat)] ∧ u.msixFns = s.msixFns)

/-- The event rows of the host, the masters, the links and the registers. -/
def Obligations.OutsideEvents : Prop := OwnerRows ∧ LinkRows ∧ DeviceRows ∧ RegisterRows

/-! ## Event rows: failures, power, boot, the hot spare (R13, R40, R203, R253, R391, R394, R399, R404 to R407, R414, R424, R425) -/

/-- R7, R391, R394, R399, R404, R407: a mismatch is retried and counted or kills the core; a core killed, an uncorrectable error, a corrected one,
an injection at its flit (log entry 100), a retraining and a failure of the dispatch core that State.pick names (log entry 73) do what the
rules give them. -/
def FailureRows : Prop :=
  ∀ (n : CoreName) (b : Bool) (cause : Byte) (t : Option CoreName) (l : Loc) (g pa : Nat) (why : BitVec 2) (x : Injector) (s : State),
    (s.sclen = true → s.hasTile n.tile = true → (s.coreAt n).killed = false →
      exec (.checkerMismatch (.tile n) false) s = .next (s.corrected n) ∧
        exec (.checkerMismatch (.tile n) true) s = .next (s.hardKill n 0x1A)) ∧
    (s.dispAlive b = true →
      (s.sclen = true → exec (.checkerMismatch (.dispatch b) false) s = .next s.countCorr ∧
        exec (.checkerMismatch (.dispatch b) true) s = .next (s.dispCheck b 2)) ∧
      exec (.eccUncorrectable (.dispatchMemory b)) s = .next (s.dispCheck b 1) ∧
      exec (.eccUncorrectable (.dispatchState b)) s = .next (s.dispCheck b 3)) ∧
    (s.hasTile n.tile = true → (s.coreAt n).killed = false → (cause = 0x1A ∨ cause = 0x16 ∨ cause = 1) →
      exec (.coreKill n cause) s = .next (s.hardKill n cause) ∧ exec (.eccUncorrectable (.coreState n)) s = .next (s.hardKill n 1)) ∧
    (let poisons (site : EccSite) (k : Nat) : Prop :=
        exec (.eccUncorrectable site) s = .next (s.setGran (k / 32) { s.gran (k / 32) with poison := true })
     (s.hasTile l = true → g * 32 < tileSize l → poisons (.granule l g) (tileKey l (g * 32))) ∧ (pa < s.dramBytes → poisons (.sector pa) pa)) ∧
    (s.hasTile n.tile = true → exec (.eccUncorrectable (.icache n)) s = .next s) ∧
    ((∀ n, t = some n → s.hasTile n.tile = true) →
      exec (.correctedError t) s = .next (s.trace 11 none (t.map fun n => coreCode n.tile n.ic))) ∧
    (∀ n, t = some n → s.hasTile n.tile = false → exec (.correctedError t) s = .next s) ∧
    ((s.injectors.filter fun x => x.armed && x.seen + 1 = x.at')[s.pick]? = some x → bits x.dat 63 62 ≠ 1 → ∃ u, exec .injection s = .next u ∧
      u.injectors = (s.injectors.map fun y => if y.sel = x.sel then { y with armed := false, fired := true } else y) ∧ u.mem = s.mem ∧ u.c = s.c) ∧
    (s.spare = true → exec .spareLinkRetrain s = .next (s.mapCtx Ctx.loseTagged)) ∧
    (why ≠ 0 → (s.pick = 0 → s.dispAlive s.standbyLeads = true →
        exec (.dispatchTakeover why) s = .next (s.dispCheck s.standbyLeads why.toNat)) ∧
      (s.pick ≠ 0 → s.dispAlive true = true → exec (.dispatchTakeover why) s = .next (s.dispCheck true why.toNat))) ∧
    (s.pick = 0 → why ≠ 0 → s.dstby = true → (s.disp.toList.getD 0 {}).alive = true → ∃ u, exec (.dispatchTakeover why) s = .next u ∧ u.standbyLeads = true ∧
      u.mem = s.mem ∧ ∀ c ∈ u.ctxs, (c.place = .dispatch false → c.halted = true) ∧
        (c.place = .dispatch true → c.halted = false ∧ c.prv = .m ∧ c.pc = c.tvec ∧ c.trap.cause = 0x1A ∧ c.trap.val = w64 why.toNat)) ∧
    (s.pick = 0 → why ≠ 0 → s.dstby = false → s.dispAlive s.standbyLeads = true → ∃ u, exec (.dispatchTakeover why) s = .next u ∧
      (∀ c ∈ u.ctxs, c.place = .dispatch s.standbyLeads → c.halted = true) ∧ u.active = false ∧ u.mem = s.mem) ∧
    (s.pick ≠ 0 → why ≠ 0 → s.standbyLeads = false → s.dispAlive true = true → ∃ u, exec (.dispatchTakeover why) s = .next u ∧
      u.dstby = false ∧ u.standbyLeads = false ∧ ∀ c ∈ u.ctxs, c.place = .dispatch true → c.halted = true)

/-- R40, R405, R406, R414, R424, R425: boot by the codes that may follow the last attempt's (log entry 122), reset and power (log entry 74), with
the dispatch contexts as log entry 3 and unwritten DRAM as log entry 10 has them; the hot spare's versions and journal records (log entry 102),
its ACTIVE pin, whose tie State.pick may decide (log entry 73), and its takeover (log entry 72). -/
def PowerRows : Prop :=
  ∀ (codes : List (BitVec 4)) (mhz : BitVec 32) (mw : Nat) (tj : BitVec 16) (slot units : BitVec 10) (ver stamp : Word) (wrank uf : BitVec 32)
      (bs : List Byte) (s : State),
    (s.powered = true → s.booted = false → s.bootCodes (codes.map BitVec.toNat) = true → s.bootTries < 4 →
      mhz.toNat = (if [4, 5, 8, 9].any fun k => codes.getD (k - 1) 0 = 4 || codes.getD (k - 1) 0 = 5 then 1200 else 1400) →
      ∃ u, exec (.boot codes mhz) s = .next u ∧ u.boots = s.boots + 1 ∧ u.bootTries = s.bootTries + 1 ∧ u.mem = s.mem ∧
        ((∀ c ∈ codes, c = 1 ∨ c = 3 ∨ c = 4) → u.booted = true ∧ u.own = 0 ∧ u.epoch = 0) ∧
        ((∃ c ∈ codes, c ≠ 1 ∧ c ≠ 3 ∧ c ≠ 4) → u.booted = false)) ∧
    (s.powered = false → ∃ u, exec .powerOn s = .next u ∧ u.powered = true ∧ u.booted = false ∧ u.mem = [] ∧ u.grans = [] ∧ u.c = State.reset.c ∧
      u.bootTries = 0 ∧ u.cyc = 0 ∧ u.capsReg = s.board ∧ u.devid = s.devid) ∧
    (s.powered = true → exec .powerDown s = .next { s with powered := false, active := false }) ∧
    (s.powered = true → ∃ u, exec .moduleReset s = .next u ∧ u.c = State.reset.c ∧ u.others = State.reset.others ∧ u.tiles = State.reset.tiles ∧
      u.grans = [] ∧ u.cyc = 0 ∧ u.booted = false ∧ (∀ k, k < 2 ^ 60 → Mem.byte u.mem k = Mem.byte s.mem k) ∧
      ∀ k, 2 ^ 60 ≤ k → Mem.byte u.mem k = 0) ∧
    (∃ u, exec (.powerInterval mw tj) s = .next u ∧ u.mem = s.mem ∧ u.c = s.c ∧ BitVec.ofNat 16 u.temp.toNat = tj ∧
      (1000 * s.powerLimit (bits s.pwrmode 1 0) < mw → u.clockStep = Min.min 3 (s.clockStep + 1))) ∧
    (s.active = false → s.activeFrom ≤ s.cyc → exec .activeAssert s = .next { s with active := true } ∧
      exec .activeTie s = .next (if bit s.capsReg 10 = true ∨ s.pick = 1 then { s with activeFrom := s.cyc + 1028 } else { s with active := true }) ∧
      (s.spare = true → s.dispAlive s.standbyLeads = true → ∃ u, exec .failover s = .next u ∧ u.active = true ∧
        ∀ k, k < 2 ^ 60 → Mem.byte u.mem k = Mem.byte s.mem k)) ∧
    (s.spare = true → s.active = false → Memory.wf s.mem = true → bs.length = 64 → ∃ u, exec (.journalMirrorReceive bs) s = .next u ∧
      u.jrnlHead = (s.jrnlHead + 1) % 8192 ∧ u.c = s.c ∧
      ∀ j, j < 64 → Mem.byte u.mem (dispKey false (0x18_0000 + 64 * s.jrnlHead) + j) = bs.getD j 0) ∧
    (s.spare = true → s.active = false → (s.slot slot.toNat).valid = true → (s.slot slot.toNat).size = units.toNat →
      ∀ b, s.freeBuf (s.slot slot.toNat) = some b → ∃ u, exec (.mirrorReceive slot units ver stamp wrank uf bs) s = .next u ∧
        (u.slot slot.toNat).latest = some b ∧ (u.slot slot.toNat).count = ver ∧ u.mem = s.mem)

/-- The event rows of failures, power and the hot spare. -/
def Obligations.FailureEvents : Prop := FailureRows ∧ PowerRows

/-! ## The machine -/

/-- R45, R48, R49, R209: the words at PC are fetched in order and decoded for the context's core; the step executes the instruction they give, or ILLEGAL with R49's reason,
or the fault of the first word that cannot be fetched; and what follows an executed instruction (the checker, one cycle) follows it. A context that waited tries again in the
same way. -/
def Obligations.StepRunsDecoded : Prop :=
  ∀ (s : State) (ws : List Half) (e : Option (Fail × Word)) (t : State),
    s.powered = true → s.booted = true → s.inputs = [] → s.c.runs = true → atBoundary s = none →
    s.fetchWords (s.c.issuer s.c.defscope) s.c.pc maxWords = (ws, e, t) →
    let runs (i : Instr) (t : State) : Prop :=
      ∀ u, exec i t = .next u →
        (s.c.stalled = false → step s = .next ((t.checked i u).pass)) ∧
        (s.c.stalled = true → step s = .next (if u.c.uid = t.c.uid ∧ u.c.stalled = true then idle u else (t.checked i u).pass))
    (∀ i n, decode s.c.core ws = .ok i n → runs i t) ∧
    (∀ why word w, decode s.c.core ws = .bad why word w → runs (.illegalInstruction why word w) t) ∧
    (∀ cause va, decode s.c.core ws = .short → e = some (.cause cause, va) → runs (.fetchFault cause va) s)

/-- R44, R50, R51, R54, R57, R60, R62, R64: words written out from the encoding tables decode to what they stand for. -/
def Obligations.DecodeSpecWords : Prop :=
  -- add #5; st [p2+3]+; ldi #0; rep #8, #1 before add [p0+0]+
  decode .staging [0b0000100_110_000_101] = .ok (.add {} (.imm 5)) 1 ∧
  decode .staging [0b0000011_001_010_011] = .ok (.st {} ⟨.up, 2, 3⟩) 1 ∧
  decode .staging [0b0011110_000000000] = .ok (.ldi {} 0) 1 ∧
  decode .staging [0b1111110_001000_001, 0b0000100_001_000_000] = .ok (.add { rep := some ⟨[], 8, 1⟩ } (.mem ⟨.up, 0, 0⟩)) 2 ∧
  -- a branch on condition 1 to itself less 2; acas with acquire; pfx.v with km 3 and rtz before vsel on page 1; csrw 0x103 on page 3
  decode .staging [0b0110000_0001_11110] = .ok (.bcc {} 1 0b11110) 1 ∧
  decode .staging [0b1011001_01_010_011_0] = .ok (.acas {} 1 2 3 false) 1 ∧
  decode .staging [0b1111001_0000000_01, 0b1111100_011_0_001_00, 0b101_1_0_0_0000000000, 0b0010100_001_010_011] =
    .ok (.vsel { v := some ⟨3, false, 1, 5, true, false, false⟩ } 1 2 3) 4 ∧
  decode .staging [0b1111001_0000000_11, 0b0000010_100000011] = .ok (.csrw {} 0x103) 2 ∧
  -- an unassigned opcode, a reserved page, a prefix that NOP does not accept, MMA on a staging core
  decode .staging [0b0000000_000000000] = .bad 1 0 0 ∧
  decode .staging [0b1111001_0000000_00, 0b0000001_000000000] = .bad 2 0 0xF200 ∧
  decode .staging [0b1111011_000000010, 0b0000001_000000000] = .bad 4 0 0xF602 ∧
  decode .staging [0b1111001_0000000_10, 0b0000001_000_000_110] = .bad 6 1 0x0206

/-- The core has the unit that the instruction acts on (R49's WHY 6). -/
def onCore (k : CoreKind) (i : Instr) : Bool :=
  match scan {} (encode i) with
  | .ok c w => !unitAbsent k c.page w && !dsigAbsent k c w
  | _ => false

/-- R48, R50 to R54, R57, R60 to R62, R64: every well-formed instruction with an encoding, with every operand and every leading words that it accepts, decodes from its own
words to itself on every core that has its unit, whatever follows. -/
def Obligations.DecodeEncode : Prop :=
  ∀ (i : Instr) (k : CoreKind) (rest : List Half), i.wf = true → encode i ≠ [] → onCore k i = true →
    decode k (encode i ++ rest) = .ok i (encode i).length

/-- The storage and the granules' states keep the canonical form in every step: addresses rise, and what reads as unwritten storage is not
listed. The form is the model's own, as are its numbers for places (log entry 107). -/
def Obligations.StepKeepsCanonical : Prop :=
  ∀ s t : State, s.Canonical → step s = .next t → t.Canonical

/-- R17, R30 to R37, R40, R42, R155, R211, R333, R373, R393, R401, R402, R423, R424: what module reset leaves by the field maps and by R211. The dispatch context's own
field-map values after module reset are the model's choice (log entry 3). -/
def Obligations.ResetState : Prop :=
  State.reset.Canonical ∧
  (∀ t o, State.reset.gran (tileKey t o / 32) = {} ∧ Mem.byte State.reset.mem (tileKey t o) = 0) ∧
  State.reset.cyc = 0 ∧ State.reset.timeNs = 0 ∧ (∀ t ∈ State.reset.tiles, t.banks[2] = {}) ∧
  (∀ x ∈ [(CsrReg.chkcfg, (3 : Word)), (.owner, 0), (.jrnlbase, 0), (.kickbase, 0), (.seizecfg, 0), (.cyc, 0), (.timens, 0)],
    State.reset.csrRead x.1 = x.2) ∧
  (∀ x ∈ [(0x000, (0 : Word)), (0x018, 0x690001), (0x020, 0), (0x040, 0), (0x048, 0x0C00_FFFF_0000_3FFE), (0x050, 0), (0x058, 0)],
    State.reset.mgmtRead 0x10 x.1 = x.2) ∧
  State.reset.c.flags = ⟨false, false, false, false⟩ ∧
  (∀ x ∈ [(CsrReg.fctl, (0 : Word)), (.fflags, 0), (.fepol, 0), (.festat, 0x1FFFF), (.genrd, 0), (.genpol, 0), (.defscope, 2), (.esctx, 0),
      (.mfmt, 0x70D0D), (.mscla, 0x807F), (.msclb, 0x807F), (.mgeo0, 0x10101), (.mgeo1, 0), (.msat, 0), (.msclo, 0x7F), (.sthr, 0), (.slim, 32),
      (.vocabn, 0xFFFFFFFF), (.vocabp, 0xFFFFFFFF), (.qdim, 0), (.qidx, 0), (.qsrd, 0), (.vshare, 8), (.ien, 0), (.ipend, 0), (.tvec, 0),
      (.tcause, 0), (.tpc, 0), (.tval, 0), (.tstat, 0), (.tscratch, 0)], State.reset.csrRead x.1 = x.2) ∧
  ∀ n : R3, State.reset.csrRead (.pbase n) = 0 ∧ State.reset.csrRead (.pspan n) = 0 ∧ State.reset.csrRead (.pstep n) = 0 ∧
    State.reset.csrRead (.ptype n) = 6
end

