-- ==== Sys2Proof/Laws/State.lean ====
section
/-! SUPPORT. What each update of the state and of a context leaves: one lemma for each field, true by unfolding. -/

namespace Sys2Proof.Machine

/-! Updates of the module's state. -/

@[simp] theorem State.setGran_c (s : State) (g : Nat) (x : Gran) : (s.setGran g x).c = s.c := rfl
@[simp] theorem State.setGran_others (s : State) (g : Nat) (x : Gran) : (s.setGran g x).others = s.others := rfl
@[simp] theorem State.setGran_next (s : State) (g : Nat) (x : Gran) : (s.setGran g x).next = s.next := rfl
@[simp] theorem State.setGran_mem (s : State) (g : Nat) (x : Gran) : (s.setGran g x).mem = s.mem := rfl
@[simp] theorem State.setGran_tiles (s : State) (g : Nat) (x : Gran) : (s.setGran g x).tiles = s.tiles := rfl
@[simp] theorem State.setGran_districts (s : State) (g : Nat) (x : Gran) : (s.setGran g x).districts = s.districts := rfl
@[simp] theorem State.setGran_arrayQ (s : State) (g : Nat) (x : Gran) : (s.setGran g x).arrayQ = s.arrayQ := rfl
@[simp] theorem State.setGran_arrayV (s : State) (g : Nat) (x : Gran) : (s.setGran g x).arrayV = s.arrayV := rfl
@[simp] theorem State.setGran_launches (s : State) (g : Nat) (x : Gran) : (s.setGran g x).launches = s.launches := rfl
@[simp] theorem State.setGran_tasks (s : State) (g : Nat) (x : Gran) : (s.setGran g x).tasks = s.tasks := rfl
@[simp] theorem State.setGran_colls (s : State) (g : Nat) (x : Gran) : (s.setGran g x).colls = s.colls := rfl
@[simp] theorem State.setGran_waiters (s : State) (g : Nat) (x : Gran) : (s.setGran g x).waiters = s.waiters := rfl
@[simp] theorem State.setGran_tenants (s : State) (g : Nat) (x : Gran) : (s.setGran g x).tenants = s.tenants := rfl
@[simp] theorem State.setGran_tid (s : State) (g : Nat) (x : Gran) : (s.setGran g x).tid = s.tid := rfl
@[simp] theorem State.setGran_slots (s : State) (g : Nat) (x : Gran) : (s.setGran g x).slots = s.slots := rfl
@[simp] theorem State.setGran_square (s : State) (g : Nat) (x : Gran) : (s.setGran g x).square = s.square := rfl
@[simp] theorem State.setGran_escrow (s : State) (g : Nat) (x : Gran) : (s.setGran g x).escrow = s.escrow := rfl
@[simp] theorem State.setGran_pcap (s : State) (g : Nat) (x : Gran) : (s.setGran g x).pcap = s.pcap := rfl
@[simp] theorem State.setGran_caps (s : State) (g : Nat) (x : Gran) : (s.setGran g x).caps = s.caps := rfl
@[simp] theorem State.setGran_board (s : State) (g : Nat) (x : Gran) : (s.setGran g x).board = s.board := rfl
@[simp] theorem State.setGran_capsReg (s : State) (g : Nat) (x : Gran) : (s.setGran g x).capsReg = s.capsReg := rfl
@[simp] theorem State.setGran_devid (s : State) (g : Nat) (x : Gran) : (s.setGran g x).devid = s.devid := rfl
@[simp] theorem State.setGran_cyc (s : State) (g : Nat) (x : Gran) : (s.setGran g x).cyc = s.cyc := rfl
@[simp] theorem State.setGran_refTicks (s : State) (g : Nat) (x : Gran) : (s.setGran g x).refTicks = s.refTicks := rfl
@[simp] theorem State.setGran_refFrac (s : State) (g : Nat) (x : Gran) : (s.setGran g x).refFrac = s.refFrac := rfl
@[simp] theorem State.setGran_timeOff (s : State) (g : Nat) (x : Gran) : (s.setGran g x).timeOff = s.timeOff := rfl
@[simp] theorem State.setGran_slewAt (s : State) (g : Nat) (x : Gran) : (s.setGran g x).slewAt = s.slewAt := rfl
@[simp] theorem State.setGran_chkcfg (s : State) (g : Nat) (x : Gran) : (s.setGran g x).chkcfg = s.chkcfg := rfl
@[simp] theorem State.setGran_injsel (s : State) (g : Nat) (x : Gran) : (s.setGran g x).injsel = s.injsel := rfl
@[simp] theorem State.setGran_injectors (s : State) (g : Nat) (x : Gran) : (s.setGran g x).injectors = s.injectors := rfl
@[simp] theorem State.setGran_own (s : State) (g : Nat) (x : Gran) : (s.setGran g x).own = s.own := rfl
@[simp] theorem State.setGran_succ (s : State) (g : Nat) (x : Gran) : (s.setGran g x).succ = s.succ := rfl
@[simp] theorem State.setGran_epoch (s : State) (g : Nat) (x : Gran) : (s.setGran g x).epoch = s.epoch := rfl
@[simp] theorem State.setGran_left (s : State) (g : Nat) (x : Gran) : (s.setGran g x).left = s.left := rfl
@[simp] theorem State.setGran_leaseCyc (s : State) (g : Nat) (x : Gran) : (s.setGran g x).leaseCyc = s.leaseCyc := rfl
@[simp] theorem State.setGran_jrnlMir (s : State) (g : Nat) (x : Gran) : (s.setGran g x).jrnlMir = s.jrnlMir := rfl
@[simp] theorem State.setGran_jrnlCkpt (s : State) (g : Nat) (x : Gran) : (s.setGran g x).jrnlCkpt = s.jrnlCkpt := rfl
@[simp] theorem State.setGran_jrnlHead (s : State) (g : Nat) (x : Gran) : (s.setGran g x).jrnlHead = s.jrnlHead := rfl
@[simp] theorem State.setGran_jrnlSeq (s : State) (g : Nat) (x : Gran) : (s.setGran g x).jrnlSeq = s.jrnlSeq := rfl
@[simp] theorem State.setGran_kickNext (s : State) (g : Nat) (x : Gran) : (s.setGran g x).kickNext = s.kickNext := rfl
@[simp] theorem State.setGran_kicks (s : State) (g : Nat) (x : Gran) : (s.setGran g x).kicks = s.kicks := rfl
@[simp] theorem State.setGran_fifo (s : State) (g : Nat) (x : Gran) : (s.setGran g x).fifo = s.fifo := rfl
@[simp] theorem State.setGran_seizecfg (s : State) (g : Nat) (x : Gran) : (s.setGran g x).seizecfg = s.seizecfg := rfl
@[simp] theorem State.setGran_launchTags (s : State) (g : Nat) (x : Gran) : (s.setGran g x).launchTags = s.launchTags := rfl
@[simp] theorem State.setGran_rootsDue (s : State) (g : Nat) (x : Gran) : (s.setGran g x).rootsDue = s.rootsDue := rfl
@[simp] theorem State.setGran_disp (s : State) (g : Nat) (x : Gran) : (s.setGran g x).disp = s.disp := rfl
@[simp] theorem State.setGran_standbyLeads (s : State) (g : Nat) (x : Gran) : (s.setGran g x).standbyLeads = s.standbyLeads := rfl
@[simp] theorem State.setGran_pwrmode (s : State) (g : Nat) (x : Gran) : (s.setGran g x).pwrmode = s.pwrmode := rfl
@[simp] theorem State.setGran_temp (s : State) (g : Nat) (x : Gran) : (s.setGran g x).temp = s.temp := rfl
@[simp] theorem State.setGran_ewbase (s : State) (g : Nat) (x : Gran) : (s.setGran g x).ewbase = s.ewbase := rfl
@[simp] theorem State.setGran_ewctl (s : State) (g : Nat) (x : Gran) : (s.setGran g x).ewctl = s.ewctl := rfl
@[simp] theorem State.setGran_ewhead (s : State) (g : Nat) (x : Gran) : (s.setGran g x).ewhead = s.ewhead := rfl
@[simp] theorem State.setGran_ewtail (s : State) (g : Nat) (x : Gran) : (s.setGran g x).ewtail = s.ewtail := rfl
@[simp] theorem State.setGran_ewdrop (s : State) (g : Nat) (x : Gran) : (s.setGran g x).ewdrop = s.ewdrop := rfl
@[simp] theorem State.setGran_ewq (s : State) (g : Nat) (x : Gran) : (s.setGran g x).ewq = s.ewq := rfl
@[simp] theorem State.setGran_darg (s : State) (g : Nat) (x : Gran) : (s.setGran g x).darg = s.darg := rfl
@[simp] theorem State.setGran_dstat (s : State) (g : Nat) (x : Gran) : (s.setGran g x).dstat = s.dstat := rfl
@[simp] theorem State.setGran_dcmdArg (s : State) (g : Nat) (x : Gran) : (s.setGran g x).dcmdArg = s.dcmdArg := rfl
@[simp] theorem State.setGran_mstat (s : State) (g : Nat) (x : Gran) : (s.setGran g x).mstat = s.mstat := rfl
@[simp] theorem State.setGran_smbPtr (s : State) (g : Nat) (x : Gran) : (s.setGran g x).smbPtr = s.smbPtr := rfl
@[simp] theorem State.setGran_smbOut (s : State) (g : Nat) (x : Gran) : (s.setGran g x).smbOut = s.smbOut := rfl
@[simp] theorem State.setGran_active (s : State) (g : Nat) (x : Gran) : (s.setGran g x).active = s.active := rfl
@[simp] theorem State.setGran_activeFrom (s : State) (g : Nat) (x : Gran) : (s.setGran g x).activeFrom = s.activeFrom := rfl
@[simp] theorem State.setGran_altImage (s : State) (g : Nat) (x : Gran) : (s.setGran g x).altImage = s.altImage := rfl
@[simp] theorem State.setGran_boots (s : State) (g : Nat) (x : Gran) : (s.setGran g x).boots = s.boots := rfl
@[simp] theorem State.setGran_bootTries (s : State) (g : Nat) (x : Gran) : (s.setGran g x).bootTries = s.bootTries := rfl
@[simp] theorem State.setGran_booted (s : State) (g : Nat) (x : Gran) : (s.setGran g x).booted = s.booted := rfl
@[simp] theorem State.setGran_bootStep (s : State) (g : Nat) (x : Gran) : (s.setGran g x).bootStep = s.bootStep := rfl
@[simp] theorem State.setGran_bootJrnl (s : State) (g : Nat) (x : Gran) : (s.setGran g x).bootJrnl = s.bootJrnl := rfl
@[simp] theorem State.setGran_rings (s : State) (g : Nat) (x : Gran) : (s.setGran g x).rings = s.rings := rfl
@[simp] theorem State.setGran_msix (s : State) (g : Nat) (x : Gran) : (s.setGran g x).msix = s.msix := rfl
@[simp] theorem State.setGran_msixFns (s : State) (g : Nat) (x : Gran) : (s.setGran g x).msixFns = s.msixFns := rfl
@[simp] theorem State.setGran_mirrored (s : State) (g : Nat) (x : Gran) : (s.setGran g x).mirrored = s.mirrored := rfl
@[simp] theorem State.setGran_mirrorOut (s : State) (g : Nat) (x : Gran) : (s.setGran g x).mirrorOut = s.mirrorOut := rfl
@[simp] theorem State.setGran_sent (s : State) (g : Nat) (x : Gran) : (s.setGran g x).sent = s.sent := rfl
@[simp] theorem State.setGran_ptp (s : State) (g : Nat) (x : Gran) : (s.setGran g x).ptp = s.ptp := rfl
@[simp] theorem State.setGran_saved (s : State) (g : Nat) (x : Gran) : (s.setGran g x).saved = s.saved := rfl
@[simp] theorem State.setGran_clockStep (s : State) (g : Nat) (x : Gran) : (s.setGran g x).clockStep = s.clockStep := rfl
@[simp] theorem State.setGran_powered (s : State) (g : Nat) (x : Gran) : (s.setGran g x).powered = s.powered := rfl
@[simp] theorem State.setGran_inputs (s : State) (g : Nat) (x : Gran) : (s.setGran g x).inputs = s.inputs := rfl
@[simp] theorem State.setGran_pick (s : State) (g : Nat) (x : Gran) : (s.setGran g x).pick = s.pick := rfl
@[simp] theorem State.setGran_slow (s : State) (g : Nat) (x : Gran) : (s.setGran g x).slow = s.slow := rfl
@[simp] theorem State.setGran_steps (s : State) (g : Nat) (x : Gran) : (s.setGran g x).steps = s.steps := rfl

@[simp] theorem State.setTile_c (s : State) (t : Loc) (x : Tile) : (s.setTile t x).c = s.c := rfl
@[simp] theorem State.setTile_others (s : State) (t : Loc) (x : Tile) : (s.setTile t x).others = s.others := rfl
@[simp] theorem State.setTile_next (s : State) (t : Loc) (x : Tile) : (s.setTile t x).next = s.next := rfl
@[simp] theorem State.setTile_mem (s : State) (t : Loc) (x : Tile) : (s.setTile t x).mem = s.mem := rfl
@[simp] theorem State.setTile_grans (s : State) (t : Loc) (x : Tile) : (s.setTile t x).grans = s.grans := rfl
@[simp] theorem State.setTile_districts (s : State) (t : Loc) (x : Tile) : (s.setTile t x).districts = s.districts := rfl
@[simp] theorem State.setTile_arrayQ (s : State) (t : Loc) (x : Tile) : (s.setTile t x).arrayQ = s.arrayQ := rfl
@[simp] theorem State.setTile_arrayV (s : State) (t : Loc) (x : Tile) : (s.setTile t x).arrayV = s.arrayV := rfl
@[simp] theorem State.setTile_launches (s : State) (t : Loc) (x : Tile) : (s.setTile t x).launches = s.launches := rfl
@[simp] theorem State.setTile_tasks (s : State) (t : Loc) (x : Tile) : (s.setTile t x).tasks = s.tasks := rfl
@[simp] theorem State.setTile_colls (s : State) (t : Loc) (x : Tile) : (s.setTile t x).colls = s.colls := rfl
@[simp] theorem State.setTile_waiters (s : State) (t : Loc) (x : Tile) : (s.setTile t x).waiters = s.waiters := rfl
@[simp] theorem State.setTile_tenants (s : State) (t : Loc) (x : Tile) : (s.setTile t x).tenants = s.tenants := rfl
@[simp] theorem State.setTile_tid (s : State) (t : Loc) (x : Tile) : (s.setTile t x).tid = s.tid := rfl
@[simp] theorem State.setTile_slots (s : State) (t : Loc) (x : Tile) : (s.setTile t x).slots = s.slots := rfl
@[simp] theorem State.setTile_square (s : State) (t : Loc) (x : Tile) : (s.setTile t x).square = s.square := rfl
@[simp] theorem State.setTile_escrow (s : State) (t : Loc) (x : Tile) : (s.setTile t x).escrow = s.escrow := rfl
@[simp] theorem State.setTile_pcap (s : State) (t : Loc) (x : Tile) : (s.setTile t x).pcap = s.pcap := rfl
@[simp] theorem State.setTile_caps (s : State) (t : Loc) (x : Tile) : (s.setTile t x).caps = s.caps := rfl
@[simp] theorem State.setTile_board (s : State) (t : Loc) (x : Tile) : (s.setTile t x).board = s.board := rfl
@[simp] theorem State.setTile_capsReg (s : State) (t : Loc) (x : Tile) : (s.setTile t x).capsReg = s.capsReg := rfl
@[simp] theorem State.setTile_devid (s : State) (t : Loc) (x : Tile) : (s.setTile t x).devid = s.devid := rfl
@[simp] theorem State.setTile_cyc (s : State) (t : Loc) (x : Tile) : (s.setTile t x).cyc = s.cyc := rfl
@[simp] theorem State.setTile_refTicks (s : State) (t : Loc) (x : Tile) : (s.setTile t x).refTicks = s.refTicks := rfl
@[simp] theorem State.setTile_refFrac (s : State) (t : Loc) (x : Tile) : (s.setTile t x).refFrac = s.refFrac := rfl
@[simp] theorem State.setTile_timeOff (s : State) (t : Loc) (x : Tile) : (s.setTile t x).timeOff = s.timeOff := rfl
@[simp] theorem State.setTile_slewAt (s : State) (t : Loc) (x : Tile) : (s.setTile t x).slewAt = s.slewAt := rfl
@[simp] theorem State.setTile_chkcfg (s : State) (t : Loc) (x : Tile) : (s.setTile t x).chkcfg = s.chkcfg := rfl
@[simp] theorem State.setTile_injsel (s : State) (t : Loc) (x : Tile) : (s.setTile t x).injsel = s.injsel := rfl
@[simp] theorem State.setTile_injectors (s : State) (t : Loc) (x : Tile) : (s.setTile t x).injectors = s.injectors := rfl
@[simp] theorem State.setTile_own (s : State) (t : Loc) (x : Tile) : (s.setTile t x).own = s.own := rfl
@[simp] theorem State.setTile_succ (s : State) (t : Loc) (x : Tile) : (s.setTile t x).succ = s.succ := rfl
@[simp] theorem State.setTile_epoch (s : State) (t : Loc) (x : Tile) : (s.setTile t x).epoch = s.epoch := rfl
@[simp] theorem State.setTile_left (s : State) (t : Loc) (x : Tile) : (s.setTile t x).left = s.left := rfl
@[simp] theorem State.setTile_leaseCyc (s : State) (t : Loc) (x : Tile) : (s.setTile t x).leaseCyc = s.leaseCyc := rfl
@[simp] theorem State.setTile_jrnlMir (s : State) (t : Loc) (x : Tile) : (s.setTile t x).jrnlMir = s.jrnlMir := rfl
@[simp] theorem State.setTile_jrnlCkpt (s : State) (t : Loc) (x : Tile) : (s.setTile t x).jrnlCkpt = s.jrnlCkpt := rfl
@[simp] theorem State.setTile_jrnlHead (s : State) (t : Loc) (x : Tile) : (s.setTile t x).jrnlHead = s.jrnlHead := rfl
@[simp] theorem State.setTile_jrnlSeq (s : State) (t : Loc) (x : Tile) : (s.setTile t x).jrnlSeq = s.jrnlSeq := rfl
@[simp] theorem State.setTile_kickNext (s : State) (t : Loc) (x : Tile) : (s.setTile t x).kickNext = s.kickNext := rfl
@[simp] theorem State.setTile_kicks (s : State) (t : Loc) (x : Tile) : (s.setTile t x).kicks = s.kicks := rfl
@[simp] theorem State.setTile_fifo (s : State) (t : Loc) (x : Tile) : (s.setTile t x).fifo = s.fifo := rfl
@[simp] theorem State.setTile_seizecfg (s : State) (t : Loc) (x : Tile) : (s.setTile t x).seizecfg = s.seizecfg := rfl
@[simp] theorem State.setTile_launchTags (s : State) (t : Loc) (x : Tile) : (s.setTile t x).launchTags = s.launchTags := rfl
@[simp] theorem State.setTile_rootsDue (s : State) (t : Loc) (x : Tile) : (s.setTile t x).rootsDue = s.rootsDue := rfl
@[simp] theorem State.setTile_disp (s : State) (t : Loc) (x : Tile) : (s.setTile t x).disp = s.disp := rfl
@[simp] theorem State.setTile_standbyLeads (s : State) (t : Loc) (x : Tile) : (s.setTile t x).standbyLeads = s.standbyLeads := rfl
@[simp] theorem State.setTile_pwrmode (s : State) (t : Loc) (x : Tile) : (s.setTile t x).pwrmode = s.pwrmode := rfl
@[simp] theorem State.setTile_temp (s : State) (t : Loc) (x : Tile) : (s.setTile t x).temp = s.temp := rfl
@[simp] theorem State.setTile_ewbase (s : State) (t : Loc) (x : Tile) : (s.setTile t x).ewbase = s.ewbase := rfl
@[simp] theorem State.setTile_ewctl (s : State) (t : Loc) (x : Tile) : (s.setTile t x).ewctl = s.ewctl := rfl
@[simp] theorem State.setTile_ewhead (s : State) (t : Loc) (x : Tile) : (s.setTile t x).ewhead = s.ewhead := rfl
@[simp] theorem State.setTile_ewtail (s : State) (t : Loc) (x : Tile) : (s.setTile t x).ewtail = s.ewtail := rfl
@[simp] theorem State.setTile_ewdrop (s : State) (t : Loc) (x : Tile) : (s.setTile t x).ewdrop = s.ewdrop := rfl
@[simp] theorem State.setTile_ewq (s : State) (t : Loc) (x : Tile) : (s.setTile t x).ewq = s.ewq := rfl
@[simp] theorem State.setTile_darg (s : State) (t : Loc) (x : Tile) : (s.setTile t x).darg = s.darg := rfl
@[simp] theorem State.setTile_dstat (s : State) (t : Loc) (x : Tile) : (s.setTile t x).dstat = s.dstat := rfl
@[simp] theorem State.setTile_dcmdArg (s : State) (t : Loc) (x : Tile) : (s.setTile t x).dcmdArg = s.dcmdArg := rfl
@[simp] theorem State.setTile_mstat (s : State) (t : Loc) (x : Tile) : (s.setTile t x).mstat = s.mstat := rfl
@[simp] theorem State.setTile_smbPtr (s : State) (t : Loc) (x : Tile) : (s.setTile t x).smbPtr = s.smbPtr := rfl
@[simp] theorem State.setTile_smbOut (s : State) (t : Loc) (x : Tile) : (s.setTile t x).smbOut = s.smbOut := rfl
@[simp] theorem State.setTile_active (s : State) (t : Loc) (x : Tile) : (s.setTile t x).active = s.active := rfl
@[simp] theorem State.setTile_activeFrom (s : State) (t : Loc) (x : Tile) : (s.setTile t x).activeFrom = s.activeFrom := rfl
@[simp] theorem State.setTile_altImage (s : State) (t : Loc) (x : Tile) : (s.setTile t x).altImage = s.altImage := rfl
@[simp] theorem State.setTile_boots (s : State) (t : Loc) (x : Tile) : (s.setTile t x).boots = s.boots := rfl
@[simp] theorem State.setTile_bootTries (s : State) (t : Loc) (x : Tile) : (s.setTile t x).bootTries = s.bootTries := rfl
@[simp] theorem State.setTile_booted (s : State) (t : Loc) (x : Tile) : (s.setTile t x).booted = s.booted := rfl
@[simp] theorem State.setTile_bootStep (s : State) (t : Loc) (x : Tile) : (s.setTile t x).bootStep = s.bootStep := rfl
@[simp] theorem State.setTile_bootJrnl (s : State) (t : Loc) (x : Tile) : (s.setTile t x).bootJrnl = s.bootJrnl := rfl
@[simp] theorem State.setTile_rings (s : State) (t : Loc) (x : Tile) : (s.setTile t x).rings = s.rings := rfl
@[simp] theorem State.setTile_msix (s : State) (t : Loc) (x : Tile) : (s.setTile t x).msix = s.msix := rfl
@[simp] theorem State.setTile_msixFns (s : State) (t : Loc) (x : Tile) : (s.setTile t x).msixFns = s.msixFns := rfl
@[simp] theorem State.setTile_mirrored (s : State) (t : Loc) (x : Tile) : (s.setTile t x).mirrored = s.mirrored := rfl
@[simp] theorem State.setTile_mirrorOut (s : State) (t : Loc) (x : Tile) : (s.setTile t x).mirrorOut = s.mirrorOut := rfl
@[simp] theorem State.setTile_sent (s : State) (t : Loc) (x : Tile) : (s.setTile t x).sent = s.sent := rfl
@[simp] theorem State.setTile_ptp (s : State) (t : Loc) (x : Tile) : (s.setTile t x).ptp = s.ptp := rfl
@[simp] theorem State.setTile_saved (s : State) (t : Loc) (x : Tile) : (s.setTile t x).saved = s.saved := rfl
@[simp] theorem State.setTile_clockStep (s : State) (t : Loc) (x : Tile) : (s.setTile t x).clockStep = s.clockStep := rfl
@[simp] theorem State.setTile_powered (s : State) (t : Loc) (x : Tile) : (s.setTile t x).powered = s.powered := rfl
@[simp] theorem State.setTile_inputs (s : State) (t : Loc) (x : Tile) : (s.setTile t x).inputs = s.inputs := rfl
@[simp] theorem State.setTile_pick (s : State) (t : Loc) (x : Tile) : (s.setTile t x).pick = s.pick := rfl
@[simp] theorem State.setTile_slow (s : State) (t : Loc) (x : Tile) : (s.setTile t x).slow = s.slow := rfl
@[simp] theorem State.setTile_steps (s : State) (t : Loc) (x : Tile) : (s.setTile t x).steps = s.steps := rfl

@[simp] theorem State.setDistrict_c (s : State) (i : Nat) (x : District) : (s.setDistrict i x).c = s.c := rfl
@[simp] theorem State.setDistrict_others (s : State) (i : Nat) (x : District) : (s.setDistrict i x).others = s.others := rfl
@[simp] theorem State.setDistrict_next (s : State) (i : Nat) (x : District) : (s.setDistrict i x).next = s.next := rfl
@[simp] theorem State.setDistrict_mem (s : State) (i : Nat) (x : District) : (s.setDistrict i x).mem = s.mem := rfl
@[simp] theorem State.setDistrict_grans (s : State) (i : Nat) (x : District) : (s.setDistrict i x).grans = s.grans := rfl
@[simp] theorem State.setDistrict_tiles (s : State) (i : Nat) (x : District) : (s.setDistrict i x).tiles = s.tiles := rfl
@[simp] theorem State.setDistrict_arrayQ (s : State) (i : Nat) (x : District) : (s.setDistrict i x).arrayQ = s.arrayQ := rfl
@[simp] theorem State.setDistrict_arrayV (s : State) (i : Nat) (x : District) : (s.setDistrict i x).arrayV = s.arrayV := rfl
@[simp] theorem State.setDistrict_launches (s : State) (i : Nat) (x : District) : (s.setDistrict i x).launches = s.launches := rfl
@[simp] theorem State.setDistrict_tasks (s : State) (i : Nat) (x : District) : (s.setDistrict i x).tasks = s.tasks := rfl
@[simp] theorem State.setDistrict_colls (s : State) (i : Nat) (x : District) : (s.setDistrict i x).colls = s.colls := rfl
@[simp] theorem State.setDistrict_waiters (s : State) (i : Nat) (x : District) : (s.setDistrict i x).waiters = s.waiters := rfl
@[simp] theorem State.setDistrict_tenants (s : State) (i : Nat) (x : District) : (s.setDistrict i x).tenants = s.tenants := rfl
@[simp] theorem State.setDistrict_tid (s : State) (i : Nat) (x : District) : (s.setDistrict i x).tid = s.tid := rfl
@[simp] theorem State.setDistrict_slots (s : State) (i : Nat) (x : District) : (s.setDistrict i x).slots = s.slots := rfl
@[simp] theorem State.setDistrict_square (s : State) (i : Nat) (x : District) : (s.setDistrict i x).square = s.square := rfl
@[simp] theorem State.setDistrict_escrow (s : State) (i : Nat) (x : District) : (s.setDistrict i x).escrow = s.escrow := rfl
@[simp] theorem State.setDistrict_pcap (s : State) (i : Nat) (x : District) : (s.setDistrict i x).pcap = s.pcap := rfl
@[simp] theorem State.setDistrict_caps (s : State) (i : Nat) (x : District) : (s.setDistrict i x).caps = s.caps := rfl
@[simp] theorem State.setDistrict_board (s : State) (i : Nat) (x : District) : (s.setDistrict i x).board = s.board := rfl
@[simp] theorem State.setDistrict_capsReg (s : State) (i : Nat) (x : District) : (s.setDistrict i x).capsReg = s.capsReg := rfl
@[simp] theorem State.setDistrict_devid (s : State) (i : Nat) (x : District) : (s.setDistrict i x).devid = s.devid := rfl
@[simp] theorem State.setDistrict_cyc (s : State) (i : Nat) (x : District) : (s.setDistrict i x).cyc = s.cyc := rfl
@[simp] theorem State.setDistrict_refTicks (s : State) (i : Nat) (x : District) : (s.setDistrict i x).refTicks = s.refTicks := rfl
@[simp] theorem State.setDistrict_refFrac (s : State) (i : Nat) (x : District) : (s.setDistrict i x).refFrac = s.refFrac := rfl
@[simp] theorem State.setDistrict_timeOff (s : State) (i : Nat) (x : District) : (s.setDistrict i x).timeOff = s.timeOff := rfl
@[simp] theorem State.setDistrict_slewAt (s : State) (i : Nat) (x : District) : (s.setDistrict i x).slewAt = s.slewAt := rfl
@[simp] theorem State.setDistrict_chkcfg (s : State) (i : Nat) (x : District) : (s.setDistrict i x).chkcfg = s.chkcfg := rfl
@[simp] theorem State.setDistrict_injsel (s : State) (i : Nat) (x : District) : (s.setDistrict i x).injsel = s.injsel := rfl
@[simp] theorem State.setDistrict_injectors (s : State) (i : Nat) (x : District) : (s.setDistrict i x).injectors = s.injectors := rfl
@[simp] theorem State.setDistrict_own (s : State) (i : Nat) (x : District) : (s.setDistrict i x).own = s.own := rfl
@[simp] theorem State.setDistrict_succ (s : State) (i : Nat) (x : District) : (s.setDistrict i x).succ = s.succ := rfl
@[simp] theorem State.setDistrict_epoch (s : State) (i : Nat) (x : District) : (s.setDistrict i x).epoch = s.epoch := rfl
@[simp] theorem State.setDistrict_left (s : State) (i : Nat) (x : District) : (s.setDistrict i x).left = s.left := rfl
@[simp] theorem State.setDistrict_leaseCyc (s : State) (i : Nat) (x : District) : (s.setDistrict i x).leaseCyc = s.leaseCyc := rfl
@[simp] theorem State.setDistrict_jrnlMir (s : State) (i : Nat) (x : District) : (s.setDistrict i x).jrnlMir = s.jrnlMir := rfl
@[simp] theorem State.setDistrict_jrnlCkpt (s : State) (i : Nat) (x : District) : (s.setDistrict i x).jrnlCkpt = s.jrnlCkpt := rfl
@[simp] theorem State.setDistrict_jrnlHead (s : State) (i : Nat) (x : District) : (s.setDistrict i x).jrnlHead = s.jrnlHead := rfl
@[simp] theorem State.setDistrict_jrnlSeq (s : State) (i : Nat) (x : District) : (s.setDistrict i x).jrnlSeq = s.jrnlSeq := rfl
@[simp] theorem State.setDistrict_kickNext (s : State) (i : Nat) (x : District) : (s.setDistrict i x).kickNext = s.kickNext := rfl
@[simp] theorem State.setDistrict_kicks (s : State) (i : Nat) (x : District) : (s.setDistrict i x).kicks = s.kicks := rfl
@[simp] theorem State.setDistrict_fifo (s : State) (i : Nat) (x : District) : (s.setDistrict i x).fifo = s.fifo := rfl
@[simp] theorem State.setDistrict_seizecfg (s : State) (i : Nat) (x : District) : (s.setDistrict i x).seizecfg = s.seizecfg := rfl
@[simp] theorem State.setDistrict_launchTags (s : State) (i : Nat) (x : District) : (s.setDistrict i x).launchTags = s.launchTags := rfl
@[simp] theorem State.setDistrict_rootsDue (s : State) (i : Nat) (x : District) : (s.setDistrict i x).rootsDue = s.rootsDue := rfl
@[simp] theorem State.setDistrict_disp (s : State) (i : Nat) (x : District) : (s.setDistrict i x).disp = s.disp := rfl
@[simp] theorem State.setDistrict_standbyLeads (s : State) (i : Nat) (x : District) : (s.setDistrict i x).standbyLeads = s.standbyLeads := rfl
@[simp] theorem State.setDistrict_pwrmode (s : State) (i : Nat) (x : District) : (s.setDistrict i x).pwrmode = s.pwrmode := rfl
@[simp] theorem State.setDistrict_temp (s : State) (i : Nat) (x : District) : (s.setDistrict i x).temp = s.temp := rfl
@[simp] theorem State.setDistrict_ewbase (s : State) (i : Nat) (x : District) : (s.setDistrict i x).ewbase = s.ewbase := rfl
@[simp] theorem State.setDistrict_ewctl (s : State) (i : Nat) (x : District) : (s.setDistrict i x).ewctl = s.ewctl := rfl
@[simp] theorem State.setDistrict_ewhead (s : State) (i : Nat) (x : District) : (s.setDistrict i x).ewhead = s.ewhead := rfl
@[simp] theorem State.setDistrict_ewtail (s : State) (i : Nat) (x : District) : (s.setDistrict i x).ewtail = s.ewtail := rfl
@[simp] theorem State.setDistrict_ewdrop (s : State) (i : Nat) (x : District) : (s.setDistrict i x).ewdrop = s.ewdrop := rfl
@[simp] theorem State.setDistrict_ewq (s : State) (i : Nat) (x : District) : (s.setDistrict i x).ewq = s.ewq := rfl
@[simp] theorem State.setDistrict_darg (s : State) (i : Nat) (x : District) : (s.setDistrict i x).darg = s.darg := rfl
@[simp] theorem State.setDistrict_dstat (s : State) (i : Nat) (x : District) : (s.setDistrict i x).dstat = s.dstat := rfl
@[simp] theorem State.setDistrict_dcmdArg (s : State) (i : Nat) (x : District) : (s.setDistrict i x).dcmdArg = s.dcmdArg := rfl
@[simp] theorem State.setDistrict_mstat (s : State) (i : Nat) (x : District) : (s.setDistrict i x).mstat = s.mstat := rfl
@[simp] theorem State.setDistrict_smbPtr (s : State) (i : Nat) (x : District) : (s.setDistrict i x).smbPtr = s.smbPtr := rfl
@[simp] theorem State.setDistrict_smbOut (s : State) (i : Nat) (x : District) : (s.setDistrict i x).smbOut = s.smbOut := rfl
@[simp] theorem State.setDistrict_active (s : State) (i : Nat) (x : District) : (s.setDistrict i x).active = s.active := rfl
@[simp] theorem State.setDistrict_activeFrom (s : State) (i : Nat) (x : District) : (s.setDistrict i x).activeFrom = s.activeFrom := rfl
@[simp] theorem State.setDistrict_altImage (s : State) (i : Nat) (x : District) : (s.setDistrict i x).altImage = s.altImage := rfl
@[simp] theorem State.setDistrict_boots (s : State) (i : Nat) (x : District) : (s.setDistrict i x).boots = s.boots := rfl
@[simp] theorem State.setDistrict_bootTries (s : State) (i : Nat) (x : District) : (s.setDistrict i x).bootTries = s.bootTries := rfl
@[simp] theorem State.setDistrict_booted (s : State) (i : Nat) (x : District) : (s.setDistrict i x).booted = s.booted := rfl
@[simp] theorem State.setDistrict_bootStep (s : State) (i : Nat) (x : District) : (s.setDistrict i x).bootStep = s.bootStep := rfl
@[simp] theorem State.setDistrict_bootJrnl (s : State) (i : Nat) (x : District) : (s.setDistrict i x).bootJrnl = s.bootJrnl := rfl
@[simp] theorem State.setDistrict_rings (s : State) (i : Nat) (x : District) : (s.setDistrict i x).rings = s.rings := rfl
@[simp] theorem State.setDistrict_msix (s : State) (i : Nat) (x : District) : (s.setDistrict i x).msix = s.msix := rfl
@[simp] theorem State.setDistrict_msixFns (s : State) (i : Nat) (x : District) : (s.setDistrict i x).msixFns = s.msixFns := rfl
@[simp] theorem State.setDistrict_mirrored (s : State) (i : Nat) (x : District) : (s.setDistrict i x).mirrored = s.mirrored := rfl
@[simp] theorem State.setDistrict_mirrorOut (s : State) (i : Nat) (x : District) : (s.setDistrict i x).mirrorOut = s.mirrorOut := rfl
@[simp] theorem State.setDistrict_sent (s : State) (i : Nat) (x : District) : (s.setDistrict i x).sent = s.sent := rfl
@[simp] theorem State.setDistrict_ptp (s : State) (i : Nat) (x : District) : (s.setDistrict i x).ptp = s.ptp := rfl
@[simp] theorem State.setDistrict_saved (s : State) (i : Nat) (x : District) : (s.setDistrict i x).saved = s.saved := rfl
@[simp] theorem State.setDistrict_clockStep (s : State) (i : Nat) (x : District) : (s.setDistrict i x).clockStep = s.clockStep := rfl
@[simp] theorem State.setDistrict_powered (s : State) (i : Nat) (x : District) : (s.setDistrict i x).powered = s.powered := rfl
@[simp] theorem State.setDistrict_inputs (s : State) (i : Nat) (x : District) : (s.setDistrict i x).inputs = s.inputs := rfl
@[simp] theorem State.setDistrict_pick (s : State) (i : Nat) (x : District) : (s.setDistrict i x).pick = s.pick := rfl
@[simp] theorem State.setDistrict_slow (s : State) (i : Nat) (x : District) : (s.setDistrict i x).slow = s.slow := rfl
@[simp] theorem State.setDistrict_steps (s : State) (i : Nat) (x : District) : (s.setDistrict i x).steps = s.steps := rfl

@[simp] theorem State.setTenant_c (s : State) (t : Nat) (x : Tenant) : (s.setTenant t x).c = s.c := rfl
@[simp] theorem State.setTenant_others (s : State) (t : Nat) (x : Tenant) : (s.setTenant t x).others = s.others := rfl
@[simp] theorem State.setTenant_next (s : State) (t : Nat) (x : Tenant) : (s.setTenant t x).next = s.next := rfl
@[simp] theorem State.setTenant_mem (s : State) (t : Nat) (x : Tenant) : (s.setTenant t x).mem = s.mem := rfl
@[simp] theorem State.setTenant_grans (s : State) (t : Nat) (x : Tenant) : (s.setTenant t x).grans = s.grans := rfl
@[simp] theorem State.setTenant_tiles (s : State) (t : Nat) (x : Tenant) : (s.setTenant t x).tiles = s.tiles := rfl
@[simp] theorem State.setTenant_districts (s : State) (t : Nat) (x : Tenant) : (s.setTenant t x).districts = s.districts := rfl
@[simp] theorem State.setTenant_arrayQ (s : State) (t : Nat) (x : Tenant) : (s.setTenant t x).arrayQ = s.arrayQ := rfl
@[simp] theorem State.setTenant_arrayV (s : State) (t : Nat) (x : Tenant) : (s.setTenant t x).arrayV = s.arrayV := rfl
@[simp] theorem State.setTenant_launches (s : State) (t : Nat) (x : Tenant) : (s.setTenant t x).launches = s.launches := rfl
@[simp] theorem State.setTenant_tasks (s : State) (t : Nat) (x : Tenant) : (s.setTenant t x).tasks = s.tasks := rfl
@[simp] theorem State.setTenant_colls (s : State) (t : Nat) (x : Tenant) : (s.setTenant t x).colls = s.colls := rfl
@[simp] theorem State.setTenant_waiters (s : State) (t : Nat) (x : Tenant) : (s.setTenant t x).waiters = s.waiters := rfl
@[simp] theorem State.setTenant_tid (s : State) (t : Nat) (x : Tenant) : (s.setTenant t x).tid = s.tid := rfl
@[simp] theorem State.setTenant_slots (s : State) (t : Nat) (x : Tenant) : (s.setTenant t x).slots = s.slots := rfl
@[simp] theorem State.setTenant_square (s : State) (t : Nat) (x : Tenant) : (s.setTenant t x).square = s.square := rfl
@[simp] theorem State.setTenant_escrow (s : State) (t : Nat) (x : Tenant) : (s.setTenant t x).escrow = s.escrow := rfl
@[simp] theorem State.setTenant_pcap (s : State) (t : Nat) (x : Tenant) : (s.setTenant t x).pcap = s.pcap := rfl
@[simp] theorem State.setTenant_caps (s : State) (t : Nat) (x : Tenant) : (s.setTenant t x).caps = s.caps := rfl
@[simp] theorem State.setTenant_board (s : State) (t : Nat) (x : Tenant) : (s.setTenant t x).board = s.board := rfl
@[simp] theorem State.setTenant_capsReg (s : State) (t : Nat) (x : Tenant) : (s.setTenant t x).capsReg = s.capsReg := rfl
@[simp] theorem State.setTenant_devid (s : State) (t : Nat) (x : Tenant) : (s.setTenant t x).devid = s.devid := rfl
@[simp] theorem State.setTenant_cyc (s : State) (t : Nat) (x : Tenant) : (s.setTenant t x).cyc = s.cyc := rfl
@[simp] theorem State.setTenant_refTicks (s : State) (t : Nat) (x : Tenant) : (s.setTenant t x).refTicks = s.refTicks := rfl
@[simp] theorem State.setTenant_refFrac (s : State) (t : Nat) (x : Tenant) : (s.setTenant t x).refFrac = s.refFrac := rfl
@[simp] theorem State.setTenant_timeOff (s : State) (t : Nat) (x : Tenant) : (s.setTenant t x).timeOff = s.timeOff := rfl
@[simp] theorem State.setTenant_slewAt (s : State) (t : Nat) (x : Tenant) : (s.setTenant t x).slewAt = s.slewAt := rfl
@[simp] theorem State.setTenant_chkcfg (s : State) (t : Nat) (x : Tenant) : (s.setTenant t x).chkcfg = s.chkcfg := rfl
@[simp] theorem State.setTenant_injsel (s : State) (t : Nat) (x : Tenant) : (s.setTenant t x).injsel = s.injsel := rfl
@[simp] theorem State.setTenant_injectors (s : State) (t : Nat) (x : Tenant) : (s.setTenant t x).injectors = s.injectors := rfl
@[simp] theorem State.setTenant_own (s : State) (t : Nat) (x : Tenant) : (s.setTenant t x).own = s.own := rfl
@[simp] theorem State.setTenant_succ (s : State) (t : Nat) (x : Tenant) : (s.setTenant t x).succ = s.succ := rfl
@[simp] theorem State.setTenant_epoch (s : State) (t : Nat) (x : Tenant) : (s.setTenant t x).epoch = s.epoch := rfl
@[simp] theorem State.setTenant_left (s : State) (t : Nat) (x : Tenant) : (s.setTenant t x).left = s.left := rfl
@[simp] theorem State.setTenant_leaseCyc (s : State) (t : Nat) (x : Tenant) : (s.setTenant t x).leaseCyc = s.leaseCyc := rfl
@[simp] theorem State.setTenant_jrnlMir (s : State) (t : Nat) (x : Tenant) : (s.setTenant t x).jrnlMir = s.jrnlMir := rfl
@[simp] theorem State.setTenant_jrnlCkpt (s : State) (t : Nat) (x : Tenant) : (s.setTenant t x).jrnlCkpt = s.jrnlCkpt := rfl
@[simp] theorem State.setTenant_jrnlHead (s : State) (t : Nat) (x : Tenant) : (s.setTenant t x).jrnlHead = s.jrnlHead := rfl
@[simp] theorem State.setTenant_jrnlSeq (s : State) (t : Nat) (x : Tenant) : (s.setTenant t x).jrnlSeq = s.jrnlSeq := rfl
@[simp] theorem State.setTenant_kickNext (s : State) (t : Nat) (x : Tenant) : (s.setTenant t x).kickNext = s.kickNext := rfl
@[simp] theorem State.setTenant_kicks (s : State) (t : Nat) (x : Tenant) : (s.setTenant t x).kicks = s.kicks := rfl
@[simp] theorem State.setTenant_fifo (s : State) (t : Nat) (x : Tenant) : (s.setTenant t x).fifo = s.fifo := rfl
@[simp] theorem State.setTenant_seizecfg (s : State) (t : Nat) (x : Tenant) : (s.setTenant t x).seizecfg = s.seizecfg := rfl
@[simp] theorem State.setTenant_launchTags (s : State) (t : Nat) (x : Tenant) : (s.setTenant t x).launchTags = s.launchTags := rfl
@[simp] theorem State.setTenant_rootsDue (s : State) (t : Nat) (x : Tenant) : (s.setTenant t x).rootsDue = s.rootsDue := rfl
@[simp] theorem State.setTenant_disp (s : State) (t : Nat) (x : Tenant) : (s.setTenant t x).disp = s.disp := rfl
@[simp] theorem State.setTenant_standbyLeads (s : State) (t : Nat) (x : Tenant) : (s.setTenant t x).standbyLeads = s.standbyLeads := rfl
@[simp] theorem State.setTenant_pwrmode (s : State) (t : Nat) (x : Tenant) : (s.setTenant t x).pwrmode = s.pwrmode := rfl
@[simp] theorem State.setTenant_temp (s : State) (t : Nat) (x : Tenant) : (s.setTenant t x).temp = s.temp := rfl
@[simp] theorem State.setTenant_ewbase (s : State) (t : Nat) (x : Tenant) : (s.setTenant t x).ewbase = s.ewbase := rfl
@[simp] theorem State.setTenant_ewctl (s : State) (t : Nat) (x : Tenant) : (s.setTenant t x).ewctl = s.ewctl := rfl
@[simp] theorem State.setTenant_ewhead (s : State) (t : Nat) (x : Tenant) : (s.setTenant t x).ewhead = s.ewhead := rfl
@[simp] theorem State.setTenant_ewtail (s : State) (t : Nat) (x : Tenant) : (s.setTenant t x).ewtail = s.ewtail := rfl
@[simp] theorem State.setTenant_ewdrop (s : State) (t : Nat) (x : Tenant) : (s.setTenant t x).ewdrop = s.ewdrop := rfl
@[simp] theorem State.setTenant_ewq (s : State) (t : Nat) (x : Tenant) : (s.setTenant t x).ewq = s.ewq := rfl
@[simp] theorem State.setTenant_darg (s : State) (t : Nat) (x : Tenant) : (s.setTenant t x).darg = s.darg := rfl
@[simp] theorem State.setTenant_dstat (s : State) (t : Nat) (x : Tenant) : (s.setTenant t x).dstat = s.dstat := rfl
@[simp] theorem State.setTenant_dcmdArg (s : State) (t : Nat) (x : Tenant) : (s.setTenant t x).dcmdArg = s.dcmdArg := rfl
@[simp] theorem State.setTenant_mstat (s : State) (t : Nat) (x : Tenant) : (s.setTenant t x).mstat = s.mstat := rfl
@[simp] theorem State.setTenant_smbPtr (s : State) (t : Nat) (x : Tenant) : (s.setTenant t x).smbPtr = s.smbPtr := rfl
@[simp] theorem State.setTenant_smbOut (s : State) (t : Nat) (x : Tenant) : (s.setTenant t x).smbOut = s.smbOut := rfl
@[simp] theorem State.setTenant_active (s : State) (t : Nat) (x : Tenant) : (s.setTenant t x).active = s.active := rfl
@[simp] theorem State.setTenant_activeFrom (s : State) (t : Nat) (x : Tenant) : (s.setTenant t x).activeFrom = s.activeFrom := rfl
@[simp] theorem State.setTenant_altImage (s : State) (t : Nat) (x : Tenant) : (s.setTenant t x).altImage = s.altImage := rfl
@[simp] theorem State.setTenant_boots (s : State) (t : Nat) (x : Tenant) : (s.setTenant t x).boots = s.boots := rfl
@[simp] theorem State.setTenant_bootTries (s : State) (t : Nat) (x : Tenant) : (s.setTenant t x).bootTries = s.bootTries := rfl
@[simp] theorem State.setTenant_booted (s : State) (t : Nat) (x : Tenant) : (s.setTenant t x).booted = s.booted := rfl
@[simp] theorem State.setTenant_bootStep (s : State) (t : Nat) (x : Tenant) : (s.setTenant t x).bootStep = s.bootStep := rfl
@[simp] theorem State.setTenant_bootJrnl (s : State) (t : Nat) (x : Tenant) : (s.setTenant t x).bootJrnl = s.bootJrnl := rfl
@[simp] theorem State.setTenant_rings (s : State) (t : Nat) (x : Tenant) : (s.setTenant t x).rings = s.rings := rfl
@[simp] theorem State.setTenant_msix (s : State) (t : Nat) (x : Tenant) : (s.setTenant t x).msix = s.msix := rfl
@[simp] theorem State.setTenant_msixFns (s : State) (t : Nat) (x : Tenant) : (s.setTenant t x).msixFns = s.msixFns := rfl
@[simp] theorem State.setTenant_mirrored (s : State) (t : Nat) (x : Tenant) : (s.setTenant t x).mirrored = s.mirrored := rfl
@[simp] theorem State.setTenant_mirrorOut (s : State) (t : Nat) (x : Tenant) : (s.setTenant t x).mirrorOut = s.mirrorOut := rfl
@[simp] theorem State.setTenant_sent (s : State) (t : Nat) (x : Tenant) : (s.setTenant t x).sent = s.sent := rfl
@[simp] theorem State.setTenant_ptp (s : State) (t : Nat) (x : Tenant) : (s.setTenant t x).ptp = s.ptp := rfl
@[simp] theorem State.setTenant_saved (s : State) (t : Nat) (x : Tenant) : (s.setTenant t x).saved = s.saved := rfl
@[simp] theorem State.setTenant_clockStep (s : State) (t : Nat) (x : Tenant) : (s.setTenant t x).clockStep = s.clockStep := rfl
@[simp] theorem State.setTenant_powered (s : State) (t : Nat) (x : Tenant) : (s.setTenant t x).powered = s.powered := rfl
@[simp] theorem State.setTenant_inputs (s : State) (t : Nat) (x : Tenant) : (s.setTenant t x).inputs = s.inputs := rfl
@[simp] theorem State.setTenant_pick (s : State) (t : Nat) (x : Tenant) : (s.setTenant t x).pick = s.pick := rfl
@[simp] theorem State.setTenant_slow (s : State) (t : Nat) (x : Tenant) : (s.setTenant t x).slow = s.slow := rfl
@[simp] theorem State.setTenant_steps (s : State) (t : Nat) (x : Tenant) : (s.setTenant t x).steps = s.steps := rfl

@[simp] theorem State.setWin_c (s : State) (w : Nat) (x : EscWin) : (s.setWin w x).c = s.c := rfl
@[simp] theorem State.setWin_others (s : State) (w : Nat) (x : EscWin) : (s.setWin w x).others = s.others := rfl
@[simp] theorem State.setWin_next (s : State) (w : Nat) (x : EscWin) : (s.setWin w x).next = s.next := rfl
@[simp] theorem State.setWin_mem (s : State) (w : Nat) (x : EscWin) : (s.setWin w x).mem = s.mem := rfl
@[simp] theorem State.setWin_grans (s : State) (w : Nat) (x : EscWin) : (s.setWin w x).grans = s.grans := rfl
@[simp] theorem State.setWin_tiles (s : State) (w : Nat) (x : EscWin) : (s.setWin w x).tiles = s.tiles := rfl
@[simp] theorem State.setWin_districts (s : State) (w : Nat) (x : EscWin) : (s.setWin w x).districts = s.districts := rfl
@[simp] theorem State.setWin_arrayQ (s : State) (w : Nat) (x : EscWin) : (s.setWin w x).arrayQ = s.arrayQ := rfl
@[simp] theorem State.setWin_arrayV (s : State) (w : Nat) (x : EscWin) : (s.setWin w x).arrayV = s.arrayV := rfl
@[simp] theorem State.setWin_launches (s : State) (w : Nat) (x : EscWin) : (s.setWin w x).launches = s.launches := rfl
@[simp] theorem State.setWin_tasks (s : State) (w : Nat) (x : EscWin) : (s.setWin w x).tasks = s.tasks := rfl
@[simp] theorem State.setWin_colls (s : State) (w : Nat) (x : EscWin) : (s.setWin w x).colls = s.colls := rfl
@[simp] theorem State.setWin_waiters (s : State) (w : Nat) (x : EscWin) : (s.setWin w x).waiters = s.waiters := rfl
@[simp] theorem State.setWin_tenants (s : State) (w : Nat) (x : EscWin) : (s.setWin w x).tenants = s.tenants := rfl
@[simp] theorem State.setWin_tid (s : State) (w : Nat) (x : EscWin) : (s.setWin w x).tid = s.tid := rfl
@[simp] theorem State.setWin_slots (s : State) (w : Nat) (x : EscWin) : (s.setWin w x).slots = s.slots := rfl
@[simp] theorem State.setWin_square (s : State) (w : Nat) (x : EscWin) : (s.setWin w x).square = s.square := rfl
@[simp] theorem State.setWin_pcap (s : State) (w : Nat) (x : EscWin) : (s.setWin w x).pcap = s.pcap := rfl
@[simp] theorem State.setWin_caps (s : State) (w : Nat) (x : EscWin) : (s.setWin w x).caps = s.caps := rfl
@[simp] theorem State.setWin_board (s : State) (w : Nat) (x : EscWin) : (s.setWin w x).board = s.board := rfl
@[simp] theorem State.setWin_capsReg (s : State) (w : Nat) (x : EscWin) : (s.setWin w x).capsReg = s.capsReg := rfl
@[simp] theorem State.setWin_devid (s : State) (w : Nat) (x : EscWin) : (s.setWin w x).devid = s.devid := rfl
@[simp] theorem State.setWin_cyc (s : State) (w : Nat) (x : EscWin) : (s.setWin w x).cyc = s.cyc := rfl
@[simp] theorem State.setWin_refTicks (s : State) (w : Nat) (x : EscWin) : (s.setWin w x).refTicks = s.refTicks := rfl
@[simp] theorem State.setWin_refFrac (s : State) (w : Nat) (x : EscWin) : (s.setWin w x).refFrac = s.refFrac := rfl
@[simp] theorem State.setWin_timeOff (s : State) (w : Nat) (x : EscWin) : (s.setWin w x).timeOff = s.timeOff := rfl
@[simp] theorem State.setWin_slewAt (s : State) (w : Nat) (x : EscWin) : (s.setWin w x).slewAt = s.slewAt := rfl
@[simp] theorem State.setWin_chkcfg (s : State) (w : Nat) (x : EscWin) : (s.setWin w x).chkcfg = s.chkcfg := rfl
@[simp] theorem State.setWin_injsel (s : State) (w : Nat) (x : EscWin) : (s.setWin w x).injsel = s.injsel := rfl
@[simp] theorem State.setWin_injectors (s : State) (w : Nat) (x : EscWin) : (s.setWin w x).injectors = s.injectors := rfl
@[simp] theorem State.setWin_own (s : State) (w : Nat) (x : EscWin) : (s.setWin w x).own = s.own := rfl
@[simp] theorem State.setWin_succ (s : State) (w : Nat) (x : EscWin) : (s.setWin w x).succ = s.succ := rfl
@[simp] theorem State.setWin_epoch (s : State) (w : Nat) (x : EscWin) : (s.setWin w x).epoch = s.epoch := rfl
@[simp] theorem State.setWin_left (s : State) (w : Nat) (x : EscWin) : (s.setWin w x).left = s.left := rfl
@[simp] theorem State.setWin_leaseCyc (s : State) (w : Nat) (x : EscWin) : (s.setWin w x).leaseCyc = s.leaseCyc := rfl
@[simp] theorem State.setWin_jrnlMir (s : State) (w : Nat) (x : EscWin) : (s.setWin w x).jrnlMir = s.jrnlMir := rfl
@[simp] theorem State.setWin_jrnlCkpt (s : State) (w : Nat) (x : EscWin) : (s.setWin w x).jrnlCkpt = s.jrnlCkpt := rfl
@[simp] theorem State.setWin_jrnlHead (s : State) (w : Nat) (x : EscWin) : (s.setWin w x).jrnlHead = s.jrnlHead := rfl
@[simp] theorem State.setWin_jrnlSeq (s : State) (w : Nat) (x : EscWin) : (s.setWin w x).jrnlSeq = s.jrnlSeq := rfl
@[simp] theorem State.setWin_kickNext (s : State) (w : Nat) (x : EscWin) : (s.setWin w x).kickNext = s.kickNext := rfl
@[simp] theorem State.setWin_kicks (s : State) (w : Nat) (x : EscWin) : (s.setWin w x).kicks = s.kicks := rfl
@[simp] theorem State.setWin_fifo (s : State) (w : Nat) (x : EscWin) : (s.setWin w x).fifo = s.fifo := rfl
@[simp] theorem State.setWin_seizecfg (s : State) (w : Nat) (x : EscWin) : (s.setWin w x).seizecfg = s.seizecfg := rfl
@[simp] theorem State.setWin_launchTags (s : State) (w : Nat) (x : EscWin) : (s.setWin w x).launchTags = s.launchTags := rfl
@[simp] theorem State.setWin_rootsDue (s : State) (w : Nat) (x : EscWin) : (s.setWin w x).rootsDue = s.rootsDue := rfl
@[simp] theorem State.setWin_disp (s : State) (w : Nat) (x : EscWin) : (s.setWin w x).disp = s.disp := rfl
@[simp] theorem State.setWin_standbyLeads (s : State) (w : Nat) (x : EscWin) : (s.setWin w x).standbyLeads = s.standbyLeads := rfl
@[simp] theorem State.setWin_pwrmode (s : State) (w : Nat) (x : EscWin) : (s.setWin w x).pwrmode = s.pwrmode := rfl
@[simp] theorem State.setWin_temp (s : State) (w : Nat) (x : EscWin) : (s.setWin w x).temp = s.temp := rfl
@[simp] theorem State.setWin_ewbase (s : State) (w : Nat) (x : EscWin) : (s.setWin w x).ewbase = s.ewbase := rfl
@[simp] theorem State.setWin_ewctl (s : State) (w : Nat) (x : EscWin) : (s.setWin w x).ewctl = s.ewctl := rfl
@[simp] theorem State.setWin_ewhead (s : State) (w : Nat) (x : EscWin) : (s.setWin w x).ewhead = s.ewhead := rfl
@[simp] theorem State.setWin_ewtail (s : State) (w : Nat) (x : EscWin) : (s.setWin w x).ewtail = s.ewtail := rfl
@[simp] theorem State.setWin_ewdrop (s : State) (w : Nat) (x : EscWin) : (s.setWin w x).ewdrop = s.ewdrop := rfl
@[simp] theorem State.setWin_ewq (s : State) (w : Nat) (x : EscWin) : (s.setWin w x).ewq = s.ewq := rfl
@[simp] theorem State.setWin_darg (s : State) (w : Nat) (x : EscWin) : (s.setWin w x).darg = s.darg := rfl
@[simp] theorem State.setWin_dstat (s : State) (w : Nat) (x : EscWin) : (s.setWin w x).dstat = s.dstat := rfl
@[simp] theorem State.setWin_dcmdArg (s : State) (w : Nat) (x : EscWin) : (s.setWin w x).dcmdArg = s.dcmdArg := rfl
@[simp] theorem State.setWin_mstat (s : State) (w : Nat) (x : EscWin) : (s.setWin w x).mstat = s.mstat := rfl
@[simp] theorem State.setWin_smbPtr (s : State) (w : Nat) (x : EscWin) : (s.setWin w x).smbPtr = s.smbPtr := rfl
@[simp] theorem State.setWin_smbOut (s : State) (w : Nat) (x : EscWin) : (s.setWin w x).smbOut = s.smbOut := rfl
@[simp] theorem State.setWin_active (s : State) (w : Nat) (x : EscWin) : (s.setWin w x).active = s.active := rfl
@[simp] theorem State.setWin_activeFrom (s : State) (w : Nat) (x : EscWin) : (s.setWin w x).activeFrom = s.activeFrom := rfl
@[simp] theorem State.setWin_altImage (s : State) (w : Nat) (x : EscWin) : (s.setWin w x).altImage = s.altImage := rfl
@[simp] theorem State.setWin_boots (s : State) (w : Nat) (x : EscWin) : (s.setWin w x).boots = s.boots := rfl
@[simp] theorem State.setWin_bootTries (s : State) (w : Nat) (x : EscWin) : (s.setWin w x).bootTries = s.bootTries := rfl
@[simp] theorem State.setWin_booted (s : State) (w : Nat) (x : EscWin) : (s.setWin w x).booted = s.booted := rfl
@[simp] theorem State.setWin_bootStep (s : State) (w : Nat) (x : EscWin) : (s.setWin w x).bootStep = s.bootStep := rfl
@[simp] theorem State.setWin_bootJrnl (s : State) (w : Nat) (x : EscWin) : (s.setWin w x).bootJrnl = s.bootJrnl := rfl
@[simp] theorem State.setWin_rings (s : State) (w : Nat) (x : EscWin) : (s.setWin w x).rings = s.rings := rfl
@[simp] theorem State.setWin_msix (s : State) (w : Nat) (x : EscWin) : (s.setWin w x).msix = s.msix := rfl
@[simp] theorem State.setWin_msixFns (s : State) (w : Nat) (x : EscWin) : (s.setWin w x).msixFns = s.msixFns := rfl
@[simp] theorem State.setWin_mirrored (s : State) (w : Nat) (x : EscWin) : (s.setWin w x).mirrored = s.mirrored := rfl
@[simp] theorem State.setWin_mirrorOut (s : State) (w : Nat) (x : EscWin) : (s.setWin w x).mirrorOut = s.mirrorOut := rfl
@[simp] theorem State.setWin_sent (s : State) (w : Nat) (x : EscWin) : (s.setWin w x).sent = s.sent := rfl
@[simp] theorem State.setWin_ptp (s : State) (w : Nat) (x : EscWin) : (s.setWin w x).ptp = s.ptp := rfl
@[simp] theorem State.setWin_saved (s : State) (w : Nat) (x : EscWin) : (s.setWin w x).saved = s.saved := rfl
@[simp] theorem State.setWin_clockStep (s : State) (w : Nat) (x : EscWin) : (s.setWin w x).clockStep = s.clockStep := rfl
@[simp] theorem State.setWin_powered (s : State) (w : Nat) (x : EscWin) : (s.setWin w x).powered = s.powered := rfl
@[simp] theorem State.setWin_inputs (s : State) (w : Nat) (x : EscWin) : (s.setWin w x).inputs = s.inputs := rfl
@[simp] theorem State.setWin_pick (s : State) (w : Nat) (x : EscWin) : (s.setWin w x).pick = s.pick := rfl
@[simp] theorem State.setWin_slow (s : State) (w : Nat) (x : EscWin) : (s.setWin w x).slow = s.slow := rfl
@[simp] theorem State.setWin_steps (s : State) (w : Nat) (x : EscWin) : (s.setWin w x).steps = s.steps := rfl

@[simp] theorem State.mapCtx_next (s : State) (f : Ctx → Ctx) : (s.mapCtx f).next = s.next := rfl
@[simp] theorem State.mapCtx_mem (s : State) (f : Ctx → Ctx) : (s.mapCtx f).mem = s.mem := rfl
@[simp] theorem State.mapCtx_grans (s : State) (f : Ctx → Ctx) : (s.mapCtx f).grans = s.grans := rfl
@[simp] theorem State.mapCtx_tiles (s : State) (f : Ctx → Ctx) : (s.mapCtx f).tiles = s.tiles := rfl
@[simp] theorem State.mapCtx_districts (s : State) (f : Ctx → Ctx) : (s.mapCtx f).districts = s.districts := rfl
@[simp] theorem State.mapCtx_arrayQ (s : State) (f : Ctx → Ctx) : (s.mapCtx f).arrayQ = s.arrayQ := rfl
@[simp] theorem State.mapCtx_arrayV (s : State) (f : Ctx → Ctx) : (s.mapCtx f).arrayV = s.arrayV := rfl
@[simp] theorem State.mapCtx_launches (s : State) (f : Ctx → Ctx) : (s.mapCtx f).launches = s.launches := rfl
@[simp] theorem State.mapCtx_tasks (s : State) (f : Ctx → Ctx) : (s.mapCtx f).tasks = s.tasks := rfl
@[simp] theorem State.mapCtx_colls (s : State) (f : Ctx → Ctx) : (s.mapCtx f).colls = s.colls := rfl
@[simp] theorem State.mapCtx_waiters (s : State) (f : Ctx → Ctx) : (s.mapCtx f).waiters = s.waiters := rfl
@[simp] theorem State.mapCtx_tenants (s : State) (f : Ctx → Ctx) : (s.mapCtx f).tenants = s.tenants := rfl
@[simp] theorem State.mapCtx_tid (s : State) (f : Ctx → Ctx) : (s.mapCtx f).tid = s.tid := rfl
@[simp] theorem State.mapCtx_slots (s : State) (f : Ctx → Ctx) : (s.mapCtx f).slots = s.slots := rfl
@[simp] theorem State.mapCtx_square (s : State) (f : Ctx → Ctx) : (s.mapCtx f).square = s.square := rfl
@[simp] theorem State.mapCtx_escrow (s : State) (f : Ctx → Ctx) : (s.mapCtx f).escrow = s.escrow := rfl
@[simp] theorem State.mapCtx_pcap (s : State) (f : Ctx → Ctx) : (s.mapCtx f).pcap = s.pcap := rfl
@[simp] theorem State.mapCtx_caps (s : State) (f : Ctx → Ctx) : (s.mapCtx f).caps = s.caps := rfl
@[simp] theorem State.mapCtx_board (s : State) (f : Ctx → Ctx) : (s.mapCtx f).board = s.board := rfl
@[simp] theorem State.mapCtx_capsReg (s : State) (f : Ctx → Ctx) : (s.mapCtx f).capsReg = s.capsReg := rfl
@[simp] theorem State.mapCtx_devid (s : State) (f : Ctx → Ctx) : (s.mapCtx f).devid = s.devid := rfl
@[simp] theorem State.mapCtx_cyc (s : State) (f : Ctx → Ctx) : (s.mapCtx f).cyc = s.cyc := rfl
@[simp] theorem State.mapCtx_refTicks (s : State) (f : Ctx → Ctx) : (s.mapCtx f).refTicks = s.refTicks := rfl
@[simp] theorem State.mapCtx_refFrac (s : State) (f : Ctx → Ctx) : (s.mapCtx f).refFrac = s.refFrac := rfl
@[simp] theorem State.mapCtx_timeOff (s : State) (f : Ctx → Ctx) : (s.mapCtx f).timeOff = s.timeOff := rfl
@[simp] theorem State.mapCtx_slewAt (s : State) (f : Ctx → Ctx) : (s.mapCtx f).slewAt = s.slewAt := rfl
@[simp] theorem State.mapCtx_chkcfg (s : State) (f : Ctx → Ctx) : (s.mapCtx f).chkcfg = s.chkcfg := rfl
@[simp] theorem State.mapCtx_injsel (s : State) (f : Ctx → Ctx) : (s.mapCtx f).injsel = s.injsel := rfl
@[simp] theorem State.mapCtx_injectors (s : State) (f : Ctx → Ctx) : (s.mapCtx f).injectors = s.injectors := rfl
@[simp] theorem State.mapCtx_own (s : State) (f : Ctx → Ctx) : (s.mapCtx f).own = s.own := rfl
@[simp] theorem State.mapCtx_succ (s : State) (f : Ctx → Ctx) : (s.mapCtx f).succ = s.succ := rfl
@[simp] theorem State.mapCtx_epoch (s : State) (f : Ctx → Ctx) : (s.mapCtx f).epoch = s.epoch := rfl
@[simp] theorem State.mapCtx_left (s : State) (f : Ctx → Ctx) : (s.mapCtx f).left = s.left := rfl
@[simp] theorem State.mapCtx_leaseCyc (s : State) (f : Ctx → Ctx) : (s.mapCtx f).leaseCyc = s.leaseCyc := rfl
@[simp] theorem State.mapCtx_jrnlMir (s : State) (f : Ctx → Ctx) : (s.mapCtx f).jrnlMir = s.jrnlMir := rfl
@[simp] theorem State.mapCtx_jrnlCkpt (s : State) (f : Ctx → Ctx) : (s.mapCtx f).jrnlCkpt = s.jrnlCkpt := rfl
@[simp] theorem State.mapCtx_jrnlHead (s : State) (f : Ctx → Ctx) : (s.mapCtx f).jrnlHead = s.jrnlHead := rfl
@[simp] theorem State.mapCtx_jrnlSeq (s : State) (f : Ctx → Ctx) : (s.mapCtx f).jrnlSeq = s.jrnlSeq := rfl
@[simp] theorem State.mapCtx_kickNext (s : State) (f : Ctx → Ctx) : (s.mapCtx f).kickNext = s.kickNext := rfl
@[simp] theorem State.mapCtx_kicks (s : State) (f : Ctx → Ctx) : (s.mapCtx f).kicks = s.kicks := rfl
@[simp] theorem State.mapCtx_fifo (s : State) (f : Ctx → Ctx) : (s.mapCtx f).fifo = s.fifo := rfl
@[simp] theorem State.mapCtx_seizecfg (s : State) (f : Ctx → Ctx) : (s.mapCtx f).seizecfg = s.seizecfg := rfl
@[simp] theorem State.mapCtx_launchTags (s : State) (f : Ctx → Ctx) : (s.mapCtx f).launchTags = s.launchTags := rfl
@[simp] theorem State.mapCtx_rootsDue (s : State) (f : Ctx → Ctx) : (s.mapCtx f).rootsDue = s.rootsDue := rfl
@[simp] theorem State.mapCtx_disp (s : State) (f : Ctx → Ctx) : (s.mapCtx f).disp = s.disp := rfl
@[simp] theorem State.mapCtx_standbyLeads (s : State) (f : Ctx → Ctx) : (s.mapCtx f).standbyLeads = s.standbyLeads := rfl
@[simp] theorem State.mapCtx_pwrmode (s : State) (f : Ctx → Ctx) : (s.mapCtx f).pwrmode = s.pwrmode := rfl
@[simp] theorem State.mapCtx_temp (s : State) (f : Ctx → Ctx) : (s.mapCtx f).temp = s.temp := rfl
@[simp] theorem State.mapCtx_ewbase (s : State) (f : Ctx → Ctx) : (s.mapCtx f).ewbase = s.ewbase := rfl
@[simp] theorem State.mapCtx_ewctl (s : State) (f : Ctx → Ctx) : (s.mapCtx f).ewctl = s.ewctl := rfl
@[simp] theorem State.mapCtx_ewhead (s : State) (f : Ctx → Ctx) : (s.mapCtx f).ewhead = s.ewhead := rfl
@[simp] theorem State.mapCtx_ewtail (s : State) (f : Ctx → Ctx) : (s.mapCtx f).ewtail = s.ewtail := rfl
@[simp] theorem State.mapCtx_ewdrop (s : State) (f : Ctx → Ctx) : (s.mapCtx f).ewdrop = s.ewdrop := rfl
@[simp] theorem State.mapCtx_ewq (s : State) (f : Ctx → Ctx) : (s.mapCtx f).ewq = s.ewq := rfl
@[simp] theorem State.mapCtx_darg (s : State) (f : Ctx → Ctx) : (s.mapCtx f).darg = s.darg := rfl
@[simp] theorem State.mapCtx_dstat (s : State) (f : Ctx → Ctx) : (s.mapCtx f).dstat = s.dstat := rfl
@[simp] theorem State.mapCtx_dcmdArg (s : State) (f : Ctx → Ctx) : (s.mapCtx f).dcmdArg = s.dcmdArg := rfl
@[simp] theorem State.mapCtx_mstat (s : State) (f : Ctx → Ctx) : (s.mapCtx f).mstat = s.mstat := rfl
@[simp] theorem State.mapCtx_smbPtr (s : State) (f : Ctx → Ctx) : (s.mapCtx f).smbPtr = s.smbPtr := rfl
@[simp] theorem State.mapCtx_smbOut (s : State) (f : Ctx → Ctx) : (s.mapCtx f).smbOut = s.smbOut := rfl
@[simp] theorem State.mapCtx_active (s : State) (f : Ctx → Ctx) : (s.mapCtx f).active = s.active := rfl
@[simp] theorem State.mapCtx_activeFrom (s : State) (f : Ctx → Ctx) : (s.mapCtx f).activeFrom = s.activeFrom := rfl
@[simp] theorem State.mapCtx_altImage (s : State) (f : Ctx → Ctx) : (s.mapCtx f).altImage = s.altImage := rfl
@[simp] theorem State.mapCtx_boots (s : State) (f : Ctx → Ctx) : (s.mapCtx f).boots = s.boots := rfl
@[simp] theorem State.mapCtx_bootTries (s : State) (f : Ctx → Ctx) : (s.mapCtx f).bootTries = s.bootTries := rfl
@[simp] theorem State.mapCtx_booted (s : State) (f : Ctx → Ctx) : (s.mapCtx f).booted = s.booted := rfl
@[simp] theorem State.mapCtx_bootStep (s : State) (f : Ctx → Ctx) : (s.mapCtx f).bootStep = s.bootStep := rfl
@[simp] theorem State.mapCtx_bootJrnl (s : State) (f : Ctx → Ctx) : (s.mapCtx f).bootJrnl = s.bootJrnl := rfl
@[simp] theorem State.mapCtx_rings (s : State) (f : Ctx → Ctx) : (s.mapCtx f).rings = s.rings := rfl
@[simp] theorem State.mapCtx_msix (s : State) (f : Ctx → Ctx) : (s.mapCtx f).msix = s.msix := rfl
@[simp] theorem State.mapCtx_msixFns (s : State) (f : Ctx → Ctx) : (s.mapCtx f).msixFns = s.msixFns := rfl
@[simp] theorem State.mapCtx_mirrored (s : State) (f : Ctx → Ctx) : (s.mapCtx f).mirrored = s.mirrored := rfl
@[simp] theorem State.mapCtx_mirrorOut (s : State) (f : Ctx → Ctx) : (s.mapCtx f).mirrorOut = s.mirrorOut := rfl
@[simp] theorem State.mapCtx_sent (s : State) (f : Ctx → Ctx) : (s.mapCtx f).sent = s.sent := rfl
@[simp] theorem State.mapCtx_ptp (s : State) (f : Ctx → Ctx) : (s.mapCtx f).ptp = s.ptp := rfl
@[simp] theorem State.mapCtx_saved (s : State) (f : Ctx → Ctx) : (s.mapCtx f).saved = s.saved := rfl
@[simp] theorem State.mapCtx_clockStep (s : State) (f : Ctx → Ctx) : (s.mapCtx f).clockStep = s.clockStep := rfl
@[simp] theorem State.mapCtx_powered (s : State) (f : Ctx → Ctx) : (s.mapCtx f).powered = s.powered := rfl
@[simp] theorem State.mapCtx_inputs (s : State) (f : Ctx → Ctx) : (s.mapCtx f).inputs = s.inputs := rfl
@[simp] theorem State.mapCtx_pick (s : State) (f : Ctx → Ctx) : (s.mapCtx f).pick = s.pick := rfl
@[simp] theorem State.mapCtx_slow (s : State) (f : Ctx → Ctx) : (s.mapCtx f).slow = s.slow := rfl
@[simp] theorem State.mapCtx_steps (s : State) (f : Ctx → Ctx) : (s.mapCtx f).steps = s.steps := rfl

@[simp] theorem State.updCtx_next (s : State) (u : Nat) (f : Ctx → Ctx) : (s.updCtx u f).next = s.next := rfl
@[simp] theorem State.updCtx_mem (s : State) (u : Nat) (f : Ctx → Ctx) : (s.updCtx u f).mem = s.mem := rfl
@[simp] theorem State.updCtx_grans (s : State) (u : Nat) (f : Ctx → Ctx) : (s.updCtx u f).grans = s.grans := rfl
@[simp] theorem State.updCtx_tiles (s : State) (u : Nat) (f : Ctx → Ctx) : (s.updCtx u f).tiles = s.tiles := rfl
@[simp] theorem State.updCtx_districts (s : State) (u : Nat) (f : Ctx → Ctx) : (s.updCtx u f).districts = s.districts := rfl
@[simp] theorem State.updCtx_arrayQ (s : State) (u : Nat) (f : Ctx → Ctx) : (s.updCtx u f).arrayQ = s.arrayQ := rfl
@[simp] theorem State.updCtx_arrayV (s : State) (u : Nat) (f : Ctx → Ctx) : (s.updCtx u f).arrayV = s.arrayV := rfl
@[simp] theorem State.updCtx_launches (s : State) (u : Nat) (f : Ctx → Ctx) : (s.updCtx u f).launches = s.launches := rfl
@[simp] theorem State.updCtx_tasks (s : State) (u : Nat) (f : Ctx → Ctx) : (s.updCtx u f).tasks = s.tasks := rfl
@[simp] theorem State.updCtx_colls (s : State) (u : Nat) (f : Ctx → Ctx) : (s.updCtx u f).colls = s.colls := rfl
@[simp] theorem State.updCtx_waiters (s : State) (u : Nat) (f : Ctx → Ctx) : (s.updCtx u f).waiters = s.waiters := rfl
@[simp] theorem State.updCtx_tenants (s : State) (u : Nat) (f : Ctx → Ctx) : (s.updCtx u f).tenants = s.tenants := rfl
@[simp] theorem State.updCtx_tid (s : State) (u : Nat) (f : Ctx → Ctx) : (s.updCtx u f).tid = s.tid := rfl
@[simp] theorem State.updCtx_slots (s : State) (u : Nat) (f : Ctx → Ctx) : (s.updCtx u f).slots = s.slots := rfl
@[simp] theorem State.updCtx_square (s : State) (u : Nat) (f : Ctx → Ctx) : (s.updCtx u f).square = s.square := rfl
@[simp] theorem State.updCtx_escrow (s : State) (u : Nat) (f : Ctx → Ctx) : (s.updCtx u f).escrow = s.escrow := rfl
@[simp] theorem State.updCtx_pcap (s : State) (u : Nat) (f : Ctx → Ctx) : (s.updCtx u f).pcap = s.pcap := rfl
@[simp] theorem State.updCtx_caps (s : State) (u : Nat) (f : Ctx → Ctx) : (s.updCtx u f).caps = s.caps := rfl
@[simp] theorem State.updCtx_board (s : State) (u : Nat) (f : Ctx → Ctx) : (s.updCtx u f).board = s.board := rfl
@[simp] theorem State.updCtx_capsReg (s : State) (u : Nat) (f : Ctx → Ctx) : (s.updCtx u f).capsReg = s.capsReg := rfl
@[simp] theorem State.updCtx_devid (s : State) (u : Nat) (f : Ctx → Ctx) : (s.updCtx u f).devid = s.devid := rfl
@[simp] theorem State.updCtx_cyc (s : State) (u : Nat) (f : Ctx → Ctx) : (s.updCtx u f).cyc = s.cyc := rfl
@[simp] theorem State.updCtx_refTicks (s : State) (u : Nat) (f : Ctx → Ctx) : (s.updCtx u f).refTicks = s.refTicks := rfl
@[simp] theorem State.updCtx_refFrac (s : State) (u : Nat) (f : Ctx → Ctx) : (s.updCtx u f).refFrac = s.refFrac := rfl
@[simp] theorem State.updCtx_timeOff (s : State) (u : Nat) (f : Ctx → Ctx) : (s.updCtx u f).timeOff = s.timeOff := rfl
@[simp] theorem State.updCtx_slewAt (s : State) (u : Nat) (f : Ctx → Ctx) : (s.updCtx u f).slewAt = s.slewAt := rfl
@[simp] theorem State.updCtx_chkcfg (s : State) (u : Nat) (f : Ctx → Ctx) : (s.updCtx u f).chkcfg = s.chkcfg := rfl
@[simp] theorem State.updCtx_injsel (s : State) (u : Nat) (f : Ctx → Ctx) : (s.updCtx u f).injsel = s.injsel := rfl
@[simp] theorem State.updCtx_injectors (s : State) (u : Nat) (f : Ctx → Ctx) : (s.updCtx u f).injectors = s.injectors := rfl
@[simp] theorem State.updCtx_own (s : State) (u : Nat) (f : Ctx → Ctx) : (s.updCtx u f).own = s.own := rfl
@[simp] theorem State.updCtx_succ (s : State) (u : Nat) (f : Ctx → Ctx) : (s.updCtx u f).succ = s.succ := rfl
@[simp] theorem State.updCtx_epoch (s : State) (u : Nat) (f : Ctx → Ctx) : (s.updCtx u f).epoch = s.epoch := rfl
@[simp] theorem State.updCtx_left (s : State) (u : Nat) (f : Ctx → Ctx) : (s.updCtx u f).left = s.left := rfl
@[simp] theorem State.updCtx_leaseCyc (s : State) (u : Nat) (f : Ctx → Ctx) : (s.updCtx u f).leaseCyc = s.leaseCyc := rfl
@[simp] theorem State.updCtx_jrnlMir (s : State) (u : Nat) (f : Ctx → Ctx) : (s.updCtx u f).jrnlMir = s.jrnlMir := rfl
@[simp] theorem State.updCtx_jrnlCkpt (s : State) (u : Nat) (f : Ctx → Ctx) : (s.updCtx u f).jrnlCkpt = s.jrnlCkpt := rfl
@[simp] theorem State.updCtx_jrnlHead (s : State) (u : Nat) (f : Ctx → Ctx) : (s.updCtx u f).jrnlHead = s.jrnlHead := rfl
@[simp] theorem State.updCtx_jrnlSeq (s : State) (u : Nat) (f : Ctx → Ctx) : (s.updCtx u f).jrnlSeq = s.jrnlSeq := rfl
@[simp] theorem State.updCtx_kickNext (s : State) (u : Nat) (f : Ctx → Ctx) : (s.updCtx u f).kickNext = s.kickNext := rfl
@[simp] theorem State.updCtx_kicks (s : State) (u : Nat) (f : Ctx → Ctx) : (s.updCtx u f).kicks = s.kicks := rfl
@[simp] theorem State.updCtx_fifo (s : State) (u : Nat) (f : Ctx → Ctx) : (s.updCtx u f).fifo = s.fifo := rfl
@[simp] theorem State.updCtx_seizecfg (s : State) (u : Nat) (f : Ctx → Ctx) : (s.updCtx u f).seizecfg = s.seizecfg := rfl
@[simp] theorem State.updCtx_launchTags (s : State) (u : Nat) (f : Ctx → Ctx) : (s.updCtx u f).launchTags = s.launchTags := rfl
@[simp] theorem State.updCtx_rootsDue (s : State) (u : Nat) (f : Ctx → Ctx) : (s.updCtx u f).rootsDue = s.rootsDue := rfl
@[simp] theorem State.updCtx_disp (s : State) (u : Nat) (f : Ctx → Ctx) : (s.updCtx u f).disp = s.disp := rfl
@[simp] theorem State.updCtx_standbyLeads (s : State) (u : Nat) (f : Ctx → Ctx) : (s.updCtx u f).standbyLeads = s.standbyLeads := rfl
@[simp] theorem State.updCtx_pwrmode (s : State) (u : Nat) (f : Ctx → Ctx) : (s.updCtx u f).pwrmode = s.pwrmode := rfl
@[simp] theorem State.updCtx_temp (s : State) (u : Nat) (f : Ctx → Ctx) : (s.updCtx u f).temp = s.temp := rfl
@[simp] theorem State.updCtx_ewbase (s : State) (u : Nat) (f : Ctx → Ctx) : (s.updCtx u f).ewbase = s.ewbase := rfl
@[simp] theorem State.updCtx_ewctl (s : State) (u : Nat) (f : Ctx → Ctx) : (s.updCtx u f).ewctl = s.ewctl := rfl
@[simp] theorem State.updCtx_ewhead (s : State) (u : Nat) (f : Ctx → Ctx) : (s.updCtx u f).ewhead = s.ewhead := rfl
@[simp] theorem State.updCtx_ewtail (s : State) (u : Nat) (f : Ctx → Ctx) : (s.updCtx u f).ewtail = s.ewtail := rfl
@[simp] theorem State.updCtx_ewdrop (s : State) (u : Nat) (f : Ctx → Ctx) : (s.updCtx u f).ewdrop = s.ewdrop := rfl
@[simp] theorem State.updCtx_ewq (s : State) (u : Nat) (f : Ctx → Ctx) : (s.updCtx u f).ewq = s.ewq := rfl
@[simp] theorem State.updCtx_darg (s : State) (u : Nat) (f : Ctx → Ctx) : (s.updCtx u f).darg = s.darg := rfl
@[simp] theorem State.updCtx_dstat (s : State) (u : Nat) (f : Ctx → Ctx) : (s.updCtx u f).dstat = s.dstat := rfl
@[simp] theorem State.updCtx_dcmdArg (s : State) (u : Nat) (f : Ctx → Ctx) : (s.updCtx u f).dcmdArg = s.dcmdArg := rfl
@[simp] theorem State.updCtx_mstat (s : State) (u : Nat) (f : Ctx → Ctx) : (s.updCtx u f).mstat = s.mstat := rfl
@[simp] theorem State.updCtx_smbPtr (s : State) (u : Nat) (f : Ctx → Ctx) : (s.updCtx u f).smbPtr = s.smbPtr := rfl
@[simp] theorem State.updCtx_smbOut (s : State) (u : Nat) (f : Ctx → Ctx) : (s.updCtx u f).smbOut = s.smbOut := rfl
@[simp] theorem State.updCtx_active (s : State) (u : Nat) (f : Ctx → Ctx) : (s.updCtx u f).active = s.active := rfl
@[simp] theorem State.updCtx_activeFrom (s : State) (u : Nat) (f : Ctx → Ctx) : (s.updCtx u f).activeFrom = s.activeFrom := rfl
@[simp] theorem State.updCtx_altImage (s : State) (u : Nat) (f : Ctx → Ctx) : (s.updCtx u f).altImage = s.altImage := rfl
@[simp] theorem State.updCtx_boots (s : State) (u : Nat) (f : Ctx → Ctx) : (s.updCtx u f).boots = s.boots := rfl
@[simp] theorem State.updCtx_bootTries (s : State) (u : Nat) (f : Ctx → Ctx) : (s.updCtx u f).bootTries = s.bootTries := rfl
@[simp] theorem State.updCtx_booted (s : State) (u : Nat) (f : Ctx → Ctx) : (s.updCtx u f).booted = s.booted := rfl
@[simp] theorem State.updCtx_bootStep (s : State) (u : Nat) (f : Ctx → Ctx) : (s.updCtx u f).bootStep = s.bootStep := rfl
@[simp] theorem State.updCtx_bootJrnl (s : State) (u : Nat) (f : Ctx → Ctx) : (s.updCtx u f).bootJrnl = s.bootJrnl := rfl
@[simp] theorem State.updCtx_rings (s : State) (u : Nat) (f : Ctx → Ctx) : (s.updCtx u f).rings = s.rings := rfl
@[simp] theorem State.updCtx_msix (s : State) (u : Nat) (f : Ctx → Ctx) : (s.updCtx u f).msix = s.msix := rfl
@[simp] theorem State.updCtx_msixFns (s : State) (u : Nat) (f : Ctx → Ctx) : (s.updCtx u f).msixFns = s.msixFns := rfl
@[simp] theorem State.updCtx_mirrored (s : State) (u : Nat) (f : Ctx → Ctx) : (s.updCtx u f).mirrored = s.mirrored := rfl
@[simp] theorem State.updCtx_mirrorOut (s : State) (u : Nat) (f : Ctx → Ctx) : (s.updCtx u f).mirrorOut = s.mirrorOut := rfl
@[simp] theorem State.updCtx_sent (s : State) (u : Nat) (f : Ctx → Ctx) : (s.updCtx u f).sent = s.sent := rfl
@[simp] theorem State.updCtx_ptp (s : State) (u : Nat) (f : Ctx → Ctx) : (s.updCtx u f).ptp = s.ptp := rfl
@[simp] theorem State.updCtx_saved (s : State) (u : Nat) (f : Ctx → Ctx) : (s.updCtx u f).saved = s.saved := rfl
@[simp] theorem State.updCtx_clockStep (s : State) (u : Nat) (f : Ctx → Ctx) : (s.updCtx u f).clockStep = s.clockStep := rfl
@[simp] theorem State.updCtx_powered (s : State) (u : Nat) (f : Ctx → Ctx) : (s.updCtx u f).powered = s.powered := rfl
@[simp] theorem State.updCtx_inputs (s : State) (u : Nat) (f : Ctx → Ctx) : (s.updCtx u f).inputs = s.inputs := rfl
@[simp] theorem State.updCtx_pick (s : State) (u : Nat) (f : Ctx → Ctx) : (s.updCtx u f).pick = s.pick := rfl
@[simp] theorem State.updCtx_slow (s : State) (u : Nat) (f : Ctx → Ctx) : (s.updCtx u f).slow = s.slow := rfl
@[simp] theorem State.updCtx_steps (s : State) (u : Nat) (f : Ctx → Ctx) : (s.updCtx u f).steps = s.steps := rfl

@[simp] theorem State.updTask_c (s : State) (n : Nat) (f : Task → Task) : (s.updTask n f).c = s.c := rfl
@[simp] theorem State.updTask_others (s : State) (n : Nat) (f : Task → Task) : (s.updTask n f).others = s.others := rfl
@[simp] theorem State.updTask_next (s : State) (n : Nat) (f : Task → Task) : (s.updTask n f).next = s.next := rfl
@[simp] theorem State.updTask_mem (s : State) (n : Nat) (f : Task → Task) : (s.updTask n f).mem = s.mem := rfl
@[simp] theorem State.updTask_grans (s : State) (n : Nat) (f : Task → Task) : (s.updTask n f).grans = s.grans := rfl
@[simp] theorem State.updTask_tiles (s : State) (n : Nat) (f : Task → Task) : (s.updTask n f).tiles = s.tiles := rfl
@[simp] theorem State.updTask_districts (s : State) (n : Nat) (f : Task → Task) : (s.updTask n f).districts = s.districts := rfl
@[simp] theorem State.updTask_arrayQ (s : State) (n : Nat) (f : Task → Task) : (s.updTask n f).arrayQ = s.arrayQ := rfl
@[simp] theorem State.updTask_arrayV (s : State) (n : Nat) (f : Task → Task) : (s.updTask n f).arrayV = s.arrayV := rfl
@[simp] theorem State.updTask_launches (s : State) (n : Nat) (f : Task → Task) : (s.updTask n f).launches = s.launches := rfl
@[simp] theorem State.updTask_colls (s : State) (n : Nat) (f : Task → Task) : (s.updTask n f).colls = s.colls := rfl
@[simp] theorem State.updTask_waiters (s : State) (n : Nat) (f : Task → Task) : (s.updTask n f).waiters = s.waiters := rfl
@[simp] theorem State.updTask_tenants (s : State) (n : Nat) (f : Task → Task) : (s.updTask n f).tenants = s.tenants := rfl
@[simp] theorem State.updTask_tid (s : State) (n : Nat) (f : Task → Task) : (s.updTask n f).tid = s.tid := rfl
@[simp] theorem State.updTask_slots (s : State) (n : Nat) (f : Task → Task) : (s.updTask n f).slots = s.slots := rfl
@[simp] theorem State.updTask_square (s : State) (n : Nat) (f : Task → Task) : (s.updTask n f).square = s.square := rfl
@[simp] theorem State.updTask_escrow (s : State) (n : Nat) (f : Task → Task) : (s.updTask n f).escrow = s.escrow := rfl
@[simp] theorem State.updTask_pcap (s : State) (n : Nat) (f : Task → Task) : (s.updTask n f).pcap = s.pcap := rfl
@[simp] theorem State.updTask_caps (s : State) (n : Nat) (f : Task → Task) : (s.updTask n f).caps = s.caps := rfl
@[simp] theorem State.updTask_board (s : State) (n : Nat) (f : Task → Task) : (s.updTask n f).board = s.board := rfl
@[simp] theorem State.updTask_capsReg (s : State) (n : Nat) (f : Task → Task) : (s.updTask n f).capsReg = s.capsReg := rfl
@[simp] theorem State.updTask_devid (s : State) (n : Nat) (f : Task → Task) : (s.updTask n f).devid = s.devid := rfl
@[simp] theorem State.updTask_cyc (s : State) (n : Nat) (f : Task → Task) : (s.updTask n f).cyc = s.cyc := rfl
@[simp] theorem State.updTask_refTicks (s : State) (n : Nat) (f : Task → Task) : (s.updTask n f).refTicks = s.refTicks := rfl
@[simp] theorem State.updTask_refFrac (s : State) (n : Nat) (f : Task → Task) : (s.updTask n f).refFrac = s.refFrac := rfl
@[simp] theorem State.updTask_timeOff (s : State) (n : Nat) (f : Task → Task) : (s.updTask n f).timeOff = s.timeOff := rfl
@[simp] theorem State.updTask_slewAt (s : State) (n : Nat) (f : Task → Task) : (s.updTask n f).slewAt = s.slewAt := rfl
@[simp] theorem State.updTask_chkcfg (s : State) (n : Nat) (f : Task → Task) : (s.updTask n f).chkcfg = s.chkcfg := rfl
@[simp] theorem State.updTask_injsel (s : State) (n : Nat) (f : Task → Task) : (s.updTask n f).injsel = s.injsel := rfl
@[simp] theorem State.updTask_injectors (s : State) (n : Nat) (f : Task → Task) : (s.updTask n f).injectors = s.injectors := rfl
@[simp] theorem State.updTask_own (s : State) (n : Nat) (f : Task → Task) : (s.updTask n f).own = s.own := rfl
@[simp] theorem State.updTask_succ (s : State) (n : Nat) (f : Task → Task) : (s.updTask n f).succ = s.succ := rfl
@[simp] theorem State.updTask_epoch (s : State) (n : Nat) (f : Task → Task) : (s.updTask n f).epoch = s.epoch := rfl
@[simp] theorem State.updTask_left (s : State) (n : Nat) (f : Task → Task) : (s.updTask n f).left = s.left := rfl
@[simp] theorem State.updTask_leaseCyc (s : State) (n : Nat) (f : Task → Task) : (s.updTask n f).leaseCyc = s.leaseCyc := rfl
@[simp] theorem State.updTask_jrnlMir (s : State) (n : Nat) (f : Task → Task) : (s.updTask n f).jrnlMir = s.jrnlMir := rfl
@[simp] theorem State.updTask_jrnlCkpt (s : State) (n : Nat) (f : Task → Task) : (s.updTask n f).jrnlCkpt = s.jrnlCkpt := rfl
@[simp] theorem State.updTask_jrnlHead (s : State) (n : Nat) (f : Task → Task) : (s.updTask n f).jrnlHead = s.jrnlHead := rfl
@[simp] theorem State.updTask_jrnlSeq (s : State) (n : Nat) (f : Task → Task) : (s.updTask n f).jrnlSeq = s.jrnlSeq := rfl
@[simp] theorem State.updTask_kickNext (s : State) (n : Nat) (f : Task → Task) : (s.updTask n f).kickNext = s.kickNext := rfl
@[simp] theorem State.updTask_kicks (s : State) (n : Nat) (f : Task → Task) : (s.updTask n f).kicks = s.kicks := rfl
@[simp] theorem State.updTask_fifo (s : State) (n : Nat) (f : Task → Task) : (s.updTask n f).fifo = s.fifo := rfl
@[simp] theorem State.updTask_seizecfg (s : State) (n : Nat) (f : Task → Task) : (s.updTask n f).seizecfg = s.seizecfg := rfl
@[simp] theorem State.updTask_launchTags (s : State) (n : Nat) (f : Task → Task) : (s.updTask n f).launchTags = s.launchTags := rfl
@[simp] theorem State.updTask_rootsDue (s : State) (n : Nat) (f : Task → Task) : (s.updTask n f).rootsDue = s.rootsDue := rfl
@[simp] theorem State.updTask_disp (s : State) (n : Nat) (f : Task → Task) : (s.updTask n f).disp = s.disp := rfl
@[simp] theorem State.updTask_standbyLeads (s : State) (n : Nat) (f : Task → Task) : (s.updTask n f).standbyLeads = s.standbyLeads := rfl
@[simp] theorem State.updTask_pwrmode (s : State) (n : Nat) (f : Task → Task) : (s.updTask n f).pwrmode = s.pwrmode := rfl
@[simp] theorem State.updTask_temp (s : State) (n : Nat) (f : Task → Task) : (s.updTask n f).temp = s.temp := rfl
@[simp] theorem State.updTask_ewbase (s : State) (n : Nat) (f : Task → Task) : (s.updTask n f).ewbase = s.ewbase := rfl
@[simp] theorem State.updTask_ewctl (s : State) (n : Nat) (f : Task → Task) : (s.updTask n f).ewctl = s.ewctl := rfl
@[simp] theorem State.updTask_ewhead (s : State) (n : Nat) (f : Task → Task) : (s.updTask n f).ewhead = s.ewhead := rfl
@[simp] theorem State.updTask_ewtail (s : State) (n : Nat) (f : Task → Task) : (s.updTask n f).ewtail = s.ewtail := rfl
@[simp] theorem State.updTask_ewdrop (s : State) (n : Nat) (f : Task → Task) : (s.updTask n f).ewdrop = s.ewdrop := rfl
@[simp] theorem State.updTask_ewq (s : State) (n : Nat) (f : Task → Task) : (s.updTask n f).ewq = s.ewq := rfl
@[simp] theorem State.updTask_darg (s : State) (n : Nat) (f : Task → Task) : (s.updTask n f).darg = s.darg := rfl
@[simp] theorem State.updTask_dstat (s : State) (n : Nat) (f : Task → Task) : (s.updTask n f).dstat = s.dstat := rfl
@[simp] theorem State.updTask_dcmdArg (s : State) (n : Nat) (f : Task → Task) : (s.updTask n f).dcmdArg = s.dcmdArg := rfl
@[simp] theorem State.updTask_mstat (s : State) (n : Nat) (f : Task → Task) : (s.updTask n f).mstat = s.mstat := rfl
@[simp] theorem State.updTask_smbPtr (s : State) (n : Nat) (f : Task → Task) : (s.updTask n f).smbPtr = s.smbPtr := rfl
@[simp] theorem State.updTask_smbOut (s : State) (n : Nat) (f : Task → Task) : (s.updTask n f).smbOut = s.smbOut := rfl
@[simp] theorem State.updTask_active (s : State) (n : Nat) (f : Task → Task) : (s.updTask n f).active = s.active := rfl
@[simp] theorem State.updTask_activeFrom (s : State) (n : Nat) (f : Task → Task) : (s.updTask n f).activeFrom = s.activeFrom := rfl
@[simp] theorem State.updTask_altImage (s : State) (n : Nat) (f : Task → Task) : (s.updTask n f).altImage = s.altImage := rfl
@[simp] theorem State.updTask_boots (s : State) (n : Nat) (f : Task → Task) : (s.updTask n f).boots = s.boots := rfl
@[simp] theorem State.updTask_bootTries (s : State) (n : Nat) (f : Task → Task) : (s.updTask n f).bootTries = s.bootTries := rfl
@[simp] theorem State.updTask_booted (s : State) (n : Nat) (f : Task → Task) : (s.updTask n f).booted = s.booted := rfl
@[simp] theorem State.updTask_bootStep (s : State) (n : Nat) (f : Task → Task) : (s.updTask n f).bootStep = s.bootStep := rfl
@[simp] theorem State.updTask_bootJrnl (s : State) (n : Nat) (f : Task → Task) : (s.updTask n f).bootJrnl = s.bootJrnl := rfl
@[simp] theorem State.updTask_rings (s : State) (n : Nat) (f : Task → Task) : (s.updTask n f).rings = s.rings := rfl
@[simp] theorem State.updTask_msix (s : State) (n : Nat) (f : Task → Task) : (s.updTask n f).msix = s.msix := rfl
@[simp] theorem State.updTask_msixFns (s : State) (n : Nat) (f : Task → Task) : (s.updTask n f).msixFns = s.msixFns := rfl
@[simp] theorem State.updTask_mirrored (s : State) (n : Nat) (f : Task → Task) : (s.updTask n f).mirrored = s.mirrored := rfl
@[simp] theorem State.updTask_mirrorOut (s : State) (n : Nat) (f : Task → Task) : (s.updTask n f).mirrorOut = s.mirrorOut := rfl
@[simp] theorem State.updTask_sent (s : State) (n : Nat) (f : Task → Task) : (s.updTask n f).sent = s.sent := rfl
@[simp] theorem State.updTask_ptp (s : State) (n : Nat) (f : Task → Task) : (s.updTask n f).ptp = s.ptp := rfl
@[simp] theorem State.updTask_saved (s : State) (n : Nat) (f : Task → Task) : (s.updTask n f).saved = s.saved := rfl
@[simp] theorem State.updTask_clockStep (s : State) (n : Nat) (f : Task → Task) : (s.updTask n f).clockStep = s.clockStep := rfl
@[simp] theorem State.updTask_powered (s : State) (n : Nat) (f : Task → Task) : (s.updTask n f).powered = s.powered := rfl
@[simp] theorem State.updTask_inputs (s : State) (n : Nat) (f : Task → Task) : (s.updTask n f).inputs = s.inputs := rfl
@[simp] theorem State.updTask_pick (s : State) (n : Nat) (f : Task → Task) : (s.updTask n f).pick = s.pick := rfl
@[simp] theorem State.updTask_slow (s : State) (n : Nat) (f : Task → Task) : (s.updTask n f).slow = s.slow := rfl
@[simp] theorem State.updTask_steps (s : State) (n : Nat) (f : Task → Task) : (s.updTask n f).steps = s.steps := rfl

@[simp] theorem State.updLaunch_c (s : State) (n : Nat) (f : Launch → Launch) : (s.updLaunch n f).c = s.c := rfl
@[simp] theorem State.updLaunch_others (s : State) (n : Nat) (f : Launch → Launch) : (s.updLaunch n f).others = s.others := rfl
@[simp] theorem State.updLaunch_next (s : State) (n : Nat) (f : Launch → Launch) : (s.updLaunch n f).next = s.next := rfl
@[simp] theorem State.updLaunch_mem (s : State) (n : Nat) (f : Launch → Launch) : (s.updLaunch n f).mem = s.mem := rfl
@[simp] theorem State.updLaunch_grans (s : State) (n : Nat) (f : Launch → Launch) : (s.updLaunch n f).grans = s.grans := rfl
@[simp] theorem State.updLaunch_tiles (s : State) (n : Nat) (f : Launch → Launch) : (s.updLaunch n f).tiles = s.tiles := rfl
@[simp] theorem State.updLaunch_districts (s : State) (n : Nat) (f : Launch → Launch) : (s.updLaunch n f).districts = s.districts := rfl
@[simp] theorem State.updLaunch_arrayQ (s : State) (n : Nat) (f : Launch → Launch) : (s.updLaunch n f).arrayQ = s.arrayQ := rfl
@[simp] theorem State.updLaunch_arrayV (s : State) (n : Nat) (f : Launch → Launch) : (s.updLaunch n f).arrayV = s.arrayV := rfl
@[simp] theorem State.updLaunch_tasks (s : State) (n : Nat) (f : Launch → Launch) : (s.updLaunch n f).tasks = s.tasks := rfl
@[simp] theorem State.updLaunch_colls (s : State) (n : Nat) (f : Launch → Launch) : (s.updLaunch n f).colls = s.colls := rfl
@[simp] theorem State.updLaunch_waiters (s : State) (n : Nat) (f : Launch → Launch) : (s.updLaunch n f).waiters = s.waiters := rfl
@[simp] theorem State.updLaunch_tenants (s : State) (n : Nat) (f : Launch → Launch) : (s.updLaunch n f).tenants = s.tenants := rfl
@[simp] theorem State.updLaunch_tid (s : State) (n : Nat) (f : Launch → Launch) : (s.updLaunch n f).tid = s.tid := rfl
@[simp] theorem State.updLaunch_slots (s : State) (n : Nat) (f : Launch → Launch) : (s.updLaunch n f).slots = s.slots := rfl
@[simp] theorem State.updLaunch_square (s : State) (n : Nat) (f : Launch → Launch) : (s.updLaunch n f).square = s.square := rfl
@[simp] theorem State.updLaunch_escrow (s : State) (n : Nat) (f : Launch → Launch) : (s.updLaunch n f).escrow = s.escrow := rfl
@[simp] theorem State.updLaunch_pcap (s : State) (n : Nat) (f : Launch → Launch) : (s.updLaunch n f).pcap = s.pcap := rfl
@[simp] theorem State.updLaunch_caps (s : State) (n : Nat) (f : Launch → Launch) : (s.updLaunch n f).caps = s.caps := rfl
@[simp] theorem State.updLaunch_board (s : State) (n : Nat) (f : Launch → Launch) : (s.updLaunch n f).board = s.board := rfl
@[simp] theorem State.updLaunch_capsReg (s : State) (n : Nat) (f : Launch → Launch) : (s.updLaunch n f).capsReg = s.capsReg := rfl
@[simp] theorem State.updLaunch_devid (s : State) (n : Nat) (f : Launch → Launch) : (s.updLaunch n f).devid = s.devid := rfl
@[simp] theorem State.updLaunch_cyc (s : State) (n : Nat) (f : Launch → Launch) : (s.updLaunch n f).cyc = s.cyc := rfl
@[simp] theorem State.updLaunch_refTicks (s : State) (n : Nat) (f : Launch → Launch) : (s.updLaunch n f).refTicks = s.refTicks := rfl
@[simp] theorem State.updLaunch_refFrac (s : State) (n : Nat) (f : Launch → Launch) : (s.updLaunch n f).refFrac = s.refFrac := rfl
@[simp] theorem State.updLaunch_timeOff (s : State) (n : Nat) (f : Launch → Launch) : (s.updLaunch n f).timeOff = s.timeOff := rfl
@[simp] theorem State.updLaunch_slewAt (s : State) (n : Nat) (f : Launch → Launch) : (s.updLaunch n f).slewAt = s.slewAt := rfl
@[simp] theorem State.updLaunch_chkcfg (s : State) (n : Nat) (f : Launch → Launch) : (s.updLaunch n f).chkcfg = s.chkcfg := rfl
@[simp] theorem State.updLaunch_injsel (s : State) (n : Nat) (f : Launch → Launch) : (s.updLaunch n f).injsel = s.injsel := rfl
@[simp] theorem State.updLaunch_injectors (s : State) (n : Nat) (f : Launch → Launch) : (s.updLaunch n f).injectors = s.injectors := rfl
@[simp] theorem State.updLaunch_own (s : State) (n : Nat) (f : Launch → Launch) : (s.updLaunch n f).own = s.own := rfl
@[simp] theorem State.updLaunch_succ (s : State) (n : Nat) (f : Launch → Launch) : (s.updLaunch n f).succ = s.succ := rfl
@[simp] theorem State.updLaunch_epoch (s : State) (n : Nat) (f : Launch → Launch) : (s.updLaunch n f).epoch = s.epoch := rfl
@[simp] theorem State.updLaunch_left (s : State) (n : Nat) (f : Launch → Launch) : (s.updLaunch n f).left = s.left := rfl
@[simp] theorem State.updLaunch_leaseCyc (s : State) (n : Nat) (f : Launch → Launch) : (s.updLaunch n f).leaseCyc = s.leaseCyc := rfl
@[simp] theorem State.updLaunch_jrnlMir (s : State) (n : Nat) (f : Launch → Launch) : (s.updLaunch n f).jrnlMir = s.jrnlMir := rfl
@[simp] theorem State.updLaunch_jrnlCkpt (s : State) (n : Nat) (f : Launch → Launch) : (s.updLaunch n f).jrnlCkpt = s.jrnlCkpt := rfl
@[simp] theorem State.updLaunch_jrnlHead (s : State) (n : Nat) (f : Launch → Launch) : (s.updLaunch n f).jrnlHead = s.jrnlHead := rfl
@[simp] theorem State.updLaunch_jrnlSeq (s : State) (n : Nat) (f : Launch → Launch) : (s.updLaunch n f).jrnlSeq = s.jrnlSeq := rfl
@[simp] theorem State.updLaunch_kickNext (s : State) (n : Nat) (f : Launch → Launch) : (s.updLaunch n f).kickNext = s.kickNext := rfl
@[simp] theorem State.updLaunch_kicks (s : State) (n : Nat) (f : Launch → Launch) : (s.updLaunch n f).kicks = s.kicks := rfl
@[simp] theorem State.updLaunch_fifo (s : State) (n : Nat) (f : Launch → Launch) : (s.updLaunch n f).fifo = s.fifo := rfl
@[simp] theorem State.updLaunch_seizecfg (s : State) (n : Nat) (f : Launch → Launch) : (s.updLaunch n f).seizecfg = s.seizecfg := rfl
@[simp] theorem State.updLaunch_launchTags (s : State) (n : Nat) (f : Launch → Launch) : (s.updLaunch n f).launchTags = s.launchTags := rfl
@[simp] theorem State.updLaunch_rootsDue (s : State) (n : Nat) (f : Launch → Launch) : (s.updLaunch n f).rootsDue = s.rootsDue := rfl
@[simp] theorem State.updLaunch_disp (s : State) (n : Nat) (f : Launch → Launch) : (s.updLaunch n f).disp = s.disp := rfl
@[simp] theorem State.updLaunch_standbyLeads (s : State) (n : Nat) (f : Launch → Launch) : (s.updLaunch n f).standbyLeads = s.standbyLeads := rfl
@[simp] theorem State.updLaunch_pwrmode (s : State) (n : Nat) (f : Launch → Launch) : (s.updLaunch n f).pwrmode = s.pwrmode := rfl
@[simp] theorem State.updLaunch_temp (s : State) (n : Nat) (f : Launch → Launch) : (s.updLaunch n f).temp = s.temp := rfl
@[simp] theorem State.updLaunch_ewbase (s : State) (n : Nat) (f : Launch → Launch) : (s.updLaunch n f).ewbase = s.ewbase := rfl
@[simp] theorem State.updLaunch_ewctl (s : State) (n : Nat) (f : Launch → Launch) : (s.updLaunch n f).ewctl = s.ewctl := rfl
@[simp] theorem State.updLaunch_ewhead (s : State) (n : Nat) (f : Launch → Launch) : (s.updLaunch n f).ewhead = s.ewhead := rfl
@[simp] theorem State.updLaunch_ewtail (s : State) (n : Nat) (f : Launch → Launch) : (s.updLaunch n f).ewtail = s.ewtail := rfl
@[simp] theorem State.updLaunch_ewdrop (s : State) (n : Nat) (f : Launch → Launch) : (s.updLaunch n f).ewdrop = s.ewdrop := rfl
@[simp] theorem State.updLaunch_ewq (s : State) (n : Nat) (f : Launch → Launch) : (s.updLaunch n f).ewq = s.ewq := rfl
@[simp] theorem State.updLaunch_darg (s : State) (n : Nat) (f : Launch → Launch) : (s.updLaunch n f).darg = s.darg := rfl
@[simp] theorem State.updLaunch_dstat (s : State) (n : Nat) (f : Launch → Launch) : (s.updLaunch n f).dstat = s.dstat := rfl
@[simp] theorem State.updLaunch_dcmdArg (s : State) (n : Nat) (f : Launch → Launch) : (s.updLaunch n f).dcmdArg = s.dcmdArg := rfl
@[simp] theorem State.updLaunch_mstat (s : State) (n : Nat) (f : Launch → Launch) : (s.updLaunch n f).mstat = s.mstat := rfl
@[simp] theorem State.updLaunch_smbPtr (s : State) (n : Nat) (f : Launch → Launch) : (s.updLaunch n f).smbPtr = s.smbPtr := rfl
@[simp] theorem State.updLaunch_smbOut (s : State) (n : Nat) (f : Launch → Launch) : (s.updLaunch n f).smbOut = s.smbOut := rfl
@[simp] theorem State.updLaunch_active (s : State) (n : Nat) (f : Launch → Launch) : (s.updLaunch n f).active = s.active := rfl
@[simp] theorem State.updLaunch_activeFrom (s : State) (n : Nat) (f : Launch → Launch) : (s.updLaunch n f).activeFrom = s.activeFrom := rfl
@[simp] theorem State.updLaunch_altImage (s : State) (n : Nat) (f : Launch → Launch) : (s.updLaunch n f).altImage = s.altImage := rfl
@[simp] theorem State.updLaunch_boots (s : State) (n : Nat) (f : Launch → Launch) : (s.updLaunch n f).boots = s.boots := rfl
@[simp] theorem State.updLaunch_bootTries (s : State) (n : Nat) (f : Launch → Launch) : (s.updLaunch n f).bootTries = s.bootTries := rfl
@[simp] theorem State.updLaunch_booted (s : State) (n : Nat) (f : Launch → Launch) : (s.updLaunch n f).booted = s.booted := rfl
@[simp] theorem State.updLaunch_bootStep (s : State) (n : Nat) (f : Launch → Launch) : (s.updLaunch n f).bootStep = s.bootStep := rfl
@[simp] theorem State.updLaunch_bootJrnl (s : State) (n : Nat) (f : Launch → Launch) : (s.updLaunch n f).bootJrnl = s.bootJrnl := rfl
@[simp] theorem State.updLaunch_rings (s : State) (n : Nat) (f : Launch → Launch) : (s.updLaunch n f).rings = s.rings := rfl
@[simp] theorem State.updLaunch_msix (s : State) (n : Nat) (f : Launch → Launch) : (s.updLaunch n f).msix = s.msix := rfl
@[simp] theorem State.updLaunch_msixFns (s : State) (n : Nat) (f : Launch → Launch) : (s.updLaunch n f).msixFns = s.msixFns := rfl
@[simp] theorem State.updLaunch_mirrored (s : State) (n : Nat) (f : Launch → Launch) : (s.updLaunch n f).mirrored = s.mirrored := rfl
@[simp] theorem State.updLaunch_mirrorOut (s : State) (n : Nat) (f : Launch → Launch) : (s.updLaunch n f).mirrorOut = s.mirrorOut := rfl
@[simp] theorem State.updLaunch_sent (s : State) (n : Nat) (f : Launch → Launch) : (s.updLaunch n f).sent = s.sent := rfl
@[simp] theorem State.updLaunch_ptp (s : State) (n : Nat) (f : Launch → Launch) : (s.updLaunch n f).ptp = s.ptp := rfl
@[simp] theorem State.updLaunch_saved (s : State) (n : Nat) (f : Launch → Launch) : (s.updLaunch n f).saved = s.saved := rfl
@[simp] theorem State.updLaunch_clockStep (s : State) (n : Nat) (f : Launch → Launch) : (s.updLaunch n f).clockStep = s.clockStep := rfl
@[simp] theorem State.updLaunch_powered (s : State) (n : Nat) (f : Launch → Launch) : (s.updLaunch n f).powered = s.powered := rfl
@[simp] theorem State.updLaunch_inputs (s : State) (n : Nat) (f : Launch → Launch) : (s.updLaunch n f).inputs = s.inputs := rfl
@[simp] theorem State.updLaunch_pick (s : State) (n : Nat) (f : Launch → Launch) : (s.updLaunch n f).pick = s.pick := rfl
@[simp] theorem State.updLaunch_slow (s : State) (n : Nat) (f : Launch → Launch) : (s.updLaunch n f).slow = s.slow := rfl
@[simp] theorem State.updLaunch_steps (s : State) (n : Nat) (f : Launch → Launch) : (s.updLaunch n f).steps = s.steps := rfl

@[simp] theorem State.mapCtx_c (s : State) (f : Ctx → Ctx) : (s.mapCtx f).c = f s.c := rfl
@[simp] theorem State.mapCtx_others (s : State) (f : Ctx → Ctx) : (s.mapCtx f).others = s.others.map f := rfl
@[simp] theorem State.setGran_grans (s : State) (g : Nat) (x : Gran) : (s.setGran g x).grans = kvSet {} s.grans g x := rfl
@[simp] theorem State.updCtx_c (s : State) (u : Nat) (f : Ctx → Ctx) : (s.updCtx u f).c = if s.c.uid = u then f s.c else s.c := rfl

/-! Updates of a context. -/

@[simp] theorem Ctx.setReg_uid (c : Ctx) (r : RegId) (x : Reg) : (c.setReg r x).uid = c.uid := by cases r <;> rfl
@[simp] theorem Ctx.setReg_kind (c : Ctx) (r : RegId) (x : Reg) : (c.setReg r x).kind = c.kind := by cases r <;> rfl
@[simp] theorem Ctx.setReg_place (c : Ctx) (r : RegId) (x : Reg) : (c.setReg r x).place = c.place := by cases r <;> rfl
@[simp] theorem Ctx.setReg_role (c : Ctx) (r : RegId) (x : Reg) : (c.setReg r x).role = c.role := by cases r <;> rfl
@[simp] theorem Ctx.setReg_bankIx (c : Ctx) (r : RegId) (x : Reg) : (c.setReg r x).bankIx = c.bankIx := by cases r <;> rfl
@[simp] theorem Ctx.setReg_tenant (c : Ctx) (r : RegId) (x : Reg) : (c.setReg r x).tenant = c.tenant := by cases r <;> rfl
@[simp] theorem Ctx.setReg_launch (c : Ctx) (r : RegId) (x : Reg) : (c.setReg r x).launch = c.launch := by cases r <;> rfl
@[simp] theorem Ctx.setReg_task (c : Ctx) (r : RegId) (x : Reg) : (c.setReg r x).task = c.task := by cases r <;> rfl
@[simp] theorem Ctx.setReg_lr (c : Ctx) (r : RegId) (x : Reg) : (c.setReg r x).lr = c.lr := by cases r <;> rfl
@[simp] theorem Ctx.setReg_pd (c : Ctx) (r : RegId) (x : Reg) : (c.setReg r x).pd = c.pd := by cases r <;> rfl
@[simp] theorem Ctx.setReg_pc (c : Ctx) (r : RegId) (x : Reg) : (c.setReg r x).pc = c.pc := by cases r <;> rfl
@[simp] theorem Ctx.setReg_flags (c : Ctx) (r : RegId) (x : Reg) : (c.setReg r x).flags = c.flags := by cases r <;> rfl
@[simp] theorem Ctx.setReg_pend (c : Ctx) (r : RegId) (x : Reg) : (c.setReg r x).pend = c.pend := by cases r <;> rfl
@[simp] theorem Ctx.setReg_prv (c : Ctx) (r : RegId) (x : Reg) : (c.setReg r x).prv = c.prv := by cases r <;> rfl
@[simp] theorem Ctx.setReg_reflex (c : Ctx) (r : RegId) (x : Reg) : (c.setReg r x).reflex = c.reflex := by cases r <;> rfl
@[simp] theorem Ctx.setReg_det (c : Ctx) (r : RegId) (x : Reg) : (c.setReg r x).det = c.det := by cases r <;> rfl
@[simp] theorem Ctx.setReg_quantum (c : Ctx) (r : RegId) (x : Reg) : (c.setReg r x).quantum = c.quantum := by cases r <;> rfl
@[simp] theorem Ctx.setReg_mixtrap (c : Ctx) (r : RegId) (x : Reg) : (c.setReg r x).mixtrap = c.mixtrap := by cases r <;> rfl
@[simp] theorem Ctx.setReg_fctl (c : Ctx) (r : RegId) (x : Reg) : (c.setReg r x).fctl = c.fctl := by cases r <;> rfl
@[simp] theorem Ctx.setReg_fflags (c : Ctx) (r : RegId) (x : Reg) : (c.setReg r x).fflags = c.fflags := by cases r <;> rfl
@[simp] theorem Ctx.setReg_fepol (c : Ctx) (r : RegId) (x : Reg) : (c.setReg r x).fepol = c.fepol := by cases r <;> rfl
@[simp] theorem Ctx.setReg_gen (c : Ctx) (r : RegId) (x : Reg) : (c.setReg r x).gen = c.gen := by cases r <;> rfl
@[simp] theorem Ctx.setReg_genrd (c : Ctx) (r : RegId) (x : Reg) : (c.setReg r x).genrd = c.genrd := by cases r <;> rfl
@[simp] theorem Ctx.setReg_gentrap (c : Ctx) (r : RegId) (x : Reg) : (c.setReg r x).gentrap = c.gentrap := by cases r <;> rfl
@[simp] theorem Ctx.setReg_defscope (c : Ctx) (r : RegId) (x : Reg) : (c.setReg r x).defscope = c.defscope := by cases r <;> rfl
@[simp] theorem Ctx.setReg_esEn (c : Ctx) (r : RegId) (x : Reg) : (c.setReg r x).esEn = c.esEn := by cases r <;> rfl
@[simp] theorem Ctx.setReg_esWin (c : Ctx) (r : RegId) (x : Reg) : (c.setReg r x).esWin = c.esWin := by cases r <;> rfl
@[simp] theorem Ctx.setReg_esPos (c : Ctx) (r : RegId) (x : Reg) : (c.setReg r x).esPos = c.esPos := by cases r <;> rfl
@[simp] theorem Ctx.setReg_mfmt (c : Ctx) (r : RegId) (x : Reg) : (c.setReg r x).mfmt = c.mfmt := by cases r <;> rfl
@[simp] theorem Ctx.setReg_mscla (c : Ctx) (r : RegId) (x : Reg) : (c.setReg r x).mscla = c.mscla := by cases r <;> rfl
@[simp] theorem Ctx.setReg_msclb (c : Ctx) (r : RegId) (x : Reg) : (c.setReg r x).msclb = c.msclb := by cases r <;> rfl
@[simp] theorem Ctx.setReg_mgeo0 (c : Ctx) (r : RegId) (x : Reg) : (c.setReg r x).mgeo0 = c.mgeo0 := by cases r <;> rfl
@[simp] theorem Ctx.setReg_mgeo1 (c : Ctx) (r : RegId) (x : Reg) : (c.setReg r x).mgeo1 = c.mgeo1 := by cases r <;> rfl
@[simp] theorem Ctx.setReg_msat (c : Ctx) (r : RegId) (x : Reg) : (c.setReg r x).msat = c.msat := by cases r <;> rfl
@[simp] theorem Ctx.setReg_msclo (c : Ctx) (r : RegId) (x : Reg) : (c.setReg r x).msclo = c.msclo := by cases r <;> rfl
@[simp] theorem Ctx.setReg_sthr (c : Ctx) (r : RegId) (x : Reg) : (c.setReg r x).sthr = c.sthr := by cases r <;> rfl
@[simp] theorem Ctx.setReg_slim (c : Ctx) (r : RegId) (x : Reg) : (c.setReg r x).slim = c.slim := by cases r <;> rfl
@[simp] theorem Ctx.setReg_vocabn (c : Ctx) (r : RegId) (x : Reg) : (c.setReg r x).vocabn = c.vocabn := by cases r <;> rfl
@[simp] theorem Ctx.setReg_vocabp (c : Ctx) (r : RegId) (x : Reg) : (c.setReg r x).vocabp = c.vocabp := by cases r <;> rfl
@[simp] theorem Ctx.setReg_qdim (c : Ctx) (r : RegId) (x : Reg) : (c.setReg r x).qdim = c.qdim := by cases r <;> rfl
@[simp] theorem Ctx.setReg_qidx (c : Ctx) (r : RegId) (x : Reg) : (c.setReg r x).qidx = c.qidx := by cases r <;> rfl
@[simp] theorem Ctx.setReg_qsrd (c : Ctx) (r : RegId) (x : Reg) : (c.setReg r x).qsrd = c.qsrd := by cases r <;> rfl
@[simp] theorem Ctx.setReg_rank (c : Ctx) (r : RegId) (x : Reg) : (c.setReg r x).rank = c.rank := by cases r <;> rfl
@[simp] theorem Ctx.setReg_nrank (c : Ctx) (r : RegId) (x : Reg) : (c.setReg r x).nrank = c.nrank := by cases r <;> rfl
@[simp] theorem Ctx.setReg_stage (c : Ctx) (r : RegId) (x : Reg) : (c.setReg r x).stage = c.stage := by cases r <;> rfl
@[simp] theorem Ctx.setReg_gie (c : Ctx) (r : RegId) (x : Reg) : (c.setReg r x).gie = c.gie := by cases r <;> rfl
@[simp] theorem Ctx.setReg_ien (c : Ctx) (r : RegId) (x : Reg) : (c.setReg r x).ien = c.ien := by cases r <;> rfl
@[simp] theorem Ctx.setReg_ipend (c : Ctx) (r : RegId) (x : Reg) : (c.setReg r x).ipend = c.ipend := by cases r <;> rfl
@[simp] theorem Ctx.setReg_tvec (c : Ctx) (r : RegId) (x : Reg) : (c.setReg r x).tvec = c.tvec := by cases r <;> rfl
@[simp] theorem Ctx.setReg_tscratch (c : Ctx) (r : RegId) (x : Reg) : (c.setReg r x).tscratch = c.tscratch := by cases r <;> rfl
@[simp] theorem Ctx.setReg_trap (c : Ctx) (r : RegId) (x : Reg) : (c.setReg r x).trap = c.trap := by cases r <;> rfl
@[simp] theorem Ctx.setReg_mtrap (c : Ctx) (r : RegId) (x : Reg) : (c.setReg r x).mtrap = c.mtrap := by cases r <;> rfl
@[simp] theorem Ctx.setReg_supEntry (c : Ctx) (r : RegId) (x : Reg) : (c.setReg r x).supEntry = c.supEntry := by cases r <;> rfl
@[simp] theorem Ctx.setReg_inHandler (c : Ctx) (r : RegId) (x : Reg) : (c.setReg r x).inHandler = c.inHandler := by cases r <;> rfl
@[simp] theorem Ctx.setReg_erec0 (c : Ctx) (r : RegId) (x : Reg) : (c.setReg r x).erec0 = c.erec0 := by cases r <;> rfl
@[simp] theorem Ctx.setReg_erec1 (c : Ctx) (r : RegId) (x : Reg) : (c.setReg r x).erec1 = c.erec1 := by cases r <;> rfl
@[simp] theorem Ctx.setReg_erec2 (c : Ctx) (r : RegId) (x : Reg) : (c.setReg r x).erec2 = c.erec2 := by cases r <;> rfl
@[simp] theorem Ctx.setReg_rbudget (c : Ctx) (r : RegId) (x : Reg) : (c.setReg r x).rbudget = c.rbudget := by cases r <;> rfl
@[simp] theorem Ctx.setReg_budgetDue (c : Ctx) (r : RegId) (x : Reg) : (c.setReg r x).budgetDue = c.budgetDue := by cases r <;> rfl
@[simp] theorem Ctx.setReg_grace (c : Ctx) (r : RegId) (x : Reg) : (c.setReg r x).grace = c.grace := by cases r <;> rfl
@[simp] theorem Ctx.setReg_loops (c : Ctx) (r : RegId) (x : Reg) : (c.setReg r x).loops = c.loops := by cases r <;> rfl
@[simp] theorem Ctx.setReg_repi (c : Ctx) (r : RegId) (x : Reg) : (c.setReg r x).repi = c.repi := by cases r <;> rfl
@[simp] theorem Ctx.setReg_engAcc (c : Ctx) (r : RegId) (x : Reg) : (c.setReg r x).engAcc = c.engAcc := by cases r <;> rfl
@[simp] theorem Ctx.setReg_wres (c : Ctx) (r : RegId) (x : Reg) : (c.setReg r x).wres = c.wres := by cases r <;> rfl
@[simp] theorem Ctx.setReg_wph (c : Ctx) (r : RegId) (x : Reg) : (c.setReg r x).wph = c.wph := by cases r <;> rfl
@[simp] theorem Ctx.setReg_mint (c : Ctx) (r : RegId) (x : Reg) : (c.setReg r x).mint = c.mint := by cases r <;> rfl
@[simp] theorem Ctx.setReg_seeds (c : Ctx) (r : RegId) (x : Reg) : (c.setReg r x).seeds = c.seeds := by cases r <;> rfl
@[simp] theorem Ctx.setReg_sqsel (c : Ctx) (r : RegId) (x : Reg) : (c.setReg r x).sqsel = c.sqsel := by cases r <;> rfl
@[simp] theorem Ctx.setReg_esrsel (c : Ctx) (r : RegId) (x : Reg) : (c.setReg r x).esrsel = c.esrsel := by cases r <;> rfl
@[simp] theorem Ctx.setReg_evxsel (c : Ctx) (r : RegId) (x : Reg) : (c.setReg r x).evxsel = c.evxsel := by cases r <;> rfl
@[simp] theorem Ctx.setReg_chsel (c : Ctx) (r : RegId) (x : Reg) : (c.setReg r x).chsel = c.chsel := by cases r <;> rfl
@[simp] theorem Ctx.setReg_fpsel (c : Ctx) (r : RegId) (x : Reg) : (c.setReg r x).fpsel = c.fpsel := by cases r <;> rfl
@[simp] theorem Ctx.setReg_monitor (c : Ctx) (r : RegId) (x : Reg) : (c.setReg r x).monitor = c.monitor := by cases r <;> rfl
@[simp] theorem Ctx.setReg_monHit (c : Ctx) (r : RegId) (x : Reg) : (c.setReg r x).monHit = c.monHit := by cases r <;> rfl
@[simp] theorem Ctx.setReg_monLost (c : Ctx) (r : RegId) (x : Reg) : (c.setReg r x).monLost = c.monLost := by cases r <;> rfl
@[simp] theorem Ctx.setReg_stalled (c : Ctx) (r : RegId) (x : Reg) : (c.setReg r x).stalled = c.stalled := by cases r <;> rfl
@[simp] theorem Ctx.setReg_waitFrom (c : Ctx) (r : RegId) (x : Reg) : (c.setReg r x).waitFrom = c.waitFrom := by cases r <;> rfl
@[simp] theorem Ctx.setReg_waitKind (c : Ctx) (r : RegId) (x : Reg) : (c.setReg r x).waitKind = c.waitKind := by cases r <;> rfl
@[simp] theorem Ctx.setReg_inMwait (c : Ctx) (r : RegId) (x : Reg) : (c.setReg r x).inMwait = c.inMwait := by cases r <;> rfl
@[simp] theorem Ctx.setReg_inWfi (c : Ctx) (r : RegId) (x : Reg) : (c.setReg r x).inWfi = c.inWfi := by cases r <;> rfl
@[simp] theorem Ctx.setReg_inClose (c : Ctx) (r : RegId) (x : Reg) : (c.setReg r x).inClose = c.inClose := by cases r <;> rfl
@[simp] theorem Ctx.setReg_spurious (c : Ctx) (r : RegId) (x : Reg) : (c.setReg r x).spurious = c.spurious := by cases r <;> rfl
@[simp] theorem Ctx.setReg_halted (c : Ctx) (r : RegId) (x : Reg) : (c.setReg r x).halted = c.halted := by cases r <;> rfl
@[simp] theorem Ctx.setReg_frozen (c : Ctx) (r : RegId) (x : Reg) : (c.setReg r x).frozen = c.frozen := by cases r <;> rfl
@[simp] theorem Ctx.setReg_vq (c : Ctx) (r : RegId) (x : Reg) : (c.setReg r x).vq = c.vq := by cases r <;> rfl
@[simp] theorem Ctx.setReg_mq (c : Ctx) (r : RegId) (x : Reg) : (c.setReg r x).mq = c.mq := by cases r <;> rfl
@[simp] theorem Ctx.setReg_emu (c : Ctx) (r : RegId) (x : Reg) : (c.setReg r x).emu = c.emu := by cases r <;> rfl
@[simp] theorem Ctx.setReg_unitSeq (c : Ctx) (r : RegId) (x : Reg) : (c.setReg r x).unitSeq = c.unitSeq := by cases r <;> rfl
@[simp] theorem Ctx.setReg_jobs (c : Ctx) (r : RegId) (x : Reg) : (c.setReg r x).jobs = c.jobs := by cases r <;> rfl
@[simp] theorem Ctx.setReg_retry (c : Ctx) (r : RegId) (x : Reg) : (c.setReg r x).retry = c.retry := by cases r <;> rfl
@[simp] theorem Ctx.setReg_seqTag (c : Ctx) (r : RegId) (x : Reg) : (c.setReg r x).seqTag = c.seqTag := by cases r <;> rfl
@[simp] theorem Ctx.setReg_homeRec (c : Ctx) (r : RegId) (x : Reg) : (c.setReg r x).homeRec = c.homeRec := by cases r <;> rfl
@[simp] theorem Ctx.setReg_reports (c : Ctx) (r : RegId) (x : Reg) : (c.setReg r x).reports = c.reports := by cases r <;> rfl
@[simp] theorem Ctx.setReg_barReps (c : Ctx) (r : RegId) (x : Reg) : (c.setReg r x).barReps = c.barReps := by cases r <;> rfl
@[simp] theorem Ctx.setReg_linkLost (c : Ctx) (r : RegId) (x : Reg) : (c.setReg r x).linkLost = c.linkLost := by cases r <;> rfl
@[simp] theorem Ctx.setReg_fpx (c : Ctx) (r : RegId) (x : Reg) : (c.setReg r x).fpx = c.fpx := by cases r <;> rfl
@[simp] theorem Ctx.setReg_fpxReq (c : Ctx) (r : RegId) (x : Reg) : (c.setReg r x).fpxReq = c.fpxReq := by cases r <;> rfl
@[simp] theorem Ctx.setReg_check (c : Ctx) (r : RegId) (x : Reg) : (c.setReg r x).check = c.check := by cases r <;> rfl
@[simp] theorem Ctx.setReg_sqLast (c : Ctx) (r : RegId) (x : Reg) : (c.setReg r x).sqLast = c.sqLast := by cases r <;> rfl
@[simp] theorem Ctx.setReg_votes (c : Ctx) (r : RegId) (x : Reg) : (c.setReg r x).votes = c.votes := by cases r <;> rfl
@[simp] theorem Ctx.setReg_colls (c : Ctx) (r : RegId) (x : Reg) : (c.setReg r x).colls = c.colls := by cases r <;> rfl
@[simp] theorem Ctx.setReg_retired (c : Ctx) (r : RegId) (x : Reg) : (c.setReg r x).retired = c.retired := by cases r <;> rfl
@[simp] theorem Ctx.setReg_seized (c : Ctx) (r : RegId) (x : Reg) : (c.setReg r x).seized = c.seized := by cases r <;> rfl
@[simp] theorem Ctx.setReg_spadBase (c : Ctx) (r : RegId) (x : Reg) : (c.setReg r x).spadBase = c.spadBase := by cases r <;> rfl

@[simp] theorem Ctx.advance_uid (c : Ctx) (n : Nat) : (c.advance n).uid = c.uid := rfl
@[simp] theorem Ctx.advance_kind (c : Ctx) (n : Nat) : (c.advance n).kind = c.kind := rfl
@[simp] theorem Ctx.advance_place (c : Ctx) (n : Nat) : (c.advance n).place = c.place := rfl
@[simp] theorem Ctx.advance_role (c : Ctx) (n : Nat) : (c.advance n).role = c.role := rfl
@[simp] theorem Ctx.advance_bankIx (c : Ctx) (n : Nat) : (c.advance n).bankIx = c.bankIx := rfl
@[simp] theorem Ctx.advance_tenant (c : Ctx) (n : Nat) : (c.advance n).tenant = c.tenant := rfl
@[simp] theorem Ctx.advance_launch (c : Ctx) (n : Nat) : (c.advance n).launch = c.launch := rfl
@[simp] theorem Ctx.advance_task (c : Ctx) (n : Nat) : (c.advance n).task = c.task := rfl
@[simp] theorem Ctx.advance_lr (c : Ctx) (n : Nat) : (c.advance n).lr = c.lr := rfl
@[simp] theorem Ctx.advance_acc (c : Ctx) (n : Nat) : (c.advance n).acc = c.acc := rfl
@[simp] theorem Ctx.advance_p (c : Ctx) (n : Nat) : (c.advance n).p = c.p := rfl
@[simp] theorem Ctx.advance_k (c : Ctx) (n : Nat) : (c.advance n).k = c.k := rfl
@[simp] theorem Ctx.advance_pd (c : Ctx) (n : Nat) : (c.advance n).pd = c.pd := rfl
@[simp] theorem Ctx.advance_flags (c : Ctx) (n : Nat) : (c.advance n).flags = c.flags := rfl
@[simp] theorem Ctx.advance_pend (c : Ctx) (n : Nat) : (c.advance n).pend = c.pend := rfl
@[simp] theorem Ctx.advance_prv (c : Ctx) (n : Nat) : (c.advance n).prv = c.prv := rfl
@[simp] theorem Ctx.advance_reflex (c : Ctx) (n : Nat) : (c.advance n).reflex = c.reflex := rfl
@[simp] theorem Ctx.advance_det (c : Ctx) (n : Nat) : (c.advance n).det = c.det := rfl
@[simp] theorem Ctx.advance_quantum (c : Ctx) (n : Nat) : (c.advance n).quantum = c.quantum := rfl
@[simp] theorem Ctx.advance_mixtrap (c : Ctx) (n : Nat) : (c.advance n).mixtrap = c.mixtrap := rfl
@[simp] theorem Ctx.advance_fctl (c : Ctx) (n : Nat) : (c.advance n).fctl = c.fctl := rfl
@[simp] theorem Ctx.advance_fflags (c : Ctx) (n : Nat) : (c.advance n).fflags = c.fflags := rfl
@[simp] theorem Ctx.advance_fepol (c : Ctx) (n : Nat) : (c.advance n).fepol = c.fepol := rfl
@[simp] theorem Ctx.advance_gen (c : Ctx) (n : Nat) : (c.advance n).gen = c.gen := rfl
@[simp] theorem Ctx.advance_genrd (c : Ctx) (n : Nat) : (c.advance n).genrd = c.genrd := rfl
@[simp] theorem Ctx.advance_gentrap (c : Ctx) (n : Nat) : (c.advance n).gentrap = c.gentrap := rfl
@[simp] theorem Ctx.advance_defscope (c : Ctx) (n : Nat) : (c.advance n).defscope = c.defscope := rfl
@[simp] theorem Ctx.advance_esEn (c : Ctx) (n : Nat) : (c.advance n).esEn = c.esEn := rfl
@[simp] theorem Ctx.advance_esWin (c : Ctx) (n : Nat) : (c.advance n).esWin = c.esWin := rfl
@[simp] theorem Ctx.advance_esPos (c : Ctx) (n : Nat) : (c.advance n).esPos = c.esPos := rfl
@[simp] theorem Ctx.advance_mfmt (c : Ctx) (n : Nat) : (c.advance n).mfmt = c.mfmt := rfl
@[simp] theorem Ctx.advance_mscla (c : Ctx) (n : Nat) : (c.advance n).mscla = c.mscla := rfl
@[simp] theorem Ctx.advance_msclb (c : Ctx) (n : Nat) : (c.advance n).msclb = c.msclb := rfl
@[simp] theorem Ctx.advance_mgeo0 (c : Ctx) (n : Nat) : (c.advance n).mgeo0 = c.mgeo0 := rfl
@[simp] theorem Ctx.advance_mgeo1 (c : Ctx) (n : Nat) : (c.advance n).mgeo1 = c.mgeo1 := rfl
@[simp] theorem Ctx.advance_msat (c : Ctx) (n : Nat) : (c.advance n).msat = c.msat := rfl
@[simp] theorem Ctx.advance_msclo (c : Ctx) (n : Nat) : (c.advance n).msclo = c.msclo := rfl
@[simp] theorem Ctx.advance_sthr (c : Ctx) (n : Nat) : (c.advance n).sthr = c.sthr := rfl
@[simp] theorem Ctx.advance_slim (c : Ctx) (n : Nat) : (c.advance n).slim = c.slim := rfl
@[simp] theorem Ctx.advance_vocabn (c : Ctx) (n : Nat) : (c.advance n).vocabn = c.vocabn := rfl
@[simp] theorem Ctx.advance_vocabp (c : Ctx) (n : Nat) : (c.advance n).vocabp = c.vocabp := rfl
@[simp] theorem Ctx.advance_qdim (c : Ctx) (n : Nat) : (c.advance n).qdim = c.qdim := rfl
@[simp] theorem Ctx.advance_qidx (c : Ctx) (n : Nat) : (c.advance n).qidx = c.qidx := rfl
@[simp] theorem Ctx.advance_qsrd (c : Ctx) (n : Nat) : (c.advance n).qsrd = c.qsrd := rfl
@[simp] theorem Ctx.advance_rank (c : Ctx) (n : Nat) : (c.advance n).rank = c.rank := rfl
@[simp] theorem Ctx.advance_nrank (c : Ctx) (n : Nat) : (c.advance n).nrank = c.nrank := rfl
@[simp] theorem Ctx.advance_stage (c : Ctx) (n : Nat) : (c.advance n).stage = c.stage := rfl
@[simp] theorem Ctx.advance_gie (c : Ctx) (n : Nat) : (c.advance n).gie = c.gie := rfl
@[simp] theorem Ctx.advance_ien (c : Ctx) (n : Nat) : (c.advance n).ien = c.ien := rfl
@[simp] theorem Ctx.advance_ipend (c : Ctx) (n : Nat) : (c.advance n).ipend = c.ipend := rfl
@[simp] theorem Ctx.advance_tvec (c : Ctx) (n : Nat) : (c.advance n).tvec = c.tvec := rfl
@[simp] theorem Ctx.advance_tscratch (c : Ctx) (n : Nat) : (c.advance n).tscratch = c.tscratch := rfl
@[simp] theorem Ctx.advance_trap (c : Ctx) (n : Nat) : (c.advance n).trap = c.trap := rfl
@[simp] theorem Ctx.advance_mtrap (c : Ctx) (n : Nat) : (c.advance n).mtrap = c.mtrap := rfl
@[simp] theorem Ctx.advance_supEntry (c : Ctx) (n : Nat) : (c.advance n).supEntry = c.supEntry := rfl
@[simp] theorem Ctx.advance_inHandler (c : Ctx) (n : Nat) : (c.advance n).inHandler = c.inHandler := rfl
@[simp] theorem Ctx.advance_erec0 (c : Ctx) (n : Nat) : (c.advance n).erec0 = c.erec0 := rfl
@[simp] theorem Ctx.advance_erec1 (c : Ctx) (n : Nat) : (c.advance n).erec1 = c.erec1 := rfl
@[simp] theorem Ctx.advance_erec2 (c : Ctx) (n : Nat) : (c.advance n).erec2 = c.erec2 := rfl
@[simp] theorem Ctx.advance_rbudget (c : Ctx) (n : Nat) : (c.advance n).rbudget = c.rbudget := rfl
@[simp] theorem Ctx.advance_budgetDue (c : Ctx) (n : Nat) : (c.advance n).budgetDue = c.budgetDue := rfl
@[simp] theorem Ctx.advance_grace (c : Ctx) (n : Nat) : (c.advance n).grace = c.grace := rfl
@[simp] theorem Ctx.advance_engAcc (c : Ctx) (n : Nat) : (c.advance n).engAcc = c.engAcc := rfl
@[simp] theorem Ctx.advance_mint (c : Ctx) (n : Nat) : (c.advance n).mint = c.mint := rfl
@[simp] theorem Ctx.advance_seeds (c : Ctx) (n : Nat) : (c.advance n).seeds = c.seeds := rfl
@[simp] theorem Ctx.advance_sqsel (c : Ctx) (n : Nat) : (c.advance n).sqsel = c.sqsel := rfl
@[simp] theorem Ctx.advance_esrsel (c : Ctx) (n : Nat) : (c.advance n).esrsel = c.esrsel := rfl
@[simp] theorem Ctx.advance_evxsel (c : Ctx) (n : Nat) : (c.advance n).evxsel = c.evxsel := rfl
@[simp] theorem Ctx.advance_chsel (c : Ctx) (n : Nat) : (c.advance n).chsel = c.chsel := rfl
@[simp] theorem Ctx.advance_fpsel (c : Ctx) (n : Nat) : (c.advance n).fpsel = c.fpsel := rfl
@[simp] theorem Ctx.advance_monitor (c : Ctx) (n : Nat) : (c.advance n).monitor = c.monitor := rfl
@[simp] theorem Ctx.advance_monHit (c : Ctx) (n : Nat) : (c.advance n).monHit = c.monHit := rfl
@[simp] theorem Ctx.advance_monLost (c : Ctx) (n : Nat) : (c.advance n).monLost = c.monLost := rfl
@[simp] theorem Ctx.advance_waitKind (c : Ctx) (n : Nat) : (c.advance n).waitKind = c.waitKind := rfl
@[simp] theorem Ctx.advance_spurious (c : Ctx) (n : Nat) : (c.advance n).spurious = c.spurious := rfl
@[simp] theorem Ctx.advance_halted (c : Ctx) (n : Nat) : (c.advance n).halted = c.halted := rfl
@[simp] theorem Ctx.advance_frozen (c : Ctx) (n : Nat) : (c.advance n).frozen = c.frozen := rfl
@[simp] theorem Ctx.advance_vq (c : Ctx) (n : Nat) : (c.advance n).vq = c.vq := rfl
@[simp] theorem Ctx.advance_mq (c : Ctx) (n : Nat) : (c.advance n).mq = c.mq := rfl
@[simp] theorem Ctx.advance_emu (c : Ctx) (n : Nat) : (c.advance n).emu = c.emu := rfl
@[simp] theorem Ctx.advance_unitSeq (c : Ctx) (n : Nat) : (c.advance n).unitSeq = c.unitSeq := rfl
@[simp] theorem Ctx.advance_jobs (c : Ctx) (n : Nat) : (c.advance n).jobs = c.jobs := rfl
@[simp] theorem Ctx.advance_retry (c : Ctx) (n : Nat) : (c.advance n).retry = c.retry := rfl
@[simp] theorem Ctx.advance_seqTag (c : Ctx) (n : Nat) : (c.advance n).seqTag = c.seqTag := rfl
@[simp] theorem Ctx.advance_homeRec (c : Ctx) (n : Nat) : (c.advance n).homeRec = c.homeRec := rfl
@[simp] theorem Ctx.advance_reports (c : Ctx) (n : Nat) : (c.advance n).reports = c.reports := rfl
@[simp] theorem Ctx.advance_barReps (c : Ctx) (n : Nat) : (c.advance n).barReps = c.barReps := rfl
@[simp] theorem Ctx.advance_linkLost (c : Ctx) (n : Nat) : (c.advance n).linkLost = c.linkLost := rfl
@[simp] theorem Ctx.advance_fpx (c : Ctx) (n : Nat) : (c.advance n).fpx = c.fpx := rfl
@[simp] theorem Ctx.advance_fpxReq (c : Ctx) (n : Nat) : (c.advance n).fpxReq = c.fpxReq := rfl
@[simp] theorem Ctx.advance_check (c : Ctx) (n : Nat) : (c.advance n).check = c.check := rfl
@[simp] theorem Ctx.advance_sqLast (c : Ctx) (n : Nat) : (c.advance n).sqLast = c.sqLast := rfl
@[simp] theorem Ctx.advance_votes (c : Ctx) (n : Nat) : (c.advance n).votes = c.votes := rfl
@[simp] theorem Ctx.advance_colls (c : Ctx) (n : Nat) : (c.advance n).colls = c.colls := rfl
@[simp] theorem Ctx.advance_seized (c : Ctx) (n : Nat) : (c.advance n).seized = c.seized := rfl
@[simp] theorem Ctx.advance_spadBase (c : Ctx) (n : Nat) : (c.advance n).spadBase = c.spadBase := rfl

@[simp] theorem Ctx.jump_uid (c : Ctx) (t : Word) : (c.jump t).uid = c.uid := rfl
@[simp] theorem Ctx.jump_kind (c : Ctx) (t : Word) : (c.jump t).kind = c.kind := rfl
@[simp] theorem Ctx.jump_place (c : Ctx) (t : Word) : (c.jump t).place = c.place := rfl
@[simp] theorem Ctx.jump_role (c : Ctx) (t : Word) : (c.jump t).role = c.role := rfl
@[simp] theorem Ctx.jump_bankIx (c : Ctx) (t : Word) : (c.jump t).bankIx = c.bankIx := rfl
@[simp] theorem Ctx.jump_tenant (c : Ctx) (t : Word) : (c.jump t).tenant = c.tenant := rfl
@[simp] theorem Ctx.jump_launch (c : Ctx) (t : Word) : (c.jump t).launch = c.launch := rfl
@[simp] theorem Ctx.jump_task (c : Ctx) (t : Word) : (c.jump t).task = c.task := rfl
@[simp] theorem Ctx.jump_lr (c : Ctx) (t : Word) : (c.jump t).lr = c.lr := rfl
@[simp] theorem Ctx.jump_acc (c : Ctx) (t : Word) : (c.jump t).acc = c.acc := rfl
@[simp] theorem Ctx.jump_p (c : Ctx) (t : Word) : (c.jump t).p = c.p := rfl
@[simp] theorem Ctx.jump_k (c : Ctx) (t : Word) : (c.jump t).k = c.k := rfl
@[simp] theorem Ctx.jump_pd (c : Ctx) (t : Word) : (c.jump t).pd = c.pd := rfl
@[simp] theorem Ctx.jump_flags (c : Ctx) (t : Word) : (c.jump t).flags = c.flags := rfl
@[simp] theorem Ctx.jump_pend (c : Ctx) (t : Word) : (c.jump t).pend = c.pend := rfl
@[simp] theorem Ctx.jump_prv (c : Ctx) (t : Word) : (c.jump t).prv = c.prv := rfl
@[simp] theorem Ctx.jump_reflex (c : Ctx) (t : Word) : (c.jump t).reflex = c.reflex := rfl
@[simp] theorem Ctx.jump_det (c : Ctx) (t : Word) : (c.jump t).det = c.det := rfl
@[simp] theorem Ctx.jump_quantum (c : Ctx) (t : Word) : (c.jump t).quantum = c.quantum := rfl
@[simp] theorem Ctx.jump_mixtrap (c : Ctx) (t : Word) : (c.jump t).mixtrap = c.mixtrap := rfl
@[simp] theorem Ctx.jump_fctl (c : Ctx) (t : Word) : (c.jump t).fctl = c.fctl := rfl
@[simp] theorem Ctx.jump_fflags (c : Ctx) (t : Word) : (c.jump t).fflags = c.fflags := rfl
@[simp] theorem Ctx.jump_fepol (c : Ctx) (t : Word) : (c.jump t).fepol = c.fepol := rfl
@[simp] theorem Ctx.jump_gen (c : Ctx) (t : Word) : (c.jump t).gen = c.gen := rfl
@[simp] theorem Ctx.jump_genrd (c : Ctx) (t : Word) : (c.jump t).genrd = c.genrd := rfl
@[simp] theorem Ctx.jump_gentrap (c : Ctx) (t : Word) : (c.jump t).gentrap = c.gentrap := rfl
@[simp] theorem Ctx.jump_defscope (c : Ctx) (t : Word) : (c.jump t).defscope = c.defscope := rfl
@[simp] theorem Ctx.jump_esEn (c : Ctx) (t : Word) : (c.jump t).esEn = c.esEn := rfl
@[simp] theorem Ctx.jump_esWin (c : Ctx) (t : Word) : (c.jump t).esWin = c.esWin := rfl
@[simp] theorem Ctx.jump_esPos (c : Ctx) (t : Word) : (c.jump t).esPos = c.esPos := rfl
@[simp] theorem Ctx.jump_mfmt (c : Ctx) (t : Word) : (c.jump t).mfmt = c.mfmt := rfl
@[simp] theorem Ctx.jump_mscla (c : Ctx) (t : Word) : (c.jump t).mscla = c.mscla := rfl
@[simp] theorem Ctx.jump_msclb (c : Ctx) (t : Word) : (c.jump t).msclb = c.msclb := rfl
@[simp] theorem Ctx.jump_mgeo0 (c : Ctx) (t : Word) : (c.jump t).mgeo0 = c.mgeo0 := rfl
@[simp] theorem Ctx.jump_mgeo1 (c : Ctx) (t : Word) : (c.jump t).mgeo1 = c.mgeo1 := rfl
@[simp] theorem Ctx.jump_msat (c : Ctx) (t : Word) : (c.jump t).msat = c.msat := rfl
@[simp] theorem Ctx.jump_msclo (c : Ctx) (t : Word) : (c.jump t).msclo = c.msclo := rfl
@[simp] theorem Ctx.jump_sthr (c : Ctx) (t : Word) : (c.jump t).sthr = c.sthr := rfl
@[simp] theorem Ctx.jump_slim (c : Ctx) (t : Word) : (c.jump t).slim = c.slim := rfl
@[simp] theorem Ctx.jump_vocabn (c : Ctx) (t : Word) : (c.jump t).vocabn = c.vocabn := rfl
@[simp] theorem Ctx.jump_vocabp (c : Ctx) (t : Word) : (c.jump t).vocabp = c.vocabp := rfl
@[simp] theorem Ctx.jump_qdim (c : Ctx) (t : Word) : (c.jump t).qdim = c.qdim := rfl
@[simp] theorem Ctx.jump_qidx (c : Ctx) (t : Word) : (c.jump t).qidx = c.qidx := rfl
@[simp] theorem Ctx.jump_qsrd (c : Ctx) (t : Word) : (c.jump t).qsrd = c.qsrd := rfl
@[simp] theorem Ctx.jump_rank (c : Ctx) (t : Word) : (c.jump t).rank = c.rank := rfl
@[simp] theorem Ctx.jump_nrank (c : Ctx) (t : Word) : (c.jump t).nrank = c.nrank := rfl
@[simp] theorem Ctx.jump_stage (c : Ctx) (t : Word) : (c.jump t).stage = c.stage := rfl
@[simp] theorem Ctx.jump_gie (c : Ctx) (t : Word) : (c.jump t).gie = c.gie := rfl
@[simp] theorem Ctx.jump_ien (c : Ctx) (t : Word) : (c.jump t).ien = c.ien := rfl
@[simp] theorem Ctx.jump_ipend (c : Ctx) (t : Word) : (c.jump t).ipend = c.ipend := rfl
@[simp] theorem Ctx.jump_tvec (c : Ctx) (t : Word) : (c.jump t).tvec = c.tvec := rfl
@[simp] theorem Ctx.jump_tscratch (c : Ctx) (t : Word) : (c.jump t).tscratch = c.tscratch := rfl
@[simp] theorem Ctx.jump_trap (c : Ctx) (t : Word) : (c.jump t).trap = c.trap := rfl
@[simp] theorem Ctx.jump_mtrap (c : Ctx) (t : Word) : (c.jump t).mtrap = c.mtrap := rfl
@[simp] theorem Ctx.jump_supEntry (c : Ctx) (t : Word) : (c.jump t).supEntry = c.supEntry := rfl
@[simp] theorem Ctx.jump_inHandler (c : Ctx) (t : Word) : (c.jump t).inHandler = c.inHandler := rfl
@[simp] theorem Ctx.jump_erec0 (c : Ctx) (t : Word) : (c.jump t).erec0 = c.erec0 := rfl
@[simp] theorem Ctx.jump_erec1 (c : Ctx) (t : Word) : (c.jump t).erec1 = c.erec1 := rfl
@[simp] theorem Ctx.jump_erec2 (c : Ctx) (t : Word) : (c.jump t).erec2 = c.erec2 := rfl
@[simp] theorem Ctx.jump_rbudget (c : Ctx) (t : Word) : (c.jump t).rbudget = c.rbudget := rfl
@[simp] theorem Ctx.jump_budgetDue (c : Ctx) (t : Word) : (c.jump t).budgetDue = c.budgetDue := rfl
@[simp] theorem Ctx.jump_grace (c : Ctx) (t : Word) : (c.jump t).grace = c.grace := rfl
@[simp] theorem Ctx.jump_engAcc (c : Ctx) (t : Word) : (c.jump t).engAcc = c.engAcc := rfl
@[simp] theorem Ctx.jump_mint (c : Ctx) (t : Word) : (c.jump t).mint = c.mint := rfl
@[simp] theorem Ctx.jump_seeds (c : Ctx) (t : Word) : (c.jump t).seeds = c.seeds := rfl
@[simp] theorem Ctx.jump_sqsel (c : Ctx) (t : Word) : (c.jump t).sqsel = c.sqsel := rfl
@[simp] theorem Ctx.jump_esrsel (c : Ctx) (t : Word) : (c.jump t).esrsel = c.esrsel := rfl
@[simp] theorem Ctx.jump_evxsel (c : Ctx) (t : Word) : (c.jump t).evxsel = c.evxsel := rfl
@[simp] theorem Ctx.jump_chsel (c : Ctx) (t : Word) : (c.jump t).chsel = c.chsel := rfl
@[simp] theorem Ctx.jump_fpsel (c : Ctx) (t : Word) : (c.jump t).fpsel = c.fpsel := rfl
@[simp] theorem Ctx.jump_monitor (c : Ctx) (t : Word) : (c.jump t).monitor = c.monitor := rfl
@[simp] theorem Ctx.jump_monHit (c : Ctx) (t : Word) : (c.jump t).monHit = c.monHit := rfl
@[simp] theorem Ctx.jump_monLost (c : Ctx) (t : Word) : (c.jump t).monLost = c.monLost := rfl
@[simp] theorem Ctx.jump_waitKind (c : Ctx) (t : Word) : (c.jump t).waitKind = c.waitKind := rfl
@[simp] theorem Ctx.jump_spurious (c : Ctx) (t : Word) : (c.jump t).spurious = c.spurious := rfl
@[simp] theorem Ctx.jump_halted (c : Ctx) (t : Word) : (c.jump t).halted = c.halted := rfl
@[simp] theorem Ctx.jump_frozen (c : Ctx) (t : Word) : (c.jump t).frozen = c.frozen := rfl
@[simp] theorem Ctx.jump_vq (c : Ctx) (t : Word) : (c.jump t).vq = c.vq := rfl
@[simp] theorem Ctx.jump_mq (c : Ctx) (t : Word) : (c.jump t).mq = c.mq := rfl
@[simp] theorem Ctx.jump_emu (c : Ctx) (t : Word) : (c.jump t).emu = c.emu := rfl
@[simp] theorem Ctx.jump_unitSeq (c : Ctx) (t : Word) : (c.jump t).unitSeq = c.unitSeq := rfl
@[simp] theorem Ctx.jump_jobs (c : Ctx) (t : Word) : (c.jump t).jobs = c.jobs := rfl
@[simp] theorem Ctx.jump_retry (c : Ctx) (t : Word) : (c.jump t).retry = c.retry := rfl
@[simp] theorem Ctx.jump_seqTag (c : Ctx) (t : Word) : (c.jump t).seqTag = c.seqTag := rfl
@[simp] theorem Ctx.jump_homeRec (c : Ctx) (t : Word) : (c.jump t).homeRec = c.homeRec := rfl
@[simp] theorem Ctx.jump_reports (c : Ctx) (t : Word) : (c.jump t).reports = c.reports := rfl
@[simp] theorem Ctx.jump_barReps (c : Ctx) (t : Word) : (c.jump t).barReps = c.barReps := rfl
@[simp] theorem Ctx.jump_linkLost (c : Ctx) (t : Word) : (c.jump t).linkLost = c.linkLost := rfl
@[simp] theorem Ctx.jump_fpx (c : Ctx) (t : Word) : (c.jump t).fpx = c.fpx := rfl
@[simp] theorem Ctx.jump_fpxReq (c : Ctx) (t : Word) : (c.jump t).fpxReq = c.fpxReq := rfl
@[simp] theorem Ctx.jump_check (c : Ctx) (t : Word) : (c.jump t).check = c.check := rfl
@[simp] theorem Ctx.jump_sqLast (c : Ctx) (t : Word) : (c.jump t).sqLast = c.sqLast := rfl
@[simp] theorem Ctx.jump_votes (c : Ctx) (t : Word) : (c.jump t).votes = c.votes := rfl
@[simp] theorem Ctx.jump_colls (c : Ctx) (t : Word) : (c.jump t).colls = c.colls := rfl
@[simp] theorem Ctx.jump_seized (c : Ctx) (t : Word) : (c.jump t).seized = c.seized := rfl
@[simp] theorem Ctx.jump_spadBase (c : Ctx) (t : Word) : (c.jump t).spadBase = c.spadBase := rfl

@[simp] theorem Ctx.setDesc_uid (c : Ctx) (n : R3) (d : PDesc) : (c.setDesc n d).uid = c.uid := rfl
@[simp] theorem Ctx.setDesc_kind (c : Ctx) (n : R3) (d : PDesc) : (c.setDesc n d).kind = c.kind := rfl
@[simp] theorem Ctx.setDesc_place (c : Ctx) (n : R3) (d : PDesc) : (c.setDesc n d).place = c.place := rfl
@[simp] theorem Ctx.setDesc_role (c : Ctx) (n : R3) (d : PDesc) : (c.setDesc n d).role = c.role := rfl
@[simp] theorem Ctx.setDesc_bankIx (c : Ctx) (n : R3) (d : PDesc) : (c.setDesc n d).bankIx = c.bankIx := rfl
@[simp] theorem Ctx.setDesc_tenant (c : Ctx) (n : R3) (d : PDesc) : (c.setDesc n d).tenant = c.tenant := rfl
@[simp] theorem Ctx.setDesc_launch (c : Ctx) (n : R3) (d : PDesc) : (c.setDesc n d).launch = c.launch := rfl
@[simp] theorem Ctx.setDesc_task (c : Ctx) (n : R3) (d : PDesc) : (c.setDesc n d).task = c.task := rfl
@[simp] theorem Ctx.setDesc_lr (c : Ctx) (n : R3) (d : PDesc) : (c.setDesc n d).lr = c.lr := rfl
@[simp] theorem Ctx.setDesc_acc (c : Ctx) (n : R3) (d : PDesc) : (c.setDesc n d).acc = c.acc := rfl
@[simp] theorem Ctx.setDesc_p (c : Ctx) (n : R3) (d : PDesc) : (c.setDesc n d).p = c.p := rfl
@[simp] theorem Ctx.setDesc_k (c : Ctx) (n : R3) (d : PDesc) : (c.setDesc n d).k = c.k := rfl
@[simp] theorem Ctx.setDesc_pc (c : Ctx) (n : R3) (d : PDesc) : (c.setDesc n d).pc = c.pc := rfl
@[simp] theorem Ctx.setDesc_flags (c : Ctx) (n : R3) (d : PDesc) : (c.setDesc n d).flags = c.flags := rfl
@[simp] theorem Ctx.setDesc_pend (c : Ctx) (n : R3) (d : PDesc) : (c.setDesc n d).pend = c.pend := rfl
@[simp] theorem Ctx.setDesc_prv (c : Ctx) (n : R3) (d : PDesc) : (c.setDesc n d).prv = c.prv := rfl
@[simp] theorem Ctx.setDesc_reflex (c : Ctx) (n : R3) (d : PDesc) : (c.setDesc n d).reflex = c.reflex := rfl
@[simp] theorem Ctx.setDesc_det (c : Ctx) (n : R3) (d : PDesc) : (c.setDesc n d).det = c.det := rfl
@[simp] theorem Ctx.setDesc_quantum (c : Ctx) (n : R3) (d : PDesc) : (c.setDesc n d).quantum = c.quantum := rfl
@[simp] theorem Ctx.setDesc_mixtrap (c : Ctx) (n : R3) (d : PDesc) : (c.setDesc n d).mixtrap = c.mixtrap := rfl
@[simp] theorem Ctx.setDesc_fctl (c : Ctx) (n : R3) (d : PDesc) : (c.setDesc n d).fctl = c.fctl := rfl
@[simp] theorem Ctx.setDesc_fflags (c : Ctx) (n : R3) (d : PDesc) : (c.setDesc n d).fflags = c.fflags := rfl
@[simp] theorem Ctx.setDesc_fepol (c : Ctx) (n : R3) (d : PDesc) : (c.setDesc n d).fepol = c.fepol := rfl
@[simp] theorem Ctx.setDesc_gen (c : Ctx) (n : R3) (d : PDesc) : (c.setDesc n d).gen = c.gen := rfl
@[simp] theorem Ctx.setDesc_genrd (c : Ctx) (n : R3) (d : PDesc) : (c.setDesc n d).genrd = c.genrd := rfl
@[simp] theorem Ctx.setDesc_gentrap (c : Ctx) (n : R3) (d : PDesc) : (c.setDesc n d).gentrap = c.gentrap := rfl
@[simp] theorem Ctx.setDesc_defscope (c : Ctx) (n : R3) (d : PDesc) : (c.setDesc n d).defscope = c.defscope := rfl
@[simp] theorem Ctx.setDesc_esEn (c : Ctx) (n : R3) (d : PDesc) : (c.setDesc n d).esEn = c.esEn := rfl
@[simp] theorem Ctx.setDesc_esWin (c : Ctx) (n : R3) (d : PDesc) : (c.setDesc n d).esWin = c.esWin := rfl
@[simp] theorem Ctx.setDesc_esPos (c : Ctx) (n : R3) (d : PDesc) : (c.setDesc n d).esPos = c.esPos := rfl
@[simp] theorem Ctx.setDesc_mfmt (c : Ctx) (n : R3) (d : PDesc) : (c.setDesc n d).mfmt = c.mfmt := rfl
@[simp] theorem Ctx.setDesc_mscla (c : Ctx) (n : R3) (d : PDesc) : (c.setDesc n d).mscla = c.mscla := rfl
@[simp] theorem Ctx.setDesc_msclb (c : Ctx) (n : R3) (d : PDesc) : (c.setDesc n d).msclb = c.msclb := rfl
@[simp] theorem Ctx.setDesc_mgeo0 (c : Ctx) (n : R3) (d : PDesc) : (c.setDesc n d).mgeo0 = c.mgeo0 := rfl
@[simp] theorem Ctx.setDesc_mgeo1 (c : Ctx) (n : R3) (d : PDesc) : (c.setDesc n d).mgeo1 = c.mgeo1 := rfl
@[simp] theorem Ctx.setDesc_msat (c : Ctx) (n : R3) (d : PDesc) : (c.setDesc n d).msat = c.msat := rfl
@[simp] theorem Ctx.setDesc_msclo (c : Ctx) (n : R3) (d : PDesc) : (c.setDesc n d).msclo = c.msclo := rfl
@[simp] theorem Ctx.setDesc_sthr (c : Ctx) (n : R3) (d : PDesc) : (c.setDesc n d).sthr = c.sthr := rfl
@[simp] theorem Ctx.setDesc_slim (c : Ctx) (n : R3) (d : PDesc) : (c.setDesc n d).slim = c.slim := rfl
@[simp] theorem Ctx.setDesc_vocabn (c : Ctx) (n : R3) (d : PDesc) : (c.setDesc n d).vocabn = c.vocabn := rfl
@[simp] theorem Ctx.setDesc_vocabp (c : Ctx) (n : R3) (d : PDesc) : (c.setDesc n d).vocabp = c.vocabp := rfl
@[simp] theorem Ctx.setDesc_qdim (c : Ctx) (n : R3) (d : PDesc) : (c.setDesc n d).qdim = c.qdim := rfl
@[simp] theorem Ctx.setDesc_qidx (c : Ctx) (n : R3) (d : PDesc) : (c.setDesc n d).qidx = c.qidx := rfl
@[simp] theorem Ctx.setDesc_qsrd (c : Ctx) (n : R3) (d : PDesc) : (c.setDesc n d).qsrd = c.qsrd := rfl
@[simp] theorem Ctx.setDesc_rank (c : Ctx) (n : R3) (d : PDesc) : (c.setDesc n d).rank = c.rank := rfl
@[simp] theorem Ctx.setDesc_nrank (c : Ctx) (n : R3) (d : PDesc) : (c.setDesc n d).nrank = c.nrank := rfl
@[simp] theorem Ctx.setDesc_stage (c : Ctx) (n : R3) (d : PDesc) : (c.setDesc n d).stage = c.stage := rfl
@[simp] theorem Ctx.setDesc_gie (c : Ctx) (n : R3) (d : PDesc) : (c.setDesc n d).gie = c.gie := rfl
@[simp] theorem Ctx.setDesc_ien (c : Ctx) (n : R3) (d : PDesc) : (c.setDesc n d).ien = c.ien := rfl
@[simp] theorem Ctx.setDesc_ipend (c : Ctx) (n : R3) (d : PDesc) : (c.setDesc n d).ipend = c.ipend := rfl
@[simp] theorem Ctx.setDesc_tvec (c : Ctx) (n : R3) (d : PDesc) : (c.setDesc n d).tvec = c.tvec := rfl
@[simp] theorem Ctx.setDesc_tscratch (c : Ctx) (n : R3) (d : PDesc) : (c.setDesc n d).tscratch = c.tscratch := rfl
@[simp] theorem Ctx.setDesc_trap (c : Ctx) (n : R3) (d : PDesc) : (c.setDesc n d).trap = c.trap := rfl
@[simp] theorem Ctx.setDesc_mtrap (c : Ctx) (n : R3) (d : PDesc) : (c.setDesc n d).mtrap = c.mtrap := rfl
@[simp] theorem Ctx.setDesc_supEntry (c : Ctx) (n : R3) (d : PDesc) : (c.setDesc n d).supEntry = c.supEntry := rfl
@[simp] theorem Ctx.setDesc_inHandler (c : Ctx) (n : R3) (d : PDesc) : (c.setDesc n d).inHandler = c.inHandler := rfl
@[simp] theorem Ctx.setDesc_erec0 (c : Ctx) (n : R3) (d : PDesc) : (c.setDesc n d).erec0 = c.erec0 := rfl
@[simp] theorem Ctx.setDesc_erec1 (c : Ctx) (n : R3) (d : PDesc) : (c.setDesc n d).erec1 = c.erec1 := rfl
@[simp] theorem Ctx.setDesc_erec2 (c : Ctx) (n : R3) (d : PDesc) : (c.setDesc n d).erec2 = c.erec2 := rfl
@[simp] theorem Ctx.setDesc_rbudget (c : Ctx) (n : R3) (d : PDesc) : (c.setDesc n d).rbudget = c.rbudget := rfl
@[simp] theorem Ctx.setDesc_budgetDue (c : Ctx) (n : R3) (d : PDesc) : (c.setDesc n d).budgetDue = c.budgetDue := rfl
@[simp] theorem Ctx.setDesc_grace (c : Ctx) (n : R3) (d : PDesc) : (c.setDesc n d).grace = c.grace := rfl
@[simp] theorem Ctx.setDesc_loops (c : Ctx) (n : R3) (d : PDesc) : (c.setDesc n d).loops = c.loops := rfl
@[simp] theorem Ctx.setDesc_repi (c : Ctx) (n : R3) (d : PDesc) : (c.setDesc n d).repi = c.repi := rfl
@[simp] theorem Ctx.setDesc_engAcc (c : Ctx) (n : R3) (d : PDesc) : (c.setDesc n d).engAcc = c.engAcc := rfl
@[simp] theorem Ctx.setDesc_wres (c : Ctx) (n : R3) (d : PDesc) : (c.setDesc n d).wres = c.wres := rfl
@[simp] theorem Ctx.setDesc_wph (c : Ctx) (n : R3) (d : PDesc) : (c.setDesc n d).wph = c.wph := rfl
@[simp] theorem Ctx.setDesc_mint (c : Ctx) (n : R3) (d : PDesc) : (c.setDesc n d).mint = c.mint := rfl
@[simp] theorem Ctx.setDesc_seeds (c : Ctx) (n : R3) (d : PDesc) : (c.setDesc n d).seeds = c.seeds := rfl
@[simp] theorem Ctx.setDesc_sqsel (c : Ctx) (n : R3) (d : PDesc) : (c.setDesc n d).sqsel = c.sqsel := rfl
@[simp] theorem Ctx.setDesc_esrsel (c : Ctx) (n : R3) (d : PDesc) : (c.setDesc n d).esrsel = c.esrsel := rfl
@[simp] theorem Ctx.setDesc_evxsel (c : Ctx) (n : R3) (d : PDesc) : (c.setDesc n d).evxsel = c.evxsel := rfl
@[simp] theorem Ctx.setDesc_chsel (c : Ctx) (n : R3) (d : PDesc) : (c.setDesc n d).chsel = c.chsel := rfl
@[simp] theorem Ctx.setDesc_fpsel (c : Ctx) (n : R3) (d : PDesc) : (c.setDesc n d).fpsel = c.fpsel := rfl
@[simp] theorem Ctx.setDesc_monitor (c : Ctx) (n : R3) (d : PDesc) : (c.setDesc n d).monitor = c.monitor := rfl
@[simp] theorem Ctx.setDesc_monHit (c : Ctx) (n : R3) (d : PDesc) : (c.setDesc n d).monHit = c.monHit := rfl
@[simp] theorem Ctx.setDesc_monLost (c : Ctx) (n : R3) (d : PDesc) : (c.setDesc n d).monLost = c.monLost := rfl
@[simp] theorem Ctx.setDesc_stalled (c : Ctx) (n : R3) (d : PDesc) : (c.setDesc n d).stalled = c.stalled := rfl
@[simp] theorem Ctx.setDesc_waitFrom (c : Ctx) (n : R3) (d : PDesc) : (c.setDesc n d).waitFrom = c.waitFrom := rfl
@[simp] theorem Ctx.setDesc_waitKind (c : Ctx) (n : R3) (d : PDesc) : (c.setDesc n d).waitKind = c.waitKind := rfl
@[simp] theorem Ctx.setDesc_inMwait (c : Ctx) (n : R3) (d : PDesc) : (c.setDesc n d).inMwait = c.inMwait := rfl
@[simp] theorem Ctx.setDesc_inWfi (c : Ctx) (n : R3) (d : PDesc) : (c.setDesc n d).inWfi = c.inWfi := rfl
@[simp] theorem Ctx.setDesc_inClose (c : Ctx) (n : R3) (d : PDesc) : (c.setDesc n d).inClose = c.inClose := rfl
@[simp] theorem Ctx.setDesc_spurious (c : Ctx) (n : R3) (d : PDesc) : (c.setDesc n d).spurious = c.spurious := rfl
@[simp] theorem Ctx.setDesc_halted (c : Ctx) (n : R3) (d : PDesc) : (c.setDesc n d).halted = c.halted := rfl
@[simp] theorem Ctx.setDesc_frozen (c : Ctx) (n : R3) (d : PDesc) : (c.setDesc n d).frozen = c.frozen := rfl
@[simp] theorem Ctx.setDesc_vq (c : Ctx) (n : R3) (d : PDesc) : (c.setDesc n d).vq = c.vq := rfl
@[simp] theorem Ctx.setDesc_mq (c : Ctx) (n : R3) (d : PDesc) : (c.setDesc n d).mq = c.mq := rfl
@[simp] theorem Ctx.setDesc_emu (c : Ctx) (n : R3) (d : PDesc) : (c.setDesc n d).emu = c.emu := rfl
@[simp] theorem Ctx.setDesc_unitSeq (c : Ctx) (n : R3) (d : PDesc) : (c.setDesc n d).unitSeq = c.unitSeq := rfl
@[simp] theorem Ctx.setDesc_jobs (c : Ctx) (n : R3) (d : PDesc) : (c.setDesc n d).jobs = c.jobs := rfl
@[simp] theorem Ctx.setDesc_retry (c : Ctx) (n : R3) (d : PDesc) : (c.setDesc n d).retry = c.retry := rfl
@[simp] theorem Ctx.setDesc_seqTag (c : Ctx) (n : R3) (d : PDesc) : (c.setDesc n d).seqTag = c.seqTag := rfl
@[simp] theorem Ctx.setDesc_homeRec (c : Ctx) (n : R3) (d : PDesc) : (c.setDesc n d).homeRec = c.homeRec := rfl
@[simp] theorem Ctx.setDesc_reports (c : Ctx) (n : R3) (d : PDesc) : (c.setDesc n d).reports = c.reports := rfl
@[simp] theorem Ctx.setDesc_barReps (c : Ctx) (n : R3) (d : PDesc) : (c.setDesc n d).barReps = c.barReps := rfl
@[simp] theorem Ctx.setDesc_linkLost (c : Ctx) (n : R3) (d : PDesc) : (c.setDesc n d).linkLost = c.linkLost := rfl
@[simp] theorem Ctx.setDesc_fpx (c : Ctx) (n : R3) (d : PDesc) : (c.setDesc n d).fpx = c.fpx := rfl
@[simp] theorem Ctx.setDesc_fpxReq (c : Ctx) (n : R3) (d : PDesc) : (c.setDesc n d).fpxReq = c.fpxReq := rfl
@[simp] theorem Ctx.setDesc_check (c : Ctx) (n : R3) (d : PDesc) : (c.setDesc n d).check = c.check := rfl
@[simp] theorem Ctx.setDesc_sqLast (c : Ctx) (n : R3) (d : PDesc) : (c.setDesc n d).sqLast = c.sqLast := rfl
@[simp] theorem Ctx.setDesc_votes (c : Ctx) (n : R3) (d : PDesc) : (c.setDesc n d).votes = c.votes := rfl
@[simp] theorem Ctx.setDesc_colls (c : Ctx) (n : R3) (d : PDesc) : (c.setDesc n d).colls = c.colls := rfl
@[simp] theorem Ctx.setDesc_retired (c : Ctx) (n : R3) (d : PDesc) : (c.setDesc n d).retired = c.retired := rfl
@[simp] theorem Ctx.setDesc_seized (c : Ctx) (n : R3) (d : PDesc) : (c.setDesc n d).seized = c.seized := rfl
@[simp] theorem Ctx.setDesc_spadBase (c : Ctx) (n : R3) (d : PDesc) : (c.setDesc n d).spadBase = c.spadBase := rfl

@[simp] theorem Ctx.setFlags4_uid (c : Ctx) (w : Word) : (c.setFlags4 w).uid = c.uid := rfl
@[simp] theorem Ctx.setFlags4_kind (c : Ctx) (w : Word) : (c.setFlags4 w).kind = c.kind := rfl
@[simp] theorem Ctx.setFlags4_place (c : Ctx) (w : Word) : (c.setFlags4 w).place = c.place := rfl
@[simp] theorem Ctx.setFlags4_role (c : Ctx) (w : Word) : (c.setFlags4 w).role = c.role := rfl
@[simp] theorem Ctx.setFlags4_bankIx (c : Ctx) (w : Word) : (c.setFlags4 w).bankIx = c.bankIx := rfl
@[simp] theorem Ctx.setFlags4_tenant (c : Ctx) (w : Word) : (c.setFlags4 w).tenant = c.tenant := rfl
@[simp] theorem Ctx.setFlags4_launch (c : Ctx) (w : Word) : (c.setFlags4 w).launch = c.launch := rfl
@[simp] theorem Ctx.setFlags4_task (c : Ctx) (w : Word) : (c.setFlags4 w).task = c.task := rfl
@[simp] theorem Ctx.setFlags4_lr (c : Ctx) (w : Word) : (c.setFlags4 w).lr = c.lr := rfl
@[simp] theorem Ctx.setFlags4_acc (c : Ctx) (w : Word) : (c.setFlags4 w).acc = c.acc := rfl
@[simp] theorem Ctx.setFlags4_p (c : Ctx) (w : Word) : (c.setFlags4 w).p = c.p := rfl
@[simp] theorem Ctx.setFlags4_k (c : Ctx) (w : Word) : (c.setFlags4 w).k = c.k := rfl
@[simp] theorem Ctx.setFlags4_pd (c : Ctx) (w : Word) : (c.setFlags4 w).pd = c.pd := rfl
@[simp] theorem Ctx.setFlags4_pc (c : Ctx) (w : Word) : (c.setFlags4 w).pc = c.pc := rfl
@[simp] theorem Ctx.setFlags4_pend (c : Ctx) (w : Word) : (c.setFlags4 w).pend = c.pend := rfl
@[simp] theorem Ctx.setFlags4_prv (c : Ctx) (w : Word) : (c.setFlags4 w).prv = c.prv := rfl
@[simp] theorem Ctx.setFlags4_reflex (c : Ctx) (w : Word) : (c.setFlags4 w).reflex = c.reflex := rfl
@[simp] theorem Ctx.setFlags4_det (c : Ctx) (w : Word) : (c.setFlags4 w).det = c.det := rfl
@[simp] theorem Ctx.setFlags4_quantum (c : Ctx) (w : Word) : (c.setFlags4 w).quantum = c.quantum := rfl
@[simp] theorem Ctx.setFlags4_mixtrap (c : Ctx) (w : Word) : (c.setFlags4 w).mixtrap = c.mixtrap := rfl
@[simp] theorem Ctx.setFlags4_fctl (c : Ctx) (w : Word) : (c.setFlags4 w).fctl = c.fctl := rfl
@[simp] theorem Ctx.setFlags4_fflags (c : Ctx) (w : Word) : (c.setFlags4 w).fflags = c.fflags := rfl
@[simp] theorem Ctx.setFlags4_fepol (c : Ctx) (w : Word) : (c.setFlags4 w).fepol = c.fepol := rfl
@[simp] theorem Ctx.setFlags4_gen (c : Ctx) (w : Word) : (c.setFlags4 w).gen = c.gen := rfl
@[simp] theorem Ctx.setFlags4_genrd (c : Ctx) (w : Word) : (c.setFlags4 w).genrd = c.genrd := rfl
@[simp] theorem Ctx.setFlags4_gentrap (c : Ctx) (w : Word) : (c.setFlags4 w).gentrap = c.gentrap := rfl
@[simp] theorem Ctx.setFlags4_defscope (c : Ctx) (w : Word) : (c.setFlags4 w).defscope = c.defscope := rfl
@[simp] theorem Ctx.setFlags4_esEn (c : Ctx) (w : Word) : (c.setFlags4 w).esEn = c.esEn := rfl
@[simp] theorem Ctx.setFlags4_esWin (c : Ctx) (w : Word) : (c.setFlags4 w).esWin = c.esWin := rfl
@[simp] theorem Ctx.setFlags4_esPos (c : Ctx) (w : Word) : (c.setFlags4 w).esPos = c.esPos := rfl
@[simp] theorem Ctx.setFlags4_mfmt (c : Ctx) (w : Word) : (c.setFlags4 w).mfmt = c.mfmt := rfl
@[simp] theorem Ctx.setFlags4_mscla (c : Ctx) (w : Word) : (c.setFlags4 w).mscla = c.mscla := rfl
@[simp] theorem Ctx.setFlags4_msclb (c : Ctx) (w : Word) : (c.setFlags4 w).msclb = c.msclb := rfl
@[simp] theorem Ctx.setFlags4_mgeo0 (c : Ctx) (w : Word) : (c.setFlags4 w).mgeo0 = c.mgeo0 := rfl
@[simp] theorem Ctx.setFlags4_mgeo1 (c : Ctx) (w : Word) : (c.setFlags4 w).mgeo1 = c.mgeo1 := rfl
@[simp] theorem Ctx.setFlags4_msat (c : Ctx) (w : Word) : (c.setFlags4 w).msat = c.msat := rfl
@[simp] theorem Ctx.setFlags4_msclo (c : Ctx) (w : Word) : (c.setFlags4 w).msclo = c.msclo := rfl
@[simp] theorem Ctx.setFlags4_sthr (c : Ctx) (w : Word) : (c.setFlags4 w).sthr = c.sthr := rfl
@[simp] theorem Ctx.setFlags4_slim (c : Ctx) (w : Word) : (c.setFlags4 w).slim = c.slim := rfl
@[simp] theorem Ctx.setFlags4_vocabn (c : Ctx) (w : Word) : (c.setFlags4 w).vocabn = c.vocabn := rfl
@[simp] theorem Ctx.setFlags4_vocabp (c : Ctx) (w : Word) : (c.setFlags4 w).vocabp = c.vocabp := rfl
@[simp] theorem Ctx.setFlags4_qdim (c : Ctx) (w : Word) : (c.setFlags4 w).qdim = c.qdim := rfl
@[simp] theorem Ctx.setFlags4_qidx (c : Ctx) (w : Word) : (c.setFlags4 w).qidx = c.qidx := rfl
@[simp] theorem Ctx.setFlags4_qsrd (c : Ctx) (w : Word) : (c.setFlags4 w).qsrd = c.qsrd := rfl
@[simp] theorem Ctx.setFlags4_rank (c : Ctx) (w : Word) : (c.setFlags4 w).rank = c.rank := rfl
@[simp] theorem Ctx.setFlags4_nrank (c : Ctx) (w : Word) : (c.setFlags4 w).nrank = c.nrank := rfl
@[simp] theorem Ctx.setFlags4_stage (c : Ctx) (w : Word) : (c.setFlags4 w).stage = c.stage := rfl
@[simp] theorem Ctx.setFlags4_gie (c : Ctx) (w : Word) : (c.setFlags4 w).gie = c.gie := rfl
@[simp] theorem Ctx.setFlags4_ien (c : Ctx) (w : Word) : (c.setFlags4 w).ien = c.ien := rfl
@[simp] theorem Ctx.setFlags4_ipend (c : Ctx) (w : Word) : (c.setFlags4 w).ipend = c.ipend := rfl
@[simp] theorem Ctx.setFlags4_tvec (c : Ctx) (w : Word) : (c.setFlags4 w).tvec = c.tvec := rfl
@[simp] theorem Ctx.setFlags4_tscratch (c : Ctx) (w : Word) : (c.setFlags4 w).tscratch = c.tscratch := rfl
@[simp] theorem Ctx.setFlags4_trap (c : Ctx) (w : Word) : (c.setFlags4 w).trap = c.trap := rfl
@[simp] theorem Ctx.setFlags4_mtrap (c : Ctx) (w : Word) : (c.setFlags4 w).mtrap = c.mtrap := rfl
@[simp] theorem Ctx.setFlags4_supEntry (c : Ctx) (w : Word) : (c.setFlags4 w).supEntry = c.supEntry := rfl
@[simp] theorem Ctx.setFlags4_inHandler (c : Ctx) (w : Word) : (c.setFlags4 w).inHandler = c.inHandler := rfl
@[simp] theorem Ctx.setFlags4_erec0 (c : Ctx) (w : Word) : (c.setFlags4 w).erec0 = c.erec0 := rfl
@[simp] theorem Ctx.setFlags4_erec1 (c : Ctx) (w : Word) : (c.setFlags4 w).erec1 = c.erec1 := rfl
@[simp] theorem Ctx.setFlags4_erec2 (c : Ctx) (w : Word) : (c.setFlags4 w).erec2 = c.erec2 := rfl
@[simp] theorem Ctx.setFlags4_rbudget (c : Ctx) (w : Word) : (c.setFlags4 w).rbudget = c.rbudget := rfl
@[simp] theorem Ctx.setFlags4_budgetDue (c : Ctx) (w : Word) : (c.setFlags4 w).budgetDue = c.budgetDue := rfl
@[simp] theorem Ctx.setFlags4_grace (c : Ctx) (w : Word) : (c.setFlags4 w).grace = c.grace := rfl
@[simp] theorem Ctx.setFlags4_loops (c : Ctx) (w : Word) : (c.setFlags4 w).loops = c.loops := rfl
@[simp] theorem Ctx.setFlags4_repi (c : Ctx) (w : Word) : (c.setFlags4 w).repi = c.repi := rfl
@[simp] theorem Ctx.setFlags4_engAcc (c : Ctx) (w : Word) : (c.setFlags4 w).engAcc = c.engAcc := rfl
@[simp] theorem Ctx.setFlags4_wres (c : Ctx) (w : Word) : (c.setFlags4 w).wres = c.wres := rfl
@[simp] theorem Ctx.setFlags4_wph (c : Ctx) (w : Word) : (c.setFlags4 w).wph = c.wph := rfl
@[simp] theorem Ctx.setFlags4_mint (c : Ctx) (w : Word) : (c.setFlags4 w).mint = c.mint := rfl
@[simp] theorem Ctx.setFlags4_seeds (c : Ctx) (w : Word) : (c.setFlags4 w).seeds = c.seeds := rfl
@[simp] theorem Ctx.setFlags4_sqsel (c : Ctx) (w : Word) : (c.setFlags4 w).sqsel = c.sqsel := rfl
@[simp] theorem Ctx.setFlags4_esrsel (c : Ctx) (w : Word) : (c.setFlags4 w).esrsel = c.esrsel := rfl
@[simp] theorem Ctx.setFlags4_evxsel (c : Ctx) (w : Word) : (c.setFlags4 w).evxsel = c.evxsel := rfl
@[simp] theorem Ctx.setFlags4_chsel (c : Ctx) (w : Word) : (c.setFlags4 w).chsel = c.chsel := rfl
@[simp] theorem Ctx.setFlags4_fpsel (c : Ctx) (w : Word) : (c.setFlags4 w).fpsel = c.fpsel := rfl
@[simp] theorem Ctx.setFlags4_monitor (c : Ctx) (w : Word) : (c.setFlags4 w).monitor = c.monitor := rfl
@[simp] theorem Ctx.setFlags4_monHit (c : Ctx) (w : Word) : (c.setFlags4 w).monHit = c.monHit := rfl
@[simp] theorem Ctx.setFlags4_monLost (c : Ctx) (w : Word) : (c.setFlags4 w).monLost = c.monLost := rfl
@[simp] theorem Ctx.setFlags4_stalled (c : Ctx) (w : Word) : (c.setFlags4 w).stalled = c.stalled := rfl
@[simp] theorem Ctx.setFlags4_waitFrom (c : Ctx) (w : Word) : (c.setFlags4 w).waitFrom = c.waitFrom := rfl
@[simp] theorem Ctx.setFlags4_waitKind (c : Ctx) (w : Word) : (c.setFlags4 w).waitKind = c.waitKind := rfl
@[simp] theorem Ctx.setFlags4_inMwait (c : Ctx) (w : Word) : (c.setFlags4 w).inMwait = c.inMwait := rfl
@[simp] theorem Ctx.setFlags4_inWfi (c : Ctx) (w : Word) : (c.setFlags4 w).inWfi = c.inWfi := rfl
@[simp] theorem Ctx.setFlags4_inClose (c : Ctx) (w : Word) : (c.setFlags4 w).inClose = c.inClose := rfl
@[simp] theorem Ctx.setFlags4_spurious (c : Ctx) (w : Word) : (c.setFlags4 w).spurious = c.spurious := rfl
@[simp] theorem Ctx.setFlags4_halted (c : Ctx) (w : Word) : (c.setFlags4 w).halted = c.halted := rfl
@[simp] theorem Ctx.setFlags4_frozen (c : Ctx) (w : Word) : (c.setFlags4 w).frozen = c.frozen := rfl
@[simp] theorem Ctx.setFlags4_vq (c : Ctx) (w : Word) : (c.setFlags4 w).vq = c.vq := rfl
@[simp] theorem Ctx.setFlags4_mq (c : Ctx) (w : Word) : (c.setFlags4 w).mq = c.mq := rfl
@[simp] theorem Ctx.setFlags4_emu (c : Ctx) (w : Word) : (c.setFlags4 w).emu = c.emu := rfl
@[simp] theorem Ctx.setFlags4_unitSeq (c : Ctx) (w : Word) : (c.setFlags4 w).unitSeq = c.unitSeq := rfl
@[simp] theorem Ctx.setFlags4_jobs (c : Ctx) (w : Word) : (c.setFlags4 w).jobs = c.jobs := rfl
@[simp] theorem Ctx.setFlags4_retry (c : Ctx) (w : Word) : (c.setFlags4 w).retry = c.retry := rfl
@[simp] theorem Ctx.setFlags4_seqTag (c : Ctx) (w : Word) : (c.setFlags4 w).seqTag = c.seqTag := rfl
@[simp] theorem Ctx.setFlags4_homeRec (c : Ctx) (w : Word) : (c.setFlags4 w).homeRec = c.homeRec := rfl
@[simp] theorem Ctx.setFlags4_reports (c : Ctx) (w : Word) : (c.setFlags4 w).reports = c.reports := rfl
@[simp] theorem Ctx.setFlags4_barReps (c : Ctx) (w : Word) : (c.setFlags4 w).barReps = c.barReps := rfl
@[simp] theorem Ctx.setFlags4_linkLost (c : Ctx) (w : Word) : (c.setFlags4 w).linkLost = c.linkLost := rfl
@[simp] theorem Ctx.setFlags4_fpx (c : Ctx) (w : Word) : (c.setFlags4 w).fpx = c.fpx := rfl
@[simp] theorem Ctx.setFlags4_fpxReq (c : Ctx) (w : Word) : (c.setFlags4 w).fpxReq = c.fpxReq := rfl
@[simp] theorem Ctx.setFlags4_check (c : Ctx) (w : Word) : (c.setFlags4 w).check = c.check := rfl
@[simp] theorem Ctx.setFlags4_sqLast (c : Ctx) (w : Word) : (c.setFlags4 w).sqLast = c.sqLast := rfl
@[simp] theorem Ctx.setFlags4_votes (c : Ctx) (w : Word) : (c.setFlags4 w).votes = c.votes := rfl
@[simp] theorem Ctx.setFlags4_colls (c : Ctx) (w : Word) : (c.setFlags4 w).colls = c.colls := rfl
@[simp] theorem Ctx.setFlags4_retired (c : Ctx) (w : Word) : (c.setFlags4 w).retired = c.retired := rfl
@[simp] theorem Ctx.setFlags4_seized (c : Ctx) (w : Word) : (c.setFlags4 w).seized = c.seized := rfl
@[simp] theorem Ctx.setFlags4_spadBase (c : Ctx) (w : Word) : (c.setFlags4 w).spadBase = c.spadBase := rfl

@[simp] theorem Ctx.setReg_acc (c : Ctx) (x : Reg) : c.setReg .acc x = { c with acc := x } := rfl

end Sys2Proof.Machine
end

