-- ==== Sys2Proof/Laws/Memory.lean ====
section
/-! SUPPORT. The canonical form of storage and of the granules' states: every operation on them keeps it, and a read after a
write gives what was written. -/

namespace Sys2Proof.Machine

section Lists

variable {α : Type} [DecidableEq α] {d : α}

/-- What lies below the bound is not listed. -/
theorem kvGet_below : ∀ (l : List (Nat × α)) (b k : Nat), kvWfFrom d (some b) l = true → k ≤ b → kvGet d l k = d
  | [], _, _, _, _ => rfl
  | (a, x) :: r, b, k, h, hk => by
    simp only [kvWfFrom, Bool.and_eq_true, decide_eq_true_eq] at h
    have ha : ¬ a = k := by omega
    simp only [kvGet, ha, if_false]
    exact kvGet_below r a k h.2 (by omega)

/-- A lower bound may be lowered. -/
theorem kvWfFrom_weaken : ∀ (l : List (Nat × α)) (b : Nat) (lo : Option Nat), kvWfFrom d (some b) l = true →
    (∀ m, lo = some m → m ≤ b) → kvWfFrom d lo l = true
  | [], _, _, _, _ => by simp [kvWfFrom]
  | (a, x) :: r, b, lo, h, hl => by
    simp only [kvWfFrom, Bool.and_eq_true, decide_eq_true_eq] at h ⊢
    refine ⟨⟨?_, h.1.2⟩, h.2⟩
    cases lo with
    | none => rfl
    | some m =>
      have := hl m rfl
      simp only [decide_eq_true_eq]
      omega

/-- Setting a key above the bound keeps the form. -/
theorem kvWfFrom_set : ∀ (l : List (Nat × α)) (lo : Option Nat) (k : Nat) (v : α), kvWfFrom d lo l = true →
    (∀ m, lo = some m → m < k) → kvWfFrom d lo (kvSet d l k v) = true
  | [], lo, k, v, _, hk => by
    by_cases hv : v = d
    · simp [kvSet, hv, kvWfFrom]
    · cases lo with
      | none => simp [kvSet, hv, kvWfFrom]
      | some m => simp [kvSet, hv, kvWfFrom, hk m rfl]
  | (a, x) :: r, lo, k, v, h, hk => by
    simp only [kvWfFrom, Bool.and_eq_true, decide_eq_true_eq] at h
    simp only [kvSet]
    by_cases hak : a < k
    · simp only [hak, if_true, kvWfFrom, Bool.and_eq_true, decide_eq_true_eq]
      exact ⟨h.1, kvWfFrom_set r (some a) k v h.2 (by rintro m ⟨⟩; exact hak)⟩
    · simp only [hak, if_false]
      by_cases he : a = k
      · subst he
        by_cases hv : v = d
        · simp only [hv, if_true]
          refine kvWfFrom_weaken r a lo h.2 fun m hm => Nat.le_of_lt (hk m hm)
        · simp only [hv, if_false, if_true, kvWfFrom, Bool.and_eq_true, decide_eq_true_eq]
          exact ⟨⟨h.1.1, hv⟩, h.2⟩
      · simp only [he, if_false]
        by_cases hv : v = d
        · simp only [hv, if_true, kvWfFrom, Bool.and_eq_true, decide_eq_true_eq]
          exact h
        · simp only [hv, if_false, kvWfFrom, Bool.and_eq_true, decide_eq_true_eq]
          refine ⟨⟨?_, hv⟩, ⟨by omega, h.1.2⟩, h.2⟩
          cases lo with
          | none => rfl
          | some m => simpa using hk m rfl

/-- Setting a key keeps the canonical form. -/
theorem kvWf_set (l : List (Nat × α)) (k : Nat) (v : α) (h : kvWf d l = true) : kvWf d (kvSet d l k v) = true :=
  kvWfFrom_set l none k v h (by simp)

/-- Leaving entries out keeps the form. -/
theorem kvWfFrom_filter (p : Nat × α → Bool) : ∀ (l : List (Nat × α)) (lo : Option Nat), kvWfFrom d lo l = true →
    kvWfFrom d lo (l.filter p) = true
  | [], _, _ => rfl
  | (a, x) :: r, lo, h => by
    have h' := h
    simp only [kvWfFrom, Bool.and_eq_true, decide_eq_true_eq] at h
    by_cases hp : p (a, x) = true
    · simp only [List.filter_cons, hp, if_true, kvWfFrom, Bool.and_eq_true, decide_eq_true_eq]
      exact ⟨h.1, kvWfFrom_filter p r (some a) h.2⟩
    · simp only [List.filter_cons, hp]
      refine kvWfFrom_weaken _ a lo (kvWfFrom_filter p r (some a) h.2) fun m hm => ?_
      subst hm
      have := h.1.1
      simp only [decide_eq_true_eq] at this
      omega

/-- Leaving entries out keeps the canonical form. -/
theorem kvWf_filter (p : Nat × α → Bool) (l : List (Nat × α)) (h : kvWf d l = true) : kvWf d (l.filter p) = true :=
  kvWfFrom_filter p l none h

/-- A key reads as what it was set to. -/
theorem kvGet_set_same : ∀ (l : List (Nat × α)) (lo : Option Nat) (k : Nat) (v : α), kvWfFrom d lo l = true →
    kvGet d (kvSet d l k v) k = v
  | [], _, k, v, _ => by by_cases hv : v = d <;> simp [kvSet, hv, kvGet]
  | (a, x) :: r, lo, k, v, h => by
    simp only [kvWfFrom, Bool.and_eq_true, decide_eq_true_eq] at h
    simp only [kvSet]
    by_cases hak : a < k
    · have hne : ¬ a = k := by omega
      simp only [hak, if_true, kvGet, hne, if_false]
      exact kvGet_set_same r (some a) k v h.2
    · simp only [hak, if_false]
      by_cases he : a = k
      · subst he
        by_cases hv : v = d
        · simp only [hv, if_true]
          exact kvGet_below r a a h.2 (Nat.le_refl a)
        · simp [hv, kvGet]
      · simp only [he, if_false]
        by_cases hv : v = d
        · simp only [hv, if_true, kvGet, he, if_false]
          exact kvGet_below r a k h.2 (by omega)
        · simp [hv, kvGet]

/-- Every other key reads as before. -/
theorem kvGet_set_other : ∀ (l : List (Nat × α)) (lo : Option Nat) (k j : Nat) (v : α), kvWfFrom d lo l = true → j ≠ k →
    kvGet d (kvSet d l k v) j = kvGet d l j
  | [], _, k, j, v, _, hj => by by_cases hv : v = d <;> simp [kvSet, hv, kvGet, Ne.symm hj]
  | (a, x) :: r, lo, k, j, v, h, hj => by
    simp only [kvWfFrom, Bool.and_eq_true, decide_eq_true_eq] at h
    simp only [kvSet]
    by_cases hak : a < k
    · simp only [hak, if_true, kvGet]
      by_cases haj : a = j
      · simp [haj]
      · simp only [haj, if_false]
        exact kvGet_set_other r (some a) k j v h.2 hj
    · simp only [hak, if_false]
      by_cases he : a = k
      · subst he
        have hne : ¬ a = j := fun e => hj e.symm
        by_cases hv : v = d <;> simp [hv, kvGet, hne]
      · simp only [he, if_false]
        by_cases hv : v = d
        · simp [hv]
        · simp [hv, kvGet, Ne.symm hj]

end Lists

/-! Storage. -/

/-- One byte written keeps the canonical form. -/
theorem Memory.wf_setByte (m : List Host.Cell) (k : Nat) (b : Byte) (h : Memory.wf m = true) : Memory.wf (Mem.setByte m k b) = true :=
  kvWf_set m k b h

/-- Bytes written keep the canonical form. -/
theorem Memory.wf_write : ∀ (bs : List Byte) (m : List Host.Cell) (k : Nat), Memory.wf m = true → Memory.wf (Mem.write m k bs) = true
  | [], _, _, h => h
  | b :: bs, m, k, h => Memory.wf_write bs (Mem.setByte m k b) (k + 1) (Memory.wf_setByte m k b h)

/-- Entries left out keep the canonical form. -/
theorem Memory.wf_filter (m : List Host.Cell) (p : Host.Cell → Bool) (h : Memory.wf m = true) : Memory.wf (m.filter p) = true :=
  kvWf_filter p m h

/-- A range cleared keeps the canonical form. -/
theorem Memory.wf_clear (m : List Host.Cell) (lo hi : Nat) (h : Memory.wf m = true) : Memory.wf (Mem.clear m lo hi) = true :=
  Memory.wf_filter m _ h

/-- The memory after reset is in canonical form. -/
theorem Memory.wf_reset : Memory.wf State.reset.mem = true := rfl

/-- A byte written reads back. -/
theorem Mem.byte_setByte_same (m : List Host.Cell) (k : Nat) (b : Byte) (h : Memory.wf m = true) : Mem.byte (Mem.setByte m k b) k = b :=
  kvGet_set_same m none k b h

/-- Every other byte reads as before. -/
theorem Mem.byte_setByte_other (m : List Host.Cell) (k j : Nat) (b : Byte) (h : Memory.wf m = true) (hj : j ≠ k) :
    Mem.byte (Mem.setByte m k b) j = Mem.byte m j := kvGet_set_other m none k j b h hj

/-- A byte outside those written reads as before. -/
theorem Mem.byte_write_other : ∀ (bs : List Byte) (m : List Host.Cell) (k j : Nat), Memory.wf m = true → (j < k ∨ k + bs.length ≤ j) →
    Mem.byte (Mem.write m k bs) j = Mem.byte m j
  | [], _, _, _, _, _ => rfl
  | b :: bs, m, k, j, h, hj => by
    simp only [List.length_cons] at hj
    rw [Mem.write, Mem.byte_write_other bs _ (k + 1) j (Memory.wf_setByte m k b h) (by omega),
      Mem.byte_setByte_other m k j b h (by omega)]

/-- The bytes written read back. -/
theorem Mem.byte_write_at : ∀ (bs : List Byte) (m : List Host.Cell) (k i : Nat), Memory.wf m = true → i < bs.length →
    Mem.byte (Mem.write m k bs) (k + i) = bs.getD i 0
  | [], _, _, _, _, inside => by simp at inside
  | b :: bs, m, k, 0, h, _ => by
    rw [Mem.write, Mem.byte_write_other bs _ (k + 1) (k + 0) (Memory.wf_setByte m k b h) (by omega)]
    simpa using Mem.byte_setByte_same m k b h
  | b :: bs, m, k, i + 1, h, inside => by
    have := Mem.byte_write_at bs (Mem.setByte m k b) (k + 1) i (Memory.wf_setByte m k b h) (by simpa using inside)
    rw [Mem.write, show k + (i + 1) = k + 1 + i by omega, this]
    simp

/-! The canonical form of a state. -/

/-- Reset has the canonical form. -/
theorem State.reset_canonical : State.reset.Canonical := ⟨rfl, rfl⟩

end Sys2Proof.Machine
end

