-- ==== Sys2Proof/Laws/Meaning.lean ====
section
/-! SUPPORT. The monad of meanings, and what each shared operation on registers and boundaries does when its conditions hold. -/

namespace Sys2Proof.Machine

/-! The monad: an equation for each of its operations at a state. -/

@[simp] theorem M.pure_at {α : Type} (a : α) (s : State) : (pure a : M α) s = .ok (a, s) := rfl

section Sequence

variable {γ δ : Type} {first : M γ} {rest : γ → M δ} {s u : State}

/-- A sequence is its first part, then what follows that part's answer in the state it leaves. -/
theorem M.bind_at : (first >>= rest) s = (first s).bind fun done => rest done.1 done.2 := by
  rcases h : first s with _ | ⟨got, w⟩ <;> simp [bind, StateT.bind, h, Except.bind]

theorem M.bind_ok {got : γ} (done : first s = .ok (got, u)) : (first >>= rest) s = rest got u := by
  simp only [M.bind_at, done, Except.bind]

theorem M.bind_error {stop : Stop} (stopped : first s = .error stop) : (first >>= rest) s = .error stop := by
  simp only [M.bind_at, stopped, Except.bind]

end Sequence

@[simp] theorem M.get_bind {β : Type} (f : State → M β) (s : State) : ((get : M State) >>= f) s = f s s := rfl
@[simp] theorem M.set_at (t s : State) : (set t : M PUnit) s = .ok (⟨⟩, t) := rfl
@[simp] theorem M.set_bind {β : Type} (t : State) (f : PUnit → M β) (s : State) : ((set t : M PUnit) >>= f) s = f ⟨⟩ t := rfl
@[simp] theorem M.modify_at (g : State → State) (s : State) : (modify g : M PUnit) s = .ok (⟨⟩, g s) := rfl
@[simp] theorem M.modify_bind {β : Type} (g : State → State) (f : PUnit → M β) (s : State) :
    ((modify g : M PUnit) >>= f) s = f ⟨⟩ (g s) := rfl
@[simp] theorem M.pure_bind_at {α β : Type} (a : α) (f : α → M β) (s : State) : ((pure a : M α) >>= f) s = f a s := rfl
@[simp] theorem M.throw_at {α : Type} (e : Stop) (s : State) : (throw e : M α) s = .error e := rfl
@[simp] theorem M.throw_bind {α β : Type} (e : Stop) (f : α → M β) (s : State) : ((throw e : M α) >>= f) s = .error e := rfl

@[simp] theorem modCtx_at (g : Ctx → Ctx) (s : State) : modCtx g s = .ok (⟨⟩, { s with c := g s.c }) := rfl
@[simp] theorem modCtx_bind {β : Type} (g : Ctx → Ctx) (f : Unit → M β) (s : State) :
    (modCtx g >>= f) s = f () { s with c := g s.c } := rfl
@[simp] theorem addJob_at (j : Job) (s : State) : addJob j s = .ok (⟨⟩, { s with c := { s.c with jobs := s.c.jobs ++ [j] } }) := rfl

@[simp] theorem raise_at {α : Type} (c : Byte) (v : Word) (s : State) : (raise c v : M α) s = .error (.trap c v 0) := rfl
@[simp] theorem raiseIf_false (c : Byte) (v : Word) : raiseIf false c v = pure () := rfl
@[simp] theorem raiseIf_true (c : Byte) (v : Word) : raiseIf true c v = raise c v := rfl
@[simp] theorem waitIf_false : waitIf false = pure () := rfl
@[simp] theorem waitIf_true : waitIf true = wait := rfl
@[simp] theorem wait_at {α : Type} (s : State) : (wait : M α) s = .error (.wait none .other) := rfl
@[simp] theorem waitAbsent_false : waitAbsent false = pure () := rfl
@[simp] theorem waitAbsent_true_at (s : State) : waitAbsent true s = .error (.wait none .absent) := rfl

/-! Registers (R22 to R24). -/

theorem readReg_ok {s : State} {r : RegId} {v : Word} (h : s.c.Reads r v) : readReg r s = .ok (v, s) := by
  unfold readReg
  rw [M.get_bind]
  simp only [h.1, h.2, Bool.not_true, Bool.false_eq_true, if_false, M.pure_at]

theorem writeReg_ok {s : State} {r : RegId} (v : Word) (h : s.c.Takes r) : writeReg r v s = .ok ((), s.withReg r v) := by
  unfold writeReg
  rw [M.get_bind]
  unfold Ctx.Takes at h
  simp only [h, Bool.not_true, Bool.false_eq_true, if_false]
  rfl

theorem readAcc_ok {s : State} {v : Word} (h : s.c.Reads .acc v) : readAcc s = .ok (v, s) := readReg_ok h
theorem readP_ok {s : State} {n : R3} {v : Word} (h : s.c.Reads (.p n) v) : readP n s = .ok (v, s) := readReg_ok h
theorem readK_ok {s : State} {n : R3} {v : Word} (h : s.c.Reads (.k n) v) : readK n s = .ok (v, s) := readReg_ok h
theorem writeAcc_ok {s : State} (v : Word) (h : s.c.Takes .acc) : writeAcc v s = .ok ((), s.withReg .acc v) := writeReg_ok v h
theorem writeP_ok {s : State} {n : R3} (v : Word) (h : s.c.Takes (.p n)) : writeP n v s = .ok ((), s.withReg (.p n) v) := writeReg_ok v h
theorem writeK_ok {s : State} {n : R3} (v : Word) (h : s.c.Takes (.k n)) : writeK n v s = .ok ((), s.withReg (.k n) v) := writeReg_ok v h

/-- A register that reads takes a write. -/
theorem Ctx.Reads.takes {c : Ctx} {r : RegId} {v : Word} (h : c.Reads r v) : c.Takes r := h.1

theorem emptyAcc_ok {s : State} (h : s.c.Takes .acc) : emptyAcc s = .ok ((), { s with c := { s.c with acc := { s.c.acc with full := false } } }) := by
  unfold emptyAcc
  rw [M.get_bind]
  have h' : s.c.acc.full = true := h
  simp only [h', Bool.not_true, Bool.false_eq_true, if_false]
  rfl

/-- What a read of a register does: the value, or a trap or a wait at the boundary, with no effect. -/
theorem readReg_cases (r : RegId) (s : State) :
    (∃ v, readReg r s = .ok (v, s) ∧ s.c.Reads r v) ∨ (∃ e, readReg r s = .error e) := by
  unfold readReg
  rw [M.get_bind]
  by_cases hf : (s.c.reg r).full = true
  · simp only [hf, Bool.not_true, Bool.false_eq_true, if_false]
    cases ht : s.c.tagged (s.c.reg r) with
    | none => exact Or.inr ⟨_, rfl⟩
    | some v => exact Or.inl ⟨v, rfl, hf, ht⟩
  · simp only [hf, Bool.not_false, if_true]
    by_cases hp : s.c.fepol.getLsbD r.index = true
    · simp only [hp, if_true]; exact Or.inr ⟨_, rfl⟩
    · simp only [hp]; exact Or.inr ⟨_, rfl⟩

/-! Flags (R114). -/

theorem writeFlags_ok {s : State} {g : FlagSet} (h : s.c.Settled g.mask) :
    writeFlags g s = .ok ((), s.withFlags (s.c.flags.apply g)) := by
  unfold writeFlags
  rw [M.get_bind, h, waitIf_false]
  rfl

@[simp] theorem State.withFlags_c (s : State) (f : Flags) : (s.withFlags f).c = { s.c with flags := f } := rfl
@[simp] theorem State.withReg_c (s : State) (r : RegId) (v : Word) : (s.withReg r v).c = s.c.setReg r ⟨v, true, s.c.gen⟩ := rfl
@[simp] theorem State.withReg_mem (s : State) (r : RegId) (v : Word) : (s.withReg r v).mem = s.mem := rfl
@[simp] theorem State.withReg_grans (s : State) (r : RegId) (v : Word) : (s.withReg r v).grans = s.grans := rfl
@[simp] theorem State.withFlags_mem (s : State) (f : Flags) : (s.withFlags f).mem = s.mem := rfl
@[simp] theorem State.withFlags_grans (s : State) (f : Flags) : (s.withFlags f).grans = s.grans := rfl

/-- A result with a value: flags, then ACC. -/
theorem writeResult_some {s : State} {v : Word} {g : FlagSet} (h : s.c.Settled g.mask) (ha : s.c.Takes .acc) :
    writeResult (some v, g) s = .ok ((), (s.withFlags (s.c.flags.apply g)).withReg .acc v) := by
  unfold writeResult
  rw [M.bind_ok (writeFlags_ok h)]
  exact writeAcc_ok v ha

/-- A result that is only flags. -/
theorem writeResult_none {s : State} {g : FlagSet} (h : s.c.Settled g.mask) :
    writeResult (none, g) s = .ok ((), s.withFlags (s.c.flags.apply g)) := by
  unfold writeResult
  rw [M.bind_ok (writeFlags_ok h)]
  rfl

/-! Boundaries (R57, R310, R315, R375). -/

theorem once_ok {len : Nat} {body : M Unit} {s t : State} (h : body s = .ok ((), t)) : once len body s = .next (retire len t) := by
  unfold once; rw [h]

theorem once_error {len : Nat} {body : M Unit} {s : State} {e : Stop} (h : body s = .error e) :
    once len body s = .next (settle false e s) := by
  unfold once; rw [h]

/-- An execution that completes, with or without REP. -/
theorem repeated_ok {g : Bool} {p : Pre} {body : Nat → M Unit} {s t : State} (hl : repLeft p s)
    (h : body (repIndex p s) s = .ok ((), t)) : repeated g p body s = .next (afterRep g p s t) := by
  unfold repeated afterRep
  unfold repIndex at h
  cases hr : p.rep with
  | none =>
    simp only [hr, Option.isSome_none, Bool.false_eq_true, if_false] at h
    simp only [Option.any_none, Bool.false_eq_true, if_false]
    exact once_ok h
  | some r =>
    have hc : ¬ widenU r.count r.run ≤ s.c.repi := Nat.not_le.mpr (hl r hr)
    simp only [hr, Option.isSome_some, if_true] at h
    simp only [hc, if_false, h, Option.any_some, decide_eq_true_eq]
    split <;> rfl

/-- REP with no repetition left: the instruction retires with no effect (R57). -/
theorem repeated_done {g : Bool} {p : Pre} {body : Nat → M Unit} {s : State} {r : Rep} (hr : p.rep = some r)
    (h : widenU r.count r.run ≤ s.c.repi) : repeated g p body s = .next (retire (p.len g) s) := by
  unfold repeated
  simp only [hr, h, if_true]

/-- Every meaning built on `once` answers a next state. -/
theorem once_next (len : Nat) (body : M Unit) (s : State) : ∃ t, once len body s = .next t := by
  unfold once
  cases body s with
  | error e => exact ⟨_, rfl⟩
  | ok r => exact ⟨_, rfl⟩

/-- Every meaning built on `repeated` answers a next state. -/
theorem repeated_next (g : Bool) (p : Pre) (body : Nat → M Unit) (s : State) : ∃ t, repeated g p body s = .next t := by
  unfold repeated
  cases p.rep with
  | none => exact once_next _ _ _
  | some r =>
    simp only []
    split
    · exact ⟨_, rfl⟩
    · cases body s.c.repi s with
      | error e => exact ⟨_, rfl⟩
      | ok q => simp only []; split <;> exact ⟨_, rfl⟩

/-- Every meaning built on `control` answers a next state. -/
theorem control_next (len : Nat) (body : M (Option Word)) (s : State) : ∃ t, control len body s = .next t := by
  unfold control
  rcases body s with e | ⟨_ | t, s'⟩ <;> exact ⟨_, rfl⟩

/-! What completing and trapping leave alone. -/

/-- No wait of R200 is being ended. -/
theorem State.rejoin_calm {s : State} (h : s.c.stalled = false) : s.rejoin = s := by
  simp [State.rejoin, State.rejoined, h]

@[simp] theorem State.rejoin_mem (s : State) : s.rejoin.mem = s.mem := rfl
@[simp] theorem State.rejoin_grans (s : State) : s.rejoin.grans = s.grans := rfl

@[simp] theorem retire_mem (n : Nat) (s : State) : (retire n s).mem = s.mem := State.rejoin_mem s
@[simp] theorem retire_grans (n : Nat) (s : State) : (retire n s).grans = s.grans := State.rejoin_grans s
@[simp] theorem stall_mem (w : Option Waiter) (k : WaitKind) (s : State) : (stall w k s).mem = s.mem := rfl
@[simp] theorem stall_grans (w : Option Waiter) (k : WaitKind) (s : State) : (stall w k s).grans = s.grans := rfl

theorem State.trace_mem (s : State) (ty : Nat) (t : Option Nat) (c : Option (BitVec 8)) (n : Nat) (w p : Word) :
    (s.trace ty t c n w p).mem = s.mem := by
  unfold State.trace; repeat' split
  all_goals rfl
theorem State.trace_grans (s : State) (ty : Nat) (t : Option Nat) (c : Option (BitVec 8)) (n : Nat) (w p : Word) :
    (s.trace ty t c n w p).grans = s.grans := by
  unfold State.trace; repeat' split
  all_goals rfl

@[simp] theorem takeTrap_mem (i : Bool) (c b : Byte) (v p : Word) (r : Bool) (s : State) : (takeTrap i c b v p r s).mem = s.mem := by
  unfold takeTrap State.traceCtx
  exact (State.trace_mem _ _ _ _ _ _ _).trans (State.rejoin_mem s)
@[simp] theorem takeTrap_grans (i : Bool) (c b : Byte) (v p : Word) (r : Bool) (s : State) :
    (takeTrap i c b v p r s).grans = s.grans := by
  unfold takeTrap State.traceCtx
  exact (State.trace_grans _ _ _ _ _ _ _).trans (State.rejoin_grans s)

end Sys2Proof.Machine
end

