-- ==== Sys2Proof/Laws/Operands.lean ====
section
/-! SUPPORT. What reading an operand may do: it steps a pointer, notes a translation and empties a granule, and leaves the rest of
the moving context alone. -/

namespace Sys2Proof.Machine

/-- A sequence that completes has completed its first part, and the rest after that. -/
theorem M.bind_eq_ok {γ δ : Type} {first : M γ} {rest : γ → M δ} {s : State} {last : δ × State} (whole : (first >>= rest) s = .ok last) :
    ∃ half, first s = .ok half ∧ rest half.1 half.2 = .ok last := by
  rw [M.bind_at] at whole
  rcases done : first s with _ | half
  · rw [done] at whole; cases whole
  · rw [done] at whole; exact ⟨half, rfl, whole⟩

theorem raiseIf_eq_ok {b : Bool} {c : Byte} {v : Word} {s t : State} {u : Unit} (h : raiseIf b c v s = .ok (u, t)) : b = false ∧ t = s := by
  cases b
  · exact ⟨rfl, by cases h; rfl⟩
  · cases h

theorem waitIf_eq_ok {b : Bool} {s t : State} {u : Unit} (h : waitIf b s = .ok (u, t)) : b = false ∧ t = s := by
  cases b
  · exact ⟨rfl, by cases h; rfl⟩
  · cases h

theorem waitAbsent_eq_ok {b : Bool} {s t : State} {u : Unit} (h : waitAbsent b s = .ok (u, t)) : b = false ∧ t = s := by
  cases b
  · exact ⟨rfl, by cases h; rfl⟩
  · cases h

/-- A read of a register that gives a value changes nothing. -/
theorem readReg_eq_ok {r : RegId} {s t : State} {v : Word} (h : readReg r s = .ok (v, t)) : s.c.Reads r v ∧ t = s := by
  rcases readReg_cases r s with ⟨w, hw, hr⟩ | ⟨e, he⟩
  · rw [hw] at h
    cases h
    exact ⟨hr, rfl⟩
  · rw [he] at h; cases h

/-- A write of a register that completes has written it. -/
theorem writeReg_eq_ok {r : RegId} {v : Word} {s t : State} {u : Unit} (h : writeReg r v s = .ok (u, t)) :
    s.c.Takes r ∧ t = s.withReg r v := by
  unfold writeReg at h
  rw [M.get_bind] at h
  by_cases hf : (s.c.reg r).full = true
  · simp only [hf, Bool.not_true, Bool.false_eq_true, if_false] at h
    cases h
    exact ⟨hf, rfl⟩
  · simp only [hf, Bool.not_false, if_true] at h
    cases h

/-- Apart from its pointers, the moving context is as it was. -/
def SameButP (s t : State) : Prop := ∃ ps, t.c = { s.c with p := ps }

theorem SameButP.refl (s : State) : SameButP s s := ⟨s.c.p, rfl⟩
theorem SameButP.of_eq {s t : State} (h : t.c = s.c) : SameButP s t := ⟨s.c.p, by rw [h]⟩
theorem SameButP.trans {s t u : State} (h : SameButP s t) (k : SameButP t u) : SameButP s u := by
  obtain ⟨p, hp⟩ := h
  obtain ⟨q, hq⟩ := k
  exact ⟨q, by rw [hq, hp]⟩

theorem State.noteRes_c (s : State) (i : Issuer) (r : Res) : (s.noteRes i r).c = s.c := by
  unfold State.noteRes; split <;> rfl

theorem access_eq_ok {i : Issuer} {va : Word} {a : Acc} {s t : State} {r : Res} (h : access i va a s = .ok (r, t)) :
    s.resolve i va.toNat a = .ok r ∧ t = s.noteRes i r := by
  unfold access at h
  rw [M.get_bind] at h
  cases hr : s.resolve i va.toNat a with
  | error e => rw [hr] at h; cases e <;> cases h
  | ok q =>
    rw [hr] at h
    cases h
    exact ⟨rfl, rfl⟩

theorem access_c {i : Issuer} {va : Word} {a : Acc} {s t : State} {r : Res} (h : access i va a s = .ok (r, t)) : t.c = s.c := by
  rw [(access_eq_ok h).2, State.noteRes_c]

theorem atHome_eq_ok {r : Res} {n : Nat} {w : Bool} {s t : State} {u : Unit} (h : atHome r n w s = .ok (u, t)) : t = s := by
  unfold atHome at h
  rw [M.get_bind] at h
  exact (waitIf_eq_ok h).2

theorem readTraps_eq_ok {i : Issuer} {r : Res} {va : Word} {n : Nat} {s t : State} {u : Unit} (h : readTraps i r va n s = .ok (u, t)) :
    s.readFault i r va.toNat n = none ∧ t = s := by
  unfold readTraps at h
  rw [M.get_bind] at h
  cases hf : s.readFault i r va.toNat n with
  | some c => rw [hf] at h; cases h
  | none => rw [hf] at h; cases h; exact ⟨rfl, rfl⟩

/-- A plain load finds its place and changes only the TLBs. -/
theorem loadAt_eq_ok {i : Issuer} {va : Word} {n : Nat} {s t : State} {r : Res} (h : loadAt i va n s = .ok (r, t)) :
    s.resolve i va.toNat .read = .ok r ∧ t = s.noteRes i r := by
  unfold loadAt at h
  obtain ⟨⟨r', u⟩, h1, h2⟩ := M.bind_eq_ok h
  obtain ⟨⟨_, u2⟩, h3, h4⟩ := M.bind_eq_ok h2
  obtain ⟨⟨_, u3⟩, h5, h6⟩ := M.bind_eq_ok h4
  rw [atHome_eq_ok h3] at h5
  rw [(readTraps_eq_ok h5).2] at h6
  cases h6
  exact access_eq_ok h1

theorem State.trigger_c_own (s : State) (g : Nat) : (s.trigger g (some s.c.uid)).c = s.c := by
  simp [State.trigger]

theorem State.trigger_uid (s : State) (g : Nat) (o : Option Nat) : (s.trigger g o).c.uid = s.c.uid := by
  simp only [State.trigger, State.mapCtx_c]; split <;> rfl

theorem State.retag_c (s : State) (g : Nat) (v : Gen) : (s.retag g v).c = s.c := by
  unfold State.retag; split <;> rfl

/-- A granule's bit changed by the moving context leaves the context alone. -/
theorem State.setFull_c_own (s : State) (g : Nat) (v : Gen) (b : Bool) : (s.setFull g v (some s.c.uid) b).c = s.c := by
  unfold State.setFull
  simp only [State.setGran_c]
  split
  · exact State.retag_c s g v
  · have h := State.retag_c s g v
    have e := State.trigger_c_own (s.retag g v) g
    rw [h] at e
    exact e

theorem baseAddr_eq_ok {n : R3} {s t : State} {v : Word} (h : baseAddr n s = .ok (v, t)) : t = s := by
  unfold baseAddr at h
  obtain ⟨⟨_, u⟩, h1, h2⟩ := M.bind_eq_ok h
  rw [(readReg_eq_ok h1).2, M.get_bind] at h2
  cases h2
  rfl

theorem scalarType_eq_ok {n : R3} {s t : State} {ty : ETy} (h : scalarType n s = .ok (ty, t)) :
    ETy.ofCode (s.c.desc n).ty.toNat = some ty ∧ ty.scalarOk = true ∧ t = s := by
  unfold scalarType at h
  rw [M.get_bind] at h
  cases ht : ETy.ofCode (s.c.desc n).ty.toNat with
  | none => rw [ht] at h; cases h
  | some x =>
    rw [ht] at h
    by_cases hx : x.scalarOk = true
    · simp only [hx, if_true] at h
      cases h
      exact ⟨rfl, hx, rfl⟩
    · simp only [hx] at h
      cases h

/-- An operand found: the pointer reads, its type is scalar, its address is aligned; nothing is changed (R19). -/
theorem opnd_eq_ok {n : R3} {x : Nat} {s t : State} {o : Opnd} (h : opnd n x s = .ok (o, t)) :
    o.n = n ∧ s.c.Reads (.p n) o.v ∧ ETy.ofCode (s.c.desc n).ty.toNat = some o.ty ∧ o.ty.scalarOk = true ∧
      o.ea = ringAdd (s.c.desc n) o.v (x * o.ty.bytes) ∧ o.ea.toNat % o.ty.bytes = 0 ∧ t = s := by
  unfold opnd at h
  obtain ⟨⟨v, u⟩, h1, h2⟩ := M.bind_eq_ok h
  obtain ⟨hr, rfl⟩ := readReg_eq_ok h1
  obtain ⟨⟨ty, u2⟩, h3, h4⟩ := M.bind_eq_ok h2
  obtain ⟨ht, hs, rfl⟩ := scalarType_eq_ok h3
  rw [M.get_bind] at h4
  obtain ⟨⟨_, u3⟩, h5, h6⟩ := M.bind_eq_ok h4
  obtain ⟨ha, rfl⟩ := raiseIf_eq_ok h5
  cases h6
  exact ⟨rfl, hr, ht, hs, rfl, by simpa using ha, rfl⟩

theorem stepPtr_same {o : Opnd} {f : StepForm} {s t : State} {u : Unit} (h : stepPtr o f s = .ok (u, t)) : SameButP s t := by
  unfold stepPtr at h
  rw [M.get_bind] at h
  split at h
  · cases h; exact SameButP.refl s
  · obtain ⟨_, rfl⟩ := writeReg_eq_ok h
    exact ⟨_, rfl⟩

theorem readElem_c {i : Issuer} {o : Opnd} {s t : State} {v : SrcVal} (h : readElem i o s = .ok (v, t)) : t.c = s.c := by
  unfold readElem at h
  obtain ⟨⟨r, u⟩, h1, h2⟩ := M.bind_eq_ok h
  have hc : u.c = s.c := by rw [(loadAt_eq_ok h1).2, State.noteRes_c]
  rw [M.get_bind] at h2
  split at h2 <;> (cases h2; exact hc)

theorem drainOwn_eq_ok {s t : State} {u : Unit} (h : drainOwn s = .ok (u, t)) : t = s.drain s.c.uid := by
  unfold drainOwn at h
  rw [M.get_bind] at h
  obtain ⟨⟨_, u1⟩, h1, h2⟩ := M.bind_eq_ok h
  rw [(waitIf_eq_ok h1).2] at h2
  cases h2
  rfl

theorem releaseOwn_eq_ok {s t : State} {u : Unit} (h : releaseOwn s = .ok (u, t)) : t = s.drain s.c.uid := by
  unfold releaseOwn at h
  rw [M.get_bind] at h
  obtain ⟨⟨_, u1⟩, h1, h2⟩ := M.bind_eq_ok h
  rw [(waitIf_eq_ok h1).2] at h2
  exact drainOwn_eq_ok h2

/-- A granule that is not reported, or full, changes nothing. -/
theorem reportGranule_eq_ok {g : Nat} {s t : State} {u : Unit} (h : reportGranule g s = .ok (u, t)) : t = s := by
  unfold reportGranule at h
  rw [M.get_bind] at h
  split at h
  · cases h; rfl
  · cases hr : s.c.reportOf g with
    | some rep => rw [hr] at h; cases h
    | none =>
      cases hb : s.c.barrierOf g with
      | some b => rw [hr, hb] at h; cases h
      | none => rw [hr, hb] at h; cases h; rfl

theorem capCheck_eq_ok {i : Issuer} {va : Word} {s t : State} {u : Unit} (h : capCheck i va s = .ok (u, t)) : t = s := by
  unfold capCheck at h
  rw [M.get_bind] at h
  cases hc : s.capFail i va.toNat with
  | none => rw [hc] at h; cases h; rfl
  | some x => rw [hc] at h; cases x <;> cases h

/-- A synchronising access that goes on has found its place and changed only the TLBs. -/
theorem syncWait_c {i : Issuer} {va : Word} {n : Nat} {full : Bool} {s t : State} {r : Res} (h : syncWait i va n full s = .ok (r, t)) :
    t.c = s.c := by
  unfold syncWait at h
  obtain ⟨⟨r', u⟩, h1, h2⟩ := M.bind_eq_ok h
  have hu : u.c = s.c := access_c h1
  rw [M.get_bind] at h2
  obtain ⟨⟨_, u1⟩, h3, h4⟩ := M.bind_eq_ok h2
  rw [(raiseIf_eq_ok h3).2] at h4
  have key : ∀ {x : Res} {w : State}, ((waitIf (u.acquires u.c || u.unitHazard u.c r'.key n || u.pendingAt u.c r'.key)) >>= fun _ => (reportGranule (r'.key / 32) >>= fun _ =>
        (if ((u.gran (r'.key / 32)).full || u.poisoned r') = full && u.myTurn (r'.key / 32) (!full) && !u.busy (r'.key / 32) (!full) then pure r'
        else throw (.wait (some { uid := u.c.uid, key := r'.key / 32, store := !full }) .absent) : M Res))) u = .ok (x, w) → w.c = s.c := by
    intro x w hk
    obtain ⟨⟨_, u2⟩, h5, h6⟩ := M.bind_eq_ok hk
    rw [(waitIf_eq_ok h5).2] at h6
    obtain ⟨⟨_, u3⟩, h7, h8⟩ := M.bind_eq_ok h6
    rw [reportGranule_eq_ok h7] at h8
    split at h8
    · cases h8; exact hu
    · cases h8
  cases full with
  | true => exact key h4
  | false =>
    obtain ⟨⟨_, u2⟩, h5, h6⟩ := M.bind_eq_ok h4
    rw [capCheck_eq_ok h5] at h6
    exact key h6

theorem mixCheck_eq_ok {i : Issuer} {r : Res} {va : Word} {n : Nat} {s t : State} {u : Unit} (h : mixCheck i r va n s = .ok (u, t)) :
    t = s := by
  unfold mixCheck at h
  rw [M.get_bind] at h
  exact (raiseIf_eq_ok h).2

/-- A synchronising load leaves the context alone. -/
theorem syncLoad_c {i : Issuer} {va : Word} {n : Nat} {s t : State} {b : Res × List Byte} (hi : i.uid = s.c.uid)
    (h : syncLoad i va n s = .ok (b, t)) : t.c = s.c := by
  unfold syncLoad at h
  obtain ⟨⟨r, u⟩, h1, h2⟩ := M.bind_eq_ok h
  have hu := syncWait_c h1
  rw [M.get_bind] at h2
  obtain ⟨⟨_, u1⟩, h3, h4⟩ := M.bind_eq_ok h2
  rw [(raiseIf_eq_ok h3).2] at h4
  obtain ⟨⟨_, u2⟩, h5, h6⟩ := M.bind_eq_ok h4
  rw [mixCheck_eq_ok h5] at h6
  obtain ⟨⟨_, u3⟩, h7, h8⟩ := M.bind_eq_ok h6
  rw [(raiseIf_eq_ok h7).2] at h8
  cases h8
  show ((u.setFull (r.key / 32) (u.tagFor i r) (some i.uid) false).noteStrong r.key n).c = s.c
  rw [hi, ← hu]
  exact State.setFull_c_own u _ _ _

theorem Ctx.issuer_uid (c : Ctx) (x : R3) : (c.issuer x).uid = c.uid := rfl

/-- Reading a source operand changes nothing of the moving context but its pointers (R111). -/
theorem source_same {p : Pre} {i : Nat} {src : Src9} {s t : State} {v : SrcVal} (h : source p i src s = .ok (v, t)) : SameButP s t := by
  cases src with
  | mem m =>
    simp only [source] at h
    unfold memSrc at h
    rw [M.get_bind] at h
    obtain ⟨⟨o, u⟩, h1, h2⟩ := M.bind_eq_ok h
    obtain rfl := (opnd_eq_ok h1).2.2.2.2.2.2
    have plain : ∀ f : StepForm, (readElem (u.c.issuer (u.c.scopeOf p)) o >>= fun v => stepPtr o f >>= fun _ => pure v) u = .ok (v, t) →
        SameButP u t := by
      intro f hf
      obtain ⟨⟨w, u1⟩, h3, h4⟩ := M.bind_eq_ok hf
      obtain ⟨⟨_, u2⟩, h5, h6⟩ := M.bind_eq_ok h4
      cases h6
      exact (SameButP.of_eq (readElem_c h3)).trans (stepPtr_same h5)
    cases hm : m.form with
    | plain => rw [hm] at h2; exact plain .plain h2
    | up => rw [hm] at h2; exact plain .up h2
    | down => rw [hm] at h2; exact plain .down h2
    | sync =>
      rw [hm] at h2
      obtain ⟨⟨b, u1⟩, h3, h4⟩ := M.bind_eq_ok h2
      cases h4
      exact SameButP.of_eq (syncLoad_c (Ctx.issuer_uid u.c _) h3)
  | ptr n =>
    simp only [source] at h
    rw [M.get_bind] at h
    obtain ⟨⟨w, u⟩, h1, h2⟩ := M.bind_eq_ok h
    obtain ⟨_, rfl⟩ := readReg_eq_ok h1
    cases h2
    exact SameButP.refl _
  | mask n =>
    simp only [source] at h
    obtain ⟨⟨w, u⟩, h1, h2⟩ := M.bind_eq_ok h
    obtain ⟨_, rfl⟩ := readReg_eq_ok h1
    cases h2
    exact SameButP.refl _
  | imm f => simp only [source] at h; cases h; exact SameButP.refl _
  | acc =>
    simp only [source] at h
    obtain ⟨⟨w, u⟩, h1, h2⟩ := M.bind_eq_ok h
    obtain ⟨_, rfl⟩ := readReg_eq_ok h1
    cases h2
    exact SameButP.refl _
  | cyc =>
    simp only [source] at h
    rw [M.get_bind] at h
    cases h
    exact SameButP.refl _

end Sys2Proof.Machine
end

