-- ==== Sys2Proof/Tests/Slice0.lean ====
section
/-! SUPPORT. Tests: words of the spec's encodings, ill-formed terms, the spec's worked values, and for every statement a state and operands that
meet its hypotheses. -/

namespace Sys2Proof.Tests

open Sys2Proof Sys2Proof.Machine

set_option Elab.async false
set_option linter.all false

/-- A computation gives a value. -/
def okVal {ε α : Type} [DecidableEq α] (run : Except ε α) (v : α) : Bool := run.toOption.any fun got => decide (got = v)

/-- What okVal says. -/
theorem okVal_eq {ε α : Type} [DecidableEq α] {run : Except ε α} {v : α} (good : okVal run v = true) : run = .ok v := by
  obtain _ | got := run
  · exact nomatch good
  · exact congrArg Except.ok (of_decide_eq_true good)

/-- A computation gives some value. -/
def isOk {ε α : Type} (run : Except ε α) : Bool := run.toOption.isSome

/-- What isOk says. -/
theorem isOk_eq {ε α : Type} {run : Except ε α} (good : isOk run = true) : ∃ got, run = .ok got := by
  obtain _ | got := run
  · exact nomatch good
  · exact ⟨got, rfl⟩

/-- Without REP a repetition is left. -/
theorem rep_none {p : Pre} {s : State} (h : p.rep = none) : repLeft p s := by
  intro r hr
  rw [h] at hr
  cases hr

/-- With no job under way every job is as it should be. -/
theorem no_jobs {s : State} {p : Job → Prop} (h : s.c.jobs = []) : ∀ j ∈ s.c.jobs, p j := by
  intro j hj
  rw [h] at hj
  cases hj

/-- What a test of a whole list says. -/
theorem none_of {α : Type} {them : List α} {due : α → Bool} (h : (them.all fun w => !due w) = true) : ∀ w ∈ them, due w = false := by simpa using h

/-- The reset state with the dispatch context changed. -/
def onReset (f : Ctx → Ctx) : State := { State.reset with c := f State.reset.c }

/-- The task and the launch of onTile0. -/
def task0 : Task := { num := 3, launch := 2, rank := 0, tile := ⟨false, 0, 0⟩, gen := 1 }
/-- Its launch. -/
def launch0 : Launch := { num := 2, lrec := { sup := true, lr := true }, tenant := 0, ranks := [{ tile := ⟨false, 0, 0⟩ }] }

/-- A task bound to reason tile 0 of district 0, its issuing strand moving: what State.onTile makes of the reset state. -/
def tileZero : State :=
  let sc : Ctx := { uid := 4, kind := .task, place := .tile ⟨false, 0, 0⟩ false, launch := 2, task := 3, lr := true, prv := .s, quantum := 4096
                    mgeo0 := 0x10101, nrank := 1 }
  { State.reset with
    c := { sc with uid := 5, place := .tile ⟨false, 0, 0⟩ true }, others := [{ uid := 1, place := .dispatch true, halted := true }, sc, {}], next := 6
    tasks := [task0], launches := [launch0], tiles := { powered := true, genLast := 1, everOut := [1], genLive := [1, 0] } :: List.replicate 63 {}
    districts := { vtime := (Vector.replicate 16 0).set 0 512 } :: List.replicate 7 {} }

/-- It is what State.onTile makes. -/
theorem test_tileZero : State.reset.onTile = tileZero := by decide +kernel

/-- A task on reason tile 0 of district 0, its issuing strand moving, changed. -/
def onTile0 (f : Ctx → Ctx) : State :=
  { tileZero with c := f tileZero.c }

/-- A register of the context set. -/
def reg (r : RegId) (v : Word) (c : Ctx) : Ctx := c.setReg r ⟨v, true, c.gen⟩

/-- The dispatch context with ACC and P0. -/
def two (a p0 : Word) : State := onReset fun c => reg (.p 0) p0 (reg .acc a c)

/-- A task whose core has another context, in a role. -/
def withOther (role : Role) : State :=
  let s := onTile0 id
  { s with others := s.others ++ [{ s.c with uid := 77, role := role }] }

/-- The other context of withOther. -/
def otherCtx (role : Role) : Ctx := { (onTile0 id).c with uid := 77, role := role }

/-- The state with an instruction's words where the next step fetches. -/
def withInstr (i : Instr) (s : State) : State := s.placeBytes s.c.pc.toNat (wordBytes (encode i))

/-- An outcome that is a next state of which p holds. -/
def nextIf (p : State → Bool) (o : Host.Outcome State Fault Refusal) : Bool :=
  match o with
  | .next u => p u
  | _ => false

/-- What nextIf says. -/
theorem nextIf_eq {p : State → Bool} {o : Host.Outcome State Fault Refusal} (h : nextIf p o = true) : ∃ u, o = .next u ∧ p u = true := by
  cases o with
  | next u => exact ⟨u, rfl, h⟩
  | fault f => cases h
  | refused r => cases h

/-- The instruction at PC would go on. -/
def goesOn (i : Instr) (s : State) : Bool := s.c.stalled && decide (s.fetch.1 = .instr i) && nextIf (fun u => !u.c.stalled) (exec i s)

/-- What goesOn says. -/
theorem goesOn_eq {i : Instr} {s : State} (h : goesOn i s = true) :
    s.c.stalled = true ∧ s.fetch.1 = .instr i ∧ ∃ u, exec i s = .next u ∧ u.c.stalled = false := by
  simp only [goesOn, Bool.and_eq_true, decide_eq_true_eq] at h
  obtain ⟨u, hu, hs⟩ := nextIf_eq h.2
  exact ⟨h.1.1, h.1.2, u, hu, by simpa using hs⟩

/-- A vector entry that is performed. -/
theorem vdone_of {o : Option VDone} (h : (o.any fun d => d.stop.isNone) = true) : ∃ w ff acc, o = some { s := w, ff := ff, acc := acc } := by
  obtain _ | ⟨w, ff, acc, _ | _⟩ := o
  · cases h
  · exact ⟨w, ff, acc, rfl⟩
  · cases h

/-- A vector entry that stops. -/
theorem vstop_of {o : Option VDone} (h : (o.any fun d => d.stop.isSome) = true) :
    ∃ w ff acc ord c va, o = some { s := w, ff := ff, acc := acc, stop := some (ord, c, va) } := by
  obtain _ | ⟨w, ff, acc, _ | ⟨ord, c, va⟩⟩ := o
  · cases h
  · cases h
  · exact ⟨w, ff, acc, ord, c, va, rfl⟩

/-- A matrix entry that is performed. -/
theorem mdone_of {o : Option MDone} (h : (o.any fun d => d.stop.isNone) = true) : ∃ w ff n, o = some { s := w, ff := ff, n := n } := by
  obtain _ | ⟨w, ff, n, _ | _⟩ := o
  · cases h
  · exact ⟨w, ff, n, rfl⟩
  · cases h

/-- A matrix entry that stops. -/
theorem mstop_of {o : Option MDone} (h : (o.any fun d => d.stop.isSome) = true) :
    ∃ w ff n x, o = some { s := w, ff := ff, n := n, stop := some x } := by
  obtain _ | ⟨w, ff, n, _ | x⟩ := o
  · cases h
  · cases h
  · exact ⟨w, ff, n, x, rfl⟩

/-- The 64 bytes of a record of one dimension. -/
def rec1 (base code n : Nat) : List Byte :=
  leBytes 8 base ++ [BitVec.ofNat 8 code, 1, 0, 0, 0, 0, 0, 0] ++ leBytes 4 n ++ List.replicate 12 0 ++ leBytes 4 1 ++ List.replicate 28 0

/-- The record as it is read. -/
def shape1 (base : Nat) (ty : ETy) (code n : Nat) : Shape := { base := w64 base, ty := ty, tycode := code, dims := [n], strs := [1] }

/-- The task with records of one dimension at 0x400, 0x440 and 0x480, named by P0, P1 and P2; their elements at 0x1000, 0x1100 and 0x1200. -/
def unitTask (code n : Nat) : State :=
  let s := onTile0 fun c => reg (.p 2) 0x480 (reg (.p 1) 0x440 (reg (.p 0) 0x400 c))
  s.putAll (s.c.issuer 0) (tileKey ⟨false, 0, 0⟩ 0x400) (rec1 0x1000 code n ++ rec1 0x1100 code n ++ rec1 0x1200 code n) 7

/-- The dispatch context with jobs. -/
def withJobs (l : List Job) : State := onReset fun c => { c with jobs := l }

/-- What isOk says of a computation that gives none. -/
theorem isError_eq {ε α : Type} {run : Except ε α} (good : isOk run = false) : ∃ stop, run = .error stop := by
  obtain stop | _ := run
  · exact ⟨stop, rfl⟩
  · exact nomatch good


/-! Witnesses: scalar results. -/

/-- AddSubResult: the largest number plus 1, from a pointer. -/
theorem test_wit_addSub : ReadsBoth {} (.ptr 0) ⟨true, true, true, true⟩ (two 0x7FFFFFFFFFFFFFFF 1) (two 0x7FFFFFFFFFFFFFFF 1)
    0x7FFFFFFFFFFFFFFF 1 := by
  (repeat' apply And.intro) <;> first
    | decide +kernel | exact okVal_eq (by decide +kernel) | exact rep_none rfl | exact no_jobs (by decide +kernel) | rfl

/-- LogicResult, under REP at its last repetition. -/
theorem test_wit_logic : let s := onReset fun c => { reg (.p 3) 5 (reg .acc 3 c) with repi := 3 }
    ReadsBoth { rep := some ⟨[], 4, 1⟩ } (.ptr 0) ⟨true, true, false, false⟩ s s 3 5 := by
  refine ⟨fun r h => ?_, ⟨by decide +kernel, by decide +kernel⟩, okVal_eq (by decide +kernel), rfl⟩
  cases h
  decide +kernel

/-- ShiftResult, MulDivResult (a product that overflows), SelectResult. -/
theorem test_wit_shift : ReadsBoth {} .acc ⟨true, true, true, false⟩ (two 63 0) (two 63 0) 63 63 ∧
    ReadsBoth {} (.imm 0) ⟨true, true, true, true⟩ (two allOnes 0) (two allOnes 0) allOnes 0 ∧
    ReadsBoth {} (.mask 0) ⟨true, true, false, false⟩ (two 7 0) (two 7 0) 7 0 ∧
    (repLeft {} (two 7 0) ∧ (two 7 0).c.Takes .acc ∧ source {} (repIndex {} (two 7 0)) .cyc (two 7 0) = .ok (.now 0, two 7 0)) := by
  (repeat' apply And.intro) <;> first
    | decide +kernel | exact okVal_eq (by decide +kernel) | exact rep_none rfl | exact no_jobs (by decide +kernel) | rfl

/-- MulDivResult's clauses for DIV: by 0, the corner, and a divisor that is neither, at the least dividend. -/
theorem test_wit_div :
    ReadsBoth {} (.imm 0) ⟨true, true, false, true⟩ (two 9 0) (two 9 0) 9 0 ∧
    (ReadsBoth {} (.imm 63) ⟨true, true, false, true⟩ (two 0x8000000000000000 0) (two 0x8000000000000000 0) 0x8000000000000000 allOnes ∧
      (0x8000000000000000 : Word).toInt = -2 ^ 63 ∧ allOnes.toInt = -1) ∧
    (ReadsBoth {} (.imm 1) ⟨true, true, false, true⟩ (two 0x8000000000000000 0) (two 0x8000000000000000 0) 0x8000000000000000 1 ∧
      (1 : Word) ≠ 0 ∧ ¬ ((0x8000000000000000 : Word).toInt = -2 ^ 63 ∧ (1 : Word).toInt = -1)) := by
  (repeat' apply And.intro) <;> first
    | decide +kernel | exact okVal_eq (by decide +kernel) | exact rep_none rfl | exact no_jobs (by decide +kernel) | rfl

/-- MacResult: a second operand in the dispatch core's memory; a synchronising first operand with the second at the next pointer, which steps by
8. -/
theorem test_wit_mac :
    (let p : Pre := { x := some ⟨0, 0, 1⟩ }
     let s := onReset fun c => reg (.p 1) 0x100 (reg .acc 9 c)
     repLeft p s ∧ s.c.Reads .acc 9 ∧ s.c.Settled ⟨true, true, true, true⟩ ∧ p.x.isSome = true ∧
      source p (repIndex p s) .acc s = .ok (.now 9, s) ∧ ElementAt s (1 + s.c.stagger + 0) 0 .i64 0x100 0x100 ∧
      PlainPlace s s (s.c.issuer (s.c.scopeOf p)) 0x100 8 false { key := dispKey false 0x100 }) ∧
    (let s := onTile0 fun c => { reg (.p 1) 0x200 (reg (.p 0) 0x100 (reg .acc 9 c)) with pd := c.pd.set 1 { step := 8 } }
     let q : R3 := 0 + s.c.stagger + 0 + 1 + 0
     s.c.Reads .acc 9 ∧ AddressOf {} s 0 ⟨.sync, 0, 0⟩ .i64 0x100 0x100 ∧ ElementAt s q 0 .i64 0x200 0x200 ∧
      PlainPlace s s (s.c.issuer (s.c.scopeOf {})) 0x200 8 false { key := tileKey ⟨false, 0, 0⟩ 0x200, gran := true } ∧
      SyncPlace (stepped ⟨.up, q, 0⟩ q (s.c.desc q) 0x200 s) (stepped ⟨.up, q, 0⟩ q (s.c.desc q) 0x200 s) (s.c.issuer (s.c.scopeOf {})) 0x100 8 true
        { key := tileKey ⟨false, 0, 0⟩ 0x100, gran := true }) := by
  (repeat' first | apply And.intro | apply ElementAt.mk | apply PlainPlace.mk | apply SyncPlace.mk) <;> first
    | decide +kernel | exact okVal_eq (by decide +kernel) | exact rep_none rfl | exact no_jobs (by decide +kernel) | rfl

/-- The dispatch context with P0 at a DRAM address, accesses being slow. -/
def slowDram : State := { two 7 0x4000_0000_0000 with slow := true }

/-- LateSource, for ADD and for LD. -/
theorem test_wit_late :
    ((AluOp.add, Instr.add) ∈ layoutS ∧ repLeft {} slowDram ∧ slowDram.c.Reads .acc 7 ∧
      source {} 0 (.mem ⟨.plain, 0, 1⟩) slowDram = .ok (.later ⟨0x4000_0000_0008, .i64⟩, slowDram) ∧ slowDram.c.Settled AluOp.add.flagMask) ∧
    (slowDram.c.Takes .acc ∧ slowDram.c.Settled AluOp.ld.flagMask) := by
  (repeat' apply And.intro) <;> first
    | decide +kernel | exact okVal_eq (by decide +kernel) | exact rep_none rfl | exact no_jobs (by decide +kernel) | rfl | simp [layoutS]

/-- A task whose P0 names a full granule of another rank's tile, accesses being slow. -/
def slowRank : State :=
  let s := onTile0 fun c => { reg (.p 0) 0x1000_0020_0100 (reg .acc 7 c) with nrank := 2 }
  { s with slow := true, launches := [{ launch0 with ranks := [{ tile := ⟨false, 0, 0⟩ }, { tile := ⟨false, 0, 1⟩ }] }] }

/-- LateSource: a synchronising load whose value is on its way. -/
theorem test_wit_lateSync : (AluOp.add, Instr.add) ∈ layoutS ∧ repLeft {} slowRank ∧ slowRank.c.Reads .acc 7 ∧ slowRank.c.Settled AluOp.add.flagMask ∧
    ((source {} 0 (.mem ⟨.sync, 0, 0⟩) slowRank).toOption.map fun x => x.1) = some (.sent 0) := by
  (repeat' apply And.intro) <;> first | decide +kernel | exact rep_none rfl | rfl | simp [layoutS]

/-- UnaryFormsResult, at the least number and at 0. -/
theorem test_wit_unary : (repLeft {} (two 0x8000000000000000 0) ∧ (two 0x8000000000000000 0).c.Reads .acc 0x8000000000000000 ∧
      (two 0x8000000000000000 0).c.Settled ⟨true, true, true, true⟩) ∧
    (repLeft {} (two 0 0) ∧ (two 0 0).c.Reads .acc 0 ∧ (two 0 0).c.Settled ⟨true, true, false, false⟩) := by
  (repeat' apply And.intro) <;> first
    | decide +kernel | exact okVal_eq (by decide +kernel) | exact rep_none rfl | exact no_jobs (by decide +kernel) | rfl

/-- ImmediateResult. -/
theorem test_wit_immediate : repLeft {} (two 7 0) ∧ (two 7 0).c.Takes .acc ∧ (two 7 0).c.Reads .acc 7 ∧
    (two 7 0).c.Settled ⟨true, true, true, true⟩ := by
  (repeat' apply And.intro) <;> first
    | decide +kernel | exact okVal_eq (by decide +kernel) | exact rep_none rfl | exact no_jobs (by decide +kernel) | rfl

/-! Witnesses: source operands, stores, pointers, masks. -/

/-- SourceForms: every form's register reads, with and without REP. -/
theorem test_wit_forms : let s := two 3 4
    s.c.Reads (.p (0 + s.c.stagger + BitVec.ofNat 3 0)) 4 ∧ s.c.Reads (.k 0) 0 ∧ s.c.Reads .acc 3 ∧ ({} : Pre).rep = none ∧
    ({ rep := some ⟨[], 2, 4⟩ } : Pre).rep ≠ none := by
  (repeat' apply And.intro) <;> first
    | decide +kernel | exact okVal_eq (by decide +kernel) | exact rep_none rfl | exact no_jobs (by decide +kernel) | rfl

/-- SourceForms: ACC and P2 empty under FEPOL, both under another generation with GENPOL.TRAP, and a count of 0. -/
theorem test_wit_registerTraps :
    (let s := onReset fun c => { c with acc := { c.acc with full := false }, fepol := 0x1FFFF }
     repLeft {} s ∧ EmptyTraps s.c .acc ∧ (AluOp.add, Instr.add) ∈ layoutS) ∧
    (let s := onReset fun c => { c with acc := ⟨5, true, 9⟩, p := c.p.set 2 ⟨5, true, 9⟩, gentrap := true }
     ForeignTraps s.c .acc ∧ ForeignTraps s.c (.p (s.c.field {} 0 (repIndex {} s) 2))) ∧
    (let s := onReset fun c => { reg .acc 3 c with p := c.p.set 2 { c.p[2] with full := false }, fepol := 0x1FFFF }
     s.c.Reads .acc 3 ∧ EmptyTraps s.c (.p (s.c.field {} 0 (repIndex {} s) 2))) ∧
    (({ rep := some ⟨[], 0, 0⟩ } : Pre).rep = some ⟨[], 0, 0⟩ ∧ widenU (0 : BitVec 6) [] = 0) := by
  (repeat' apply And.intro) <;> first
    | decide +kernel | exact rep_none rfl | rfl | simp [layoutS]

/-- A task with ACC, P0 and a translation of the first page of its tenant's window. -/
def mapped (arr : Bool) (p0 : Word) (pte : Nat) : State :=
  let s := onTile0 fun c => { reg (.p 0) p0 (reg .acc 3 c) with place := .tile ⟨arr, 0, 0⟩ true }
  let s := s.setTenant 0 { s.tenant 0 with ptbase := 1 }
  s.setTile ⟨arr, 0, 0⟩ { s.tile ⟨arr, 0, 0⟩ with tlb := [(0, 0, 1, pte)] }

/-- SourceForms: the traps of memory sources, clause by clause. -/
theorem test_wit_memoryTraps :
    (let ty (n : BitVec 6) (v : Word) : State := onReset fun c => { reg (.p 0) v (reg .acc 3 c) with pd := c.pd.set 0 { ty := n } }
     (ty 0x11 0x100).c.Reads (.p ((ty 0x11 0x100).c.field {} 0 0 0)) 0x100 ∧ ETy.ofCode 0x11 = none ∧
      (ty 0x10 0x100).c.Reads (.p ((ty 0x10 0x100).c.field {} 0 0 0)) 0x100 ∧ ETy.ofCode 0x10 = some .f36 ∧ ETy.scalarOk .f36 = false ∧
      ETy.ofCode 6 = some .i64 ∧ (ringAddress ((ty 6 0x101).c.desc 0) 0x101 0).toNat % ETy.bytes .i64 ≠ 0) ∧
    (let at_ (a : Word) : Prop := (mapped false a 0).c.place = .tile ⟨false, 0, 0⟩ true ∧ (mapped false a 0).c.Reads .acc 3 ∧
       AddressOf {} (mapped false a 0) 0 ⟨.up, 0, 0⟩ .i64 a a
     (at_ 0x14_0000 ∧ localSize ((mapped false 0x14_0000 0).c.issuer ((mapped false 0x14_0000 0).c.scopeOf {})) ≤ (0x14_0000 : Word).toNat) ∧
      at_ 0x1020_0000_0000 ∧ at_ 0x8000_0000_0000 ∧ at_ 0x4000_0000_1000 ∧ (mapped false 0x4000_0000_1000 0).translate ⟨false, 0, 0⟩ 0 1 = none ∧
      at_ 0x4000_0000_0000 ∧ (mapped false 0 1).translate ⟨false, 0, 0⟩ (mapped false 0 1).c.tenant 0 = some (0, 0, 1, 1) ∧
      (1 : Nat).testBit 3 = false) ∧
    (AddressOf {} (mapped true 0x4000_0000_0000 9) 0 ⟨.sync, 0, 0⟩ .i64 0x4000_0000_0000 0x4000_0000_0000 ∧
      (mapped true 0 9).translate ⟨true, 0, 0⟩ (mapped true 0 9).c.tenant 0 = some (0, 0, 1, 9)) ∧
    (let s := two 3 0x4000_0000_0000
     s.resolve (s.c.issuer (s.c.scopeOf {})) 0x4000_0000_0000 .read = .ok { key := 0, far := true, dram := true } ∧
      AddressOf {} s 0 ⟨.sync, 0, 0⟩ .i64 0x4000_0000_0000 0x4000_0000_0000) ∧
    (let s := (two 3 0x100).setGran (dispKey false 0x100 / 32) { poison := true }
     let r : Res := { key := dispKey false 0x100 }
     let t := s.noteRes (s.c.issuer (s.c.scopeOf {})) r
     AddressOf {} s 0 ⟨.plain, 0, 0⟩ .i64 0x100 0x100 ∧ s.resolve (s.c.issuer (s.c.scopeOf {})) 0x100 .read = .ok r ∧
      (t.acquires t.c || t.unitHazard t.c r.key 8 || t.pendingAt t.c r.key || t.busy (r.key / 32) false) = false ∧
      t.readFault (s.c.issuer (s.c.scopeOf {})) r 0x100 8 = some 0x13) := by
  (repeat' first | apply And.intro | apply ElementAt.mk | apply PlainPlace.mk | apply SyncPlace.mk) <;> first
    | decide +kernel | exact okVal_eq (by decide +kernel) | exact rep_none rfl | exact no_jobs (by decide +kernel) | rfl

/-- PlainSource, with the pointer's step under a ring of 32 bytes, at the last element. -/
theorem test_wit_plain : let s := onReset fun c => { reg (.p 0) 0x118 c with pd := c.pd.set 0 { base := 0x100, span := 32, step := 8 } }
    let r : Res := { key := dispKey false 0x118 }
    (⟨.up, 0, 0⟩ : MemOpd).form ≠ .sync ∧ AddressOf {} s 0 ⟨.up, 0, 0⟩ .i64 0x118 0x118 ∧
    PlainPlace s s (s.c.issuer (s.c.scopeOf {})) 0x118 8 false r := by
  (repeat' first | apply And.intro | apply ElementAt.mk | apply PlainPlace.mk) <;> first
    | decide +kernel | exact okVal_eq (by decide +kernel) | exact rep_none rfl | exact no_jobs (by decide +kernel) | rfl

/-- PlainSource's rule of reads: a byte of an own pending store, of one that a later store hides, a stored byte in sight, one of a generation not
seen, and one that the pool has and one that it has not. -/
theorem test_wit_readRule :
    (let s := onReset fun c => { c with jobs := [.store 0 [1, 2], .store 1 [3]] }
     let i := s.c.issuer 2
     let r : Res := { key := 0, far := true, dram := true }
     i.uid = s.c.uid ∧ s.redirects i 0 = none ∧ s.c.jobs = [] ++ .store 0 [1, 2] :: [.store 1 [3]] ∧ r.key + 0 < 0 + [(1 : Byte), 2].length ∧
      (∀ p bs, Job.store p bs ∈ [Job.store 1 [3]] → ¬ (p ≤ 0 ∧ 0 < p + bs.length)) ∧ (∀ p bs, Job.store p bs ∈ s.c.jobs → ¬ (p ≤ 9 ∧ 9 < p + bs.length))) ∧
    (let s := onTile0 id
     (s.c.issuer 2).gen = 1 ∧ (({ s with grans := [] } : State).gran 0).tag ≠ 1 ∧
      (s.redirects (s.c.issuer 2) 0x100).bind (fun w => (s.win w.1).look w.2 0x100) = none) ∧
    (let w : EscWin := { entries := [⟨3, 8, 40, [(0, 7)]⟩, ⟨5, 8, 40, [(0, 9), (1, 4)]⟩] }
     (⟨3, 8, 40, [(0, 7)]⟩ : EscEntry) ∈ w.entries ∧ (8 : Nat) = 256 / 32 ∧ 3 ≤ 4 ∧ w.look 4 256 = some 7 ∧ w.look 5 256 = some 9 ∧ w.look 4 257 = none) := by
  (repeat' apply And.intro) <;> first
    | decide +kernel
    | (intro p bs h; simp only [List.mem_cons, Job.store.injEq, List.not_mem_nil, or_false, false_or] at h; obtain ⟨rfl, rfl⟩ := h; decide)
    | (intro p bs h; have e : (onReset fun c => { c with jobs := [.store 0 [1, 2], .store 1 [3]] }).c.jobs = [.store 0 [1, 2], .store 1 [3]] := rfl
       rw [e] at h; simp only [List.mem_cons, Job.store.injEq, List.not_mem_nil, or_false] at h; rcases h with ⟨rfl, rfl⟩ | ⟨rfl, rfl⟩ <;> decide)

/-- SyncSource: a full granule of the task's tile. -/
theorem test_wit_sync : let s := onTile0 fun c => reg (.p 0) 0x100 c
    let r : Res := { key := tileKey ⟨false, 0, 0⟩ 0x100, gran := true }
    AddressOf {} s 0 ⟨.sync, 0, 0⟩ .i64 0x100 0x100 ∧ SyncPlace s s (s.c.issuer (s.c.scopeOf {})) 0x100 8 true r ∧ s.Canonical := by
  (repeat' first | apply And.intro | apply ElementAt.mk | apply SyncPlace.mk) <;> first
    | decide +kernel | exact okVal_eq (by decide +kernel) | exact rep_none rfl | exact no_jobs (by decide +kernel) | rfl

/-- StoreResult: to the top word of the dispatch core's memory. -/
theorem test_wit_store : let s := two 7 0x7FFF8
    let r : Res := { key := dispKey false 0x7FFF8 }
    (⟨.plain, 0, 0⟩ : MemOpd).form ≠ .sync ∧ repLeft {} s ∧ s.c.Reads .acc 7 ∧ AddressOf {} s (repIndex {} s) ⟨.plain, 0, 0⟩ .i64 0x7FFF8 0x7FFF8 ∧
    PlainPlace s s (s.c.issuer (s.c.scopeOf {})) 0x7FFF8 8 true r := by
  (repeat' first | apply And.intro | apply ElementAt.mk | apply PlainPlace.mk) <;> first
    | decide +kernel | exact okVal_eq (by decide +kernel) | exact rep_none rfl | exact no_jobs (by decide +kernel) | rfl

/-- The task with P0 at an empty granule of its tile. -/
def emptyAt : State := (onTile0 fun c => reg (.p 0) 0x100 (reg .acc 7 c)).setGran (tileKey ⟨false, 0, 0⟩ 0x100 / 32) { full := false }

/-- SyncStoreResult. -/
theorem test_wit_syncStore : let r : Res := { key := tileKey ⟨false, 0, 0⟩ 0x100, gran := true }
    repLeft {} emptyAt ∧ emptyAt.c.Reads .acc 7 ∧ AddressOf {} emptyAt (repIndex {} emptyAt) ⟨.sync, 0, 0⟩ .i64 0x100 0x100 ∧
    SyncPlace emptyAt emptyAt (emptyAt.c.issuer (emptyAt.c.scopeOf {})) 0x100 8 false r ∧ Released emptyAt ∧ emptyAt.Canonical := by
  (repeat' first | apply And.intro | apply ElementAt.mk | apply SyncPlace.mk) <;> first
    | decide +kernel | exact okVal_eq (by decide +kernel) | exact rep_none rfl | exact no_jobs (by decide +kernel) | rfl

/-- StoreFrame: a store that ends at its granule's end. -/
theorem test_wit_frame : State.reset.Canonical ∧ ({ key := tileKey ⟨true, 1, 7⟩ 24, gran := true } : Res).dead = false ∧ leBytes 8 1 ≠ [] ∧
    ({ key := tileKey ⟨true, 1, 7⟩ 24, gran := true } : Res).key % 32 + (leBytes 8 1).length ≤ 32 := by
  (repeat' apply And.intro) <;> first
    | decide +kernel | exact okVal_eq (by decide +kernel) | exact rep_none rfl | exact no_jobs (by decide +kernel) | rfl

/-- PointerResult, MaskInstructions: the registers that each form reads and writes. -/
theorem test_wit_pointer : let s := two 3 4
    repLeft {} s ∧ s.c.Reads .acc 3 ∧ s.c.Takes (.p (s.c.field {} 0 (repIndex {} s) 0)) ∧ s.c.Reads (.p (s.c.field {} 0 (repIndex {} s) 0)) 4 ∧
    s.c.Reads (.k 0) 0 ∧ s.c.Reads (.k 1) 0 ∧ s.c.Takes (.k 0) ∧ s.c.Takes .acc ∧ s.c.Settled ⟨false, true, true, false⟩ ∧
    s.c.Settled ⟨false, true, false, false⟩ := by
  (repeat' apply And.intro) <;> first
    | decide +kernel | exact okVal_eq (by decide +kernel) | exact rep_none rfl | exact no_jobs (by decide +kernel) | rfl

/-! Witnesses: transfers of control, traps. -/

/-- BranchResult: JR's target, an odd one, and a condition that waits for no flag. -/
theorem test_wit_branch : (two 0x40 0).c.Reads .acc 0x40 ∧ (0x40 : Word).getLsbD 0 = false ∧ (two 0x41 0).c.Reads .acc 0x41 ∧ (0x41 : Word).getLsbD 0 = true ∧ (two 0x40 0).c.Settled (condFlags 10) := by
  (repeat' apply And.intro) <;> first
    | decide +kernel | exact okVal_eq (by decide +kernel) | exact rep_none rfl | exact no_jobs (by decide +kernel) | rfl

/-- CallReturn: the slot below P7, and the slot that RET reads. -/
theorem test_wit_call : let s := onReset fun c => reg (.p 7) 0x108 (reg .acc 0x40 c)
    s.c.Reads (.p 7) 0x108 ∧ ((ringAddress (s.c.desc 7) 0x108 (-8)).toNat % 8 = 0 ∧
      PlainPlace s s (s.c.issuer s.c.defscope) (ringAddress (s.c.desc 7) 0x108 (-8)) 8 true { key := dispKey false 0x100 } ∧
      (s.slow && ({ key := dispKey false 0x100 } : Res).dram) = false ∧ s.c.Reads .acc 0x40 ∧ (0x40 : Word).getLsbD 0 = false) ∧
    ((ringAddress (s.c.desc 7) 0x108 0).toNat % 8 = 0 ∧
      PlainPlace s s (s.c.issuer s.c.defscope) (ringAddress (s.c.desc 7) 0x108 0) 8 false { key := dispKey false 0x108 } ∧
      (w64 (leNat (s.readBytes (s.c.issuer s.c.defscope) { key := dispKey false 0x108 } 0x108 8))).getLsbD 0 = false) := by
  (repeat' first | apply And.intro | apply PlainPlace.mk) <;> first
    | decide +kernel | exact okVal_eq (by decide +kernel) | exact rep_none rfl | exact no_jobs (by decide +kernel) | rfl

/-- CallReturn: a misaligned slot, an odd target, and an odd address in the slot. -/
theorem test_wit_callTraps : let s := onReset fun c => reg (.p 7) 0x109 (reg .acc 0x40 c)
    let o := { onReset fun c => reg (.p 7) 0x108 (reg .acc 0x41 c) with mem := Mem.write [] (dispKey false 0x108) [0x41] }
    (s.c.Reads (.p 7) 0x109 ∧ (ringAddress (s.c.desc 7) 0x109 (-8)).toNat % 8 ≠ 0 ∧ (ringAddress (s.c.desc 7) 0x109 0).toNat % 8 ≠ 0 ∧
      s.c.Reads .acc 0x40 ∧ (0x40 : Word).getLsbD 0 = false) ∧
    (o.c.Reads .acc 0x41 ∧ (0x41 : Word).getLsbD 0 = true ∧ o.c.Reads (.p 7) 0x108 ∧ (ringAddress (o.c.desc 7) 0x108 0).toNat % 8 = 0 ∧
      PlainPlace o o (o.c.issuer o.c.defscope) (ringAddress (o.c.desc 7) 0x108 0) 8 false { key := dispKey false 0x108 } ∧
      (w64 (leNat (o.readBytes (o.c.issuer o.c.defscope) { key := dispKey false 0x108 } 0x108 8))).getLsbD 0 = true) := by
  (repeat' first | apply And.intro | apply ElementAt.mk | apply PlainPlace.mk | apply SyncPlace.mk) <;> first
    | decide +kernel | exact okVal_eq (by decide +kernel) | exact rep_none rfl | exact no_jobs (by decide +kernel) | rfl

/-- A body of one NOP after a LOOP at 0. -/
def loopAt (n : Word) : State := { onReset (reg .acc n) with mem := Mem.write [] (dispKey false 2) [0, 2] }

/-- LoopResult's hypotheses with the count and inside a level. -/
def LoopFits (s : State) (l : BitVec 6) (a : Word) : Prop :=
  s.c.Reads .acc a ∧ s.c.stalled = false ∧
    bodyWhole false (s.fetchWords (s.c.issuer s.c.defscope) (s.c.pc + 2) (l.toNat + 1)).1 = true ∧ s.c.loops.length < 2 ∧
    ∀ o ∈ s.c.loops, o.start.toNat ≤ (s.c.pc + 2).toNat ∧ (s.c.pc + 2 + w64 (2 * (l.toNat + 1))).toNat ≤ o.stop.toNat

/-- LoopResult: a count of 0, the largest count, and a level around the body that ends with it. -/
theorem test_wit_loop : LoopFits (loopAt 0x100000000) 0 0x100000000 ∧ (0x100000000 : Word).toNat % 2 ^ 32 = 0 ∧
    LoopFits { loopAt 0xFFFFFFFF with c := { (loopAt 0xFFFFFFFF).c with loops := [⟨2, 4, 1, 0, 0⟩] } } 0 0xFFFFFFFF ∧
    (0xFFFFFFFF : Word).toNat % 2 ^ 32 ≠ 0 := by
  (repeat' apply And.intro) <;> first
    | decide +kernel | exact okVal_eq (by decide +kernel) | exact rep_none rfl | exact no_jobs (by decide +kernel) | rfl

/-- LoopResult's end test: the three cases of a level. -/
theorem test_wit_loopEnd : (⟨2, 4, 2, 0, 0⟩ : LoopLevel).stop ≠ 6 ∧ ((⟨2, 4, 2, 0, 0⟩ : LoopLevel).stop = 4 ∧ 1 < (⟨2, 4, 2, 0, 0⟩ : LoopLevel).left) ∧
    ((⟨2, 4, 1, 0, 0⟩ : LoopLevel).stop = 4 ∧ (⟨2, 4, 1, 0, 0⟩ : LoopLevel).left ≤ 1) := by
  (repeat' apply And.intro) <;> first
    | decide +kernel | exact okVal_eq (by decide +kernel) | exact rep_none rfl | exact no_jobs (by decide +kernel) | rfl

/-- TrapEntryState and TrapInstructions hold in every state; TrapEntryState at a state that does not wait. EretResult. -/
theorem test_wit_trap : State.reset.c.stalled = false ∧ State.reset.c.pend.some' = false ∧
    bit State.reset.c.trap.stat 62 = false ∧ bit State.reset.c.trap.stat 61 = false := by
  (repeat' apply And.intro) <;> first
    | decide +kernel | exact okVal_eq (by decide +kernel) | exact rep_none rfl | exact no_jobs (by decide +kernel) | rfl

/-- EretResult: from S to U. -/
theorem test_wit_eretS : let s := onTile0 fun c => { c with trap := { stat := 0 } }
    s.c.pend.some' = false ∧ s.c.prv = .s ∧ Priv.ofCode (bits s.c.trap.stat 9 8) = .u := by
  (repeat' apply And.intro) <;> first
    | decide +kernel | exact okVal_eq (by decide +kernel) | exact rep_none rfl | exact no_jobs (by decide +kernel) | rfl

/-- The dispatch context in a handler that returns to 0x40, where two words stand. -/
def returning (stat : Nat) (words : List Byte) : State :=
  { onReset fun c => { c with inHandler := true, trap := { pc := 0x40, stat := w64 stat } } with mem := Mem.write [] (dispKey false 0x40) words }

/-- The words that ERET finds at TPC. -/
def returnWords (s : State) : List Half :=
  (s.fetchWords { s.c.issuer s.c.defscope with prv := Priv.ofCode (bits s.c.trap.stat 9 8), pc := s.c.trap.pc } s.c.trap.pc 6).1

/-- EretResult: REPV with a REP instruction at TPC, and with a NOP. -/
theorem test_wit_eretRepv : let s := returning (2 ^ 62 + 5 * 2 ^ 16 + 3 * 2 ^ 8) [0x08, 0xFC]
    let n := returning (2 ^ 62 + 5 * 2 ^ 16 + 3 * 2 ^ 8) [0, 2]
    s.c.pend.some' = false ∧ bit s.c.trap.stat 62 = true ∧ RepFirst (returnWords s) ∧ bits s.c.trap.stat 57 16 = 5 ∧ ¬ RepFirst (returnWords n) := by
  have e : returnWords (returning (2 ^ 62 + 5 * 2 ^ 16 + 3 * 2 ^ 8) [0x08, 0xFC]) = [0xFC08, 0, 0, 0, 0, 0] := by decide +kernel
  have f : returnWords (returning (2 ^ 62 + 5 * 2 ^ 16 + 3 * 2 ^ 8) [0, 2]) = [0x200, 0, 0, 0, 0, 0] := by decide +kernel
  refine ⟨by decide +kernel, by decide +kernel, e ▸ .rep _ _ (by decide), by decide +kernel, f ▸ fun h => ?_⟩
  cases h <;> simp_all [opc]

/-- EretResult: WRES with BARW at TPC and phase 1, and with a NOP. -/
theorem test_wit_eretWres : let s := returning (2 ^ 61 + 2 ^ 60 + 3 * 2 ^ 8) [0, 0x8C]
    s.c.pend.some' = false ∧ bit s.c.trap.stat 61 = true ∧ bit s.c.trap.stat 60 = true ∧ (returnWords s).head? = some 0x8C00 ∧
    (returnWords (returning (2 ^ 61 + 3 * 2 ^ 8) [0, 2])).head? ≠ some 0x8C00 := by decide +kernel

/-- BoundaryEntries: a stop to be reported, an enabled pending interrupt of the highest line, WFI with and without one. -/
theorem test_wit_boundary :
    (let s := onReset fun c => { c with reports := [{ unit := .atomic, sub := 6, addr := 0, pc := 0 }] }
     s.c.canTrap = true ∧ s.c.inMwait = false ∧ s.c.inWfi = false ∧ s.c.candidate.isSome = true) ∧
    (let s := onReset fun c => { c with gie := true, ien := 0x11, ipend := 0x11 }
     s.c.canTrap = true ∧ s.c.inMwait = false ∧ s.c.inWfi = false ∧ s.c.candidate = none ∧ s.c.gie = true ∧
      4 < 5 ∧ s.c.ien.getLsbD 4 = true ∧ s.c.ipend.getLsbD 4 = true ∧ s.c.ien &&& s.c.ipend ≠ 0) ∧
    State.reset.c.ien &&& State.reset.c.ipend = 0 := by
  (repeat' apply And.intro) <;> first
    | decide +kernel | exact okVal_eq (by decide +kernel) | exact rep_none rfl | exact no_jobs (by decide +kernel) | rfl

/-- BoundaryEntries: the candidates one by one: BUDGET in a handler, the older of two reports, a vote's BARRIER, LINKLOST, FPX, CHECK. -/
theorem test_wit_candidates :
    (let s := onReset fun c => { c with budgetDue := true, inHandler := true }
     s.c.canTrap = true ∧ s.c.inMwait = false ∧ s.c.budgetDue = true) ∧
    (let x : Report := { unit := .atomic, sub := 6, addr := 0, pc := 0, time := 9 }
     let y : Report := { unit := .vector, sub := 6, addr := 8, pc := 0, time := 3 }
     let s := onReset fun c => { c with reports := [x, y] }
     s.c.canTrap = true ∧ s.c.inHandler = false ∧ s.c.budgetDue = false ∧ FirstReport y [x, y] ∧
      s.c.reports.filter (fun r => match r.unit with
        | .copy _ | .coll _ => false
        | _ => true) = [x, y]) ∧
    (let s := onReset fun c => { c with barReps := [{ obj := 4, ch := some 1 }, { obj := 5 }], linkLost := none }
     s.c.canTrap = true ∧ (s.c.barReps.filter fun b => b.ch.isNone).head? = some { obj := 5 }) ∧
    (let s := onReset fun c => { c with linkLost := some (3, 4) }
     s.c.canTrap = true ∧ s.c.linkLost = some (3, 4) ∧ (s.c.barReps.filter fun b => b.ch.isNone) = []) ∧
    (let s := onReset fun c => { c with fpx := [7, 8] }
     s.c.canTrap = true ∧ s.c.linkLost = none ∧ s.c.fpx = 7 :: [8]) ∧
    (let s := onReset fun c => { c with check := [(.vector, 9)] }
     s.c.canTrap = true ∧ s.c.fpx = [] ∧ s.c.check = (.vector, 9) :: []) := by
  (repeat' apply And.intro) <;> first
    | decide +kernel | rfl
    | exact ⟨[{ unit := .atomic, sub := 6, addr := 0, pc := 0, time := 9 }], [], rfl, by decide, by simp⟩

/-- PrivilegedTrap: at U, and at S. -/
theorem test_wit_priv : (onReset fun c => { c with prv := .u }).c.prv = .u ∧ (onReset fun c => { c with prv := .s }).c.prv ≠ .m := by
  (repeat' apply And.intro) <;> first
    | decide +kernel | exact okVal_eq (by decide +kernel) | exact rep_none rfl | exact no_jobs (by decide +kernel) | rfl

/-! Witnesses: waiting, barriers, votes, semaphores. -/

/-- WaitAndMonitor: the places of WAITF, WAITE and MONITOR, at the first granule. -/
theorem test_wit_wait : let s := two 5 0
    s.c.Reads (.p (0 + s.c.stagger)) 0 ∧ (ringAddress (s.c.desc (0 + s.c.stagger)) 0 0).toNat < 0x4000_0000_0000 ∧
    s.resolve (s.c.issuer s.c.defscope) (ringAddress (s.c.desc (0 + s.c.stagger)) 0 0).toNat .read = .ok { key := dispKey false 0 } ∧
    s = s.noteRes (s.c.issuer s.c.defscope) { key := dispKey false 0 } ∧
    s.resolve (s.c.issuer (s.c.scopeOf {})) (ringAddress (s.c.desc (0 + s.c.stagger)) 0 0).toNat .read = .ok { key := dispKey false 0 } := by
  (repeat' apply And.intro) <;> first
    | decide +kernel | exact okVal_eq (by decide +kernel) | exact rep_none rfl | exact no_jobs (by decide +kernel) | rfl

/-- WaitAndMonitor: MWAIT's four ends. -/
theorem test_wit_mwait : let m (hit lost : Bool) (limit : Word) := onReset fun c =>
      { reg .acc limit c with monitor := some 4, monHit := hit, monLost := lost }
    ((m true false 9).c.Reads .acc 9 ∧ (m true false 9).c.monHit = true) ∧
    ((m false true 9).c.Reads .acc 9 ∧ (m false true 9).c.monHit = false ∧ ((m false true 9).c.monitor = none ∨ (m false true 9).c.monLost = true)) ∧
    ((m false false 0).c.Reads .acc 0 ∧ (m false false 0).c.monHit = false ∧
      ¬ ((m false false 0).c.monitor = none ∨ (m false false 0).c.monLost = true) ∧
      (0 : Word).toNat ≤ (m false false 0).cyc - (m false false 0).c.waitFrom.getD (m false false 0).cyc) ∧
    ((m false false 1).c.Reads .acc 1 ∧ ¬ ((1 : Word).toNat ≤ (m false false 1).cyc - (m false false 1).c.waitFrom.getD (m false false 1).cyc)) := by
  (repeat' apply And.intro) <;> first
    | decide +kernel | exact okVal_eq (by decide +kernel) | exact rep_none rfl | exact no_jobs (by decide +kernel) | rfl

/-- The task with a command of channel 2 promised for cycle 40, at cycle 30 or 40. -/
def promised (a : Word) (now : Nat) : State :=
  let s := onTile0 (reg .acc a)
  let k : Cmd := { op := .cpy, d := {}, a := {}, iss := s.c.issuer 2, promise := some 40, num := 9 }
  { (s.setChan ⟨false, 0, 0⟩ 2 { active := some k }) with cyc := now }

/-- With no barrier report none is a channel's. -/
theorem no_bars {s : State} {ch : R3} (h : s.c.barReps = []) : ∀ b ∈ s.c.barReps, b.ch ≠ some ch := by
  rw [h]
  exact fun b hb => nomatch hb

/-- SleeptResult's clauses for a channel: the time to come, the time past with a later promise, the promise broken, all ones. -/
theorem test_wit_sleept : let ok (s : State) : Prop := s.c.mayChan 2 = true ∧ (∀ r ∈ s.c.reports, r.unit.onChan 2 = false) ∧
      ∀ b ∈ s.c.barReps, b.ch ≠ some 2
    (ok (promised 41 40) ∧ (promised 41 40).c.Reads .acc 41 ∧ (41 : Word) ≠ allOnes ∧ (promised 41 40).cyc < (41 : Word).toNat) ∧
    (ok (promised 39 40) ∧ (promised 39 40).c.Reads .acc 39 ∧ (39 : Word).toNat ≤ (promised 39 40).cyc ∧
      ∀ x ∈ (promised 39 40).chanTimes (promised 39 40).c 2, (39 : Word).toNat < x) ∧
    (ok (promised 40 40) ∧ (promised 40 40).c.Reads .acc 40 ∧ (40 : Word).toNat ≤ (promised 40 40).cyc ∧
      (promised 40 40).chanTimes (promised 40 40).c 2 = [40] ∧ (promised 40 40).chanCmds (promised 40 40).c 2 = [(9, 40)]) ∧
    (ok (promised allOnes 40) ∧ (promised allOnes 40).c.Reads .acc allOnes ∧ (promised allOnes 40).c.Takes .acc) := by
  (repeat' apply And.intro) <;> first
    | decide +kernel | exact okVal_eq (by decide +kernel) | exact rep_none rfl | exact no_jobs (by decide +kernel) | rfl | exact no_bars (by decide +kernel)

/-- SleeptResult: a barrier report of the channel that the engine report of its command still holds back. -/
theorem test_wit_sleeptHeld : let s := onTile0 fun c => { c with barReps := [{ obj := 4, ch := some 2, cmd := some 9 }]
                                                                 reports := [{ unit := .copy 3, sub := 6, addr := 0, pc := 0, cmd := some 9 }] }
    s.c.mayChan 2 = true ∧ (∀ r ∈ s.c.reports, r.unit.onChan 2 = false) ∧ ∀ b ∈ s.c.barReps, b.ch = some 2 → s.c.canReport b = false := by
  decide +kernel

/-- The task with barrier 3 granted, in phase 0, with `e` arrivals expected; ACC names it. -/
def atBarrier (e : Nat) (f : Ctx → Ctx) : State :=
  let s := onTile0 fun c => f (reg .acc 3 c)
  s.setBarrier s.c.dist 3 { grant := some s.c.launch, expect := e }

/-- NumberedBarriers: an arrival that completes the phase, one that does not, BARW before and after its arrival, in and after its phase. -/
theorem test_wit_barriers : let ok (s : State) : Prop := s.c.Reads .acc 3 ∧ s.c.isGuest = false ∧
      (s.barrier s.c.dist (bits (3 : Word) 4 0)).grant = some s.c.launch
    let y (s : State) : Barrier := arrivedAt (s.barrier s.c.dist 3) (bits (3 : Word) 55 32) (s.c.retired / s.c.quantum)
    (ok (atBarrier 1 id) ∧ Released (atBarrier 1 id) ∧ phaseDone (y (atBarrier 1 id)) ∧ (atBarrier 1 id).c.wres = false ∧
      (atBarrier 1 id).cmds = [] ∧ (atBarrier 1 id).colls = []) ∧
    (ok (atBarrier 2 id) ∧ ¬ phaseDone (y (atBarrier 2 id))) ∧
    (ok (atBarrier 2 fun c => { c with wres := true, wph := true }) ∧ (atBarrier 2 fun c => { c with wres := true, wph := true }).c.wres = true ∧
      ((atBarrier 2 fun c => { c with wres := true, wph := true }).barrier 0 3).phase ≠ true) ∧
    (ok (atBarrier 2 fun c => { c with wres := true }) ∧ ((atBarrier 2 fun c => { c with wres := true }).barrier 0 3).phase = false) := by
  (repeat' first | apply And.intro) <;> first
    | decide +kernel | exact okVal_eq (by decide +kernel) | exact rep_none rfl | exact no_jobs (by decide +kernel) | rfl
    | (unfold phaseDone; decide +kernel)

/-- VoteResult: a task, and a guest. -/
theorem test_wit_vote : (Instr.voteEq, 5) ∈ [(Instr.voteAnd, 0), (.voteOr, 1), (.voteMaxu, 2), (.voteMinu, 3), (.voteSum, 4), (.voteEq, 5)] ∧
    (onTile0 (reg .acc 3)).c.Reads .acc 3 ∧ (onTile0 (reg .acc 3)).c.isGuest = false ∧ (onTile0 (reg .acc 3)).c.isThread = false ∧
    Released (onTile0 (reg .acc 3)) ∧ (onTile0 fun c => { reg .acc 3 c with kind := .guest }).c.isGuest = true := by
  (repeat' apply And.intro) <;> first
    | decide +kernel | exact okVal_eq (by decide +kernel) | exact rep_none rfl | exact no_jobs (by decide +kernel) | rfl

/-- The task with semaphore 15 at a count. -/
def atSem (v : Nat) : State :=
  let s := onTile0 id
  { s with tasks := s.tasks.map fun x => { x with sems := x.sems.set 15 v } }

/-- SemaphoreAndEvent: the counts 0, 1 (with an earlier waiter and without), 65,534 and 65,535, and the Interchange owned and not. -/
theorem test_wit_sem : ((atSem 1).c.isGuest = false ∧ (atSem 1).sem (atSem 1).c.task 15 = 1 ∧ (atSem 1).semTurn ((atSem 1).c.task * 16 + 15) = true) ∧
    ({ atSem 1 with waiters := [{ uid := 4, key := (atSem 1).c.task * 16 + 15, sem := true }] } : State).semTurn ((atSem 1).c.task * 16 + 15) = false ∧
    (atSem 0).sem (atSem 0).c.task 15 = 0 ∧ ((atSem 65534).sem (atSem 65534).c.task 15 = 65534 ∧ Released (atSem 65534)) ∧
    (atSem 65535).sem (atSem 65535).c.task 15 = 65535 ∧ (atSem 0).ownsEvx (atSem 0).c.dist (atSem 0).c.tenant = false ∧
    (let s := (atSem 0).setOwners (fun i _ => i = 0) (w64 (2 ^ 63)); s.ownsEvx s.c.dist s.c.tenant = true ∧ Released s) := by
  (repeat' apply And.intro) <;> first
    | decide +kernel | exact okVal_eq (by decide +kernel) | exact rep_none rfl | exact no_jobs (by decide +kernel) | rfl

/-! Witnesses: fences, barrier objects, atomics, the stash. -/

/-- FenceResult: with a store and a prefetch under way. -/
theorem test_wit_fence : let s := onReset fun c => { c with jobs := [.store 0 [1], .stash .spf none] }
    s.c.vq = [] ∧ s.c.mq = [] ∧ ∀ j ∈ s.c.jobs, match j with
      | .load .. | .atomic _ | .page .. | .atomicRefused .. => False
      | .stash o _ => o = .spf
      | _ => True := by
  refine ⟨by decide +kernel, by decide +kernel, fun j hj => ?_⟩
  have h : j = .store 0 [1] ∨ j = .stash .spf none := by
    have e : (onReset fun c => { c with jobs := [.store 0 [1], .stash .spf none] }).c.jobs = [.store 0 [1], .stash .spf none] := by decide +kernel
    rw [e] at hj
    simpa using hj
  rcases h with rfl | rfl
  · trivial
  · rfl

/-- The task with P0 at an object with `e` arrivals expected and ACC. -/
def atObject (e : Nat) (a : Word) : State :=
  let s := onTile0 fun c => reg (.p 0) 0x100 (reg .acc a c)
  s.putAll (s.c.issuer 0) (tileKey ⟨false, 0, 0⟩ 0x100) (leBytes 8 e) 2

/-- BarrierObjects: an arrival that completes, one that does not, one too many, and both phases of BWAIT. -/
theorem test_wit_objects : let r : Res := { key := tileKey ⟨false, 0, 0⟩ 0x100, gran := true }
    (ObjectAt {} (atObject 1 0) 0 true true 0x100 r ∧ (atObject 1 0).c.Reads .acc 0 ∧
      (atObject 1 0).capFail ((atObject 1 0).c.issuer ((atObject 1 0).c.scopeOf {})) (0x100 : Word).toNat = none ∧ Released (atObject 1 0) ∧
      ObjectAt {} (atObject 1 0) 0 false true 0x100 r) ∧
    (ObjectAt {} (atObject 2 1) 0 false false 0x100 r ∧ (atObject 2 1).c.Reads .acc 1) ∧
    phaseDone (arrivedAt { expect := 1 } (bits (0 : Word) 23 0) 0) ∧ ((atObject 1 0).gran (r.key / 32)).extra = false ∧
    ¬ phaseDone (arrivedAt { expect := 2 } (bits (1 : Word) 23 0) 0) ∧ ¬ (arrivedAt { expect := 1 } 0 0).expect < (arrivedAt { expect := 1 } 0 0).arrived ∧
    (arrivedAt { expect := 1, arrived := 1 } 0 0).expect < (arrivedAt { expect := 1, arrived := 1 } 0 0).arrived := by
  (repeat' first | apply And.intro | apply ObjectAt.mk) <;> first
    | decide +kernel | exact okVal_eq (by decide +kernel) | exact rep_none rfl | exact no_jobs (by decide +kernel) | rfl
    | exact ⟨0x100, ⟨by decide +kernel, by decide +kernel⟩, by decide +kernel⟩ | (unfold phaseDone; decide +kernel)

/-- AtomicResult: AADD with acquire and release, and ACAS without return, at an element of the tile; ARETRY with and without a record. -/
theorem test_wit_atomic : let s := onTile0 fun c => reg (.p 1) 5 (reg (.p 0) 0x100 (reg .acc 7 c))
    let r : Res := { key := tileKey ⟨false, 0, 0⟩ 0x100, gran := true }
    let req (op : AtomOp) (o : BitVec 2) (nr : Bool) : AtomReq :=
      { iss := s.c.issuer (s.c.scopeOf {}), op := op, el := ⟨0x100, .i64⟩, v := 7, swap := 5, order := o, nr := nr, sent := s.cyc }
    (repLeft {} s ∧ s.c.Reads .acc 7 ∧ s.c.Reads (.p (s.c.field {} 0 (repIndex {} s) 0)) 0x100 ∧
      s.c.Reads (.p (s.c.field {} 1 (repIndex {} s) 1)) 5 ∧ s.c.det = false ∧ ETy.ofCode (s.c.desc 0).ty.toNat = some .i64 ∧
      AtomOp.types .add .i64 = true ∧ AtomOp.types .cas .i64 = true ∧ (0x100 : Word) = ringAddress (s.c.desc 0) 0x100 0 ∧
      (0x100 : Word).toNat % ETy.bytes .i64 = 0 ∧ s.resolve (s.c.issuer (s.c.scopeOf {})) (0x100 : Word).toNat .rmw = .ok r ∧
      s = s.noteRes (s.c.issuer (s.c.scopeOf {})) r ∧ s.redirects (s.c.issuer (s.c.scopeOf {})) (0x100 : Word).toNat = none ∧
      s.capFail (s.c.issuer (s.c.scopeOf {})) (0x100 : Word).toNat = none ∧
      (s.acquires s.c || s.unitHazard s.c r.key (ETy.bytes .i64)) = false ∧ s.across (s.c.issuer (s.c.scopeOf {})) r = false) ∧
    MaySend (req .add 3 false) s ∧ MaySend (req .cas 0 true) s := by
  (repeat' first | apply And.intro) <;> first
    | decide +kernel | exact okVal_eq (by decide +kernel) | exact rep_none rfl | exact no_jobs (by decide +kernel) | rfl
    | exact fun _ => ⟨by decide +kernel, by decide +kernel, no_jobs (by decide +kernel)⟩ | exact fun _ => ⟨by decide +kernel, rfl⟩
    | exact fun h => absurd h (by decide +kernel)

/-- AtomicResult: an atomic of the system scope in DRAM with a spare link, its tag, and its retry record. -/
theorem test_wit_tagged : let s := onReset fun c => { reg (.p 0) 0x4000_0000_0000 (reg .acc 7 c) with defscope := 6 }
    let r : Res := { key := 0, far := true, dram := true }
    let q : AtomReq := { iss := s.c.issuer (s.c.scopeOf {}), op := .add, el := ⟨0x4000_0000_0000, .i64⟩, v := 7, swap := 0, order := 0, nr := false,
                         tag := some s.c.seqTag, sent := s.cyc }
    s.resolve (s.c.issuer (s.c.scopeOf {})) (0x4000_0000_0000 : Word).toNat .rmw = .ok r ∧ s.across (s.c.issuer (s.c.scopeOf {})) r = true ∧
    s.c.tagOut = false ∧ (onReset fun c => { c with retry := some q }).c.retry = some q ∧ s.c.retry = none := by
  (repeat' apply And.intro) <;> first
    | decide +kernel | exact okVal_eq (by decide +kernel) | exact rep_none rfl | exact no_jobs (by decide +kernel) | rfl

/-- AtomicResult's table: operands of both signs, and two f32 values with a sum that is not 0. -/
theorem test_wit_atomicTable : AtomOp.types .min .i64 = true ∧ (0x8000000000000000 : Nat) < 2 ^ ETy.width .i64 ∧ 1 < 2 ^ ETy.width .i64 ∧
    AtomOp.types .cas .i64 = true ∧ AtomOp.types .fadd .f32 = true ∧ ETy.f32.value 0x3F800000 = (.fin ⟨2 ^ 23, -23⟩, 0) ∧
    ETy.f32.value 0x33800000 = (.fin ⟨2 ^ 23, -47⟩, 0) ∧ ((⟨2 ^ 23, -23⟩ : Dy).add ⟨2 ^ 23, -47⟩).m ≠ 0 ∧ 0x3F800000 < 2 ^ ETy.width .f32 ∧
    AtomOp.apply .fadd .f32 0x3F800000 0x33800000 0 = (some 0x3F800000, 1) := by decide +kernel

/-- AtomicResult: the retried request may be sent. -/
theorem test_wit_aretry : MaySend { iss := {}, op := .add, el := ⟨0, .i64⟩, v := 7, swap := 0, order := 0, nr := false, tag := some 1 } State.reset :=
  ⟨by decide +kernel, fun h => absurd h (by decide +kernel), fun _ => ⟨by decide +kernel, rfl⟩⟩

/-- StashResult: with a line and without one. -/
theorem test_wit_stash : repLeft {} (two 0 0) ∧ (two 0 0).c.Reads (.p ((two 0 0).c.field {} 0 (repIndex {} (two 0 0)) 0)) 0 := by
  (repeat' apply And.intro) <;> first
    | decide +kernel | exact okVal_eq (by decide +kernel) | exact rep_none rfl | exact no_jobs (by decide +kernel) | rfl

/-! Witnesses: the units' instructions. -/

/-- VectorIssue: VADD on three records of 4 elements. -/
theorem test_wit_vector : let s := unitTask 6 4
    let iss := s.c.issuer (s.c.scopeOf {})
    let fp := s.c.fpCtlOf none
    let r : VRecs := { d := some (shape1 0x1000 .i64 6 4), a := some (shape1 0x1100 .i64 6 4), b := some (shape1 0x1200 .i64 6 4), c := none }
    let e : VEntry := { op := .add, d := r.d, a := r.a, b := r.b, c := r.c, mask := allOnes, zeroing := false, mode := fp.mode, sat := fp.sat
                        ftz := fp.ftz, traps := fp.traps, acc := 0, qsrd := s.c.qsrd.toNat, qidx := s.c.qidx.toNat, iss := iss }
    let w := (r.d.getD {}).written e.writes
    (VOp.add, 3, Instr.vadd) ∈ vectors ∧ s.drain s.c.uid = s ∧ repLeft {} s ∧ Released s ∧
    vrecords .add {} (some (s.c.field {} 0 (repIndex {} s) 0), some (s.c.field {} 1 (repIndex {} s) 1), some (s.c.field {} 3 (repIndex {} s) 2)) s =
      .ok (r, s) ∧
    Passes (vchecks .add iss r) s ∧ vmask {} s = .ok (allOnes, s) ∧ e.draws = 0 ∧ Passes (drawCheck 0) s ∧ vtranslate iss r s = .ok ([], s) ∧
    vindices { e with iss := { iss with xlat := [] } } s = .ok ([], s) ∧ Passes (capAll { iss with xlat := [] } w) s ∧
    reserveRange { iss with xlat := [] } (r.d.getD {}) s = .ok ((), s) ∧ VectorRoom s ∧ VOp.isRed .add = false := by
  (repeat' apply And.intro) <;> first
    | decide +kernel | exact okVal_eq (by decide +kernel) | exact rep_none rfl | exact no_jobs (by decide +kernel) | rfl | simp [vectors]

/-- VectorIssue, numbers: codes of every kind; a tie, an overflow and a subnormal result; a float, an integer and an E8 conversion; lns6 between two
neighbours and beyond the largest. -/
theorem test_wit_numbers :
    (ETy.e4m3.fmt = some ⟨4, -6, 8, 4, true, false, 14⟩ ∧ (15 : Nat) < 2 ^ 4 ∧ (7 : Nat) < 2 ^ (4 - 1) ∧ ETy.f36.fmt.isSome = true ∧
      ETy.f32.fmt = some ⟨24, -126, 127, 8, true, true, 2 ^ 24 - 1⟩) ∧
    (let at_ (m : Int) (e eu : Int) : Prop := m ≠ 0 ∧ Dy.cmp ⟨1, eu⟩ ⟨m.natAbs, e⟩ ≤ 0 ∧ Dy.cmp ⟨m.natAbs, e⟩ ⟨1, eu + 1⟩ < 0
     at_ (2 ^ 24 + 1) 0 24 ∧ at_ (-1) 200 200 ∧ at_ 3 (-150) (-149)) ∧
    (ETy.i8.isInt = true ∧ ETy.i8.minT = -128 ∧ ETy.i8.maxT = 127 ∧ ETy.i8.conv {} (.fin ⟨257, -1⟩) = (0x80, 0b010001)) ∧
    (Dy.cmp ⟨1, 127⟩ ⟨3, 126⟩ ≤ 0 ∧ Dy.cmp ⟨3, 126⟩ ⟨1, 127 + 1⟩ < 0) ∧
    (Dy.cmp (lnsLinear 15) ⟨100, 0⟩ < 0 ∧ Dy.cmp (lnsLinear (-15)) ⟨5, -6⟩ < 0 ∧ Dy.cmp ⟨5, -6⟩ (lnsLinear (-14)) < 0 ∧
      ETy.lns6.value 0x2F = (.fin (lnsLinear 15).neg, 0)) := by
  (repeat' apply And.intro) <;> first | decide +kernel | rfl

/-- VectorIssue, elements: finite operands, one that is no number, infinities, an infinity and a zero; an amount within and outside the width. -/
theorem test_wit_elements : let o (c : Nat) : VOpd := { ty := .f32, code := c }
    (o 0x3F800000).val = (.fin ⟨2 ^ 23, -23⟩, 0) ∧ (o 0xC0000000).val = (.fin ⟨-2 ^ 23, -22⟩, 0) ∧
    (⟨-2 ^ 23, -22⟩ : Dy).cmp ⟨2 ^ 23, -23⟩ < 0 ∧ (o 0x7FC00000).val = (.nan, 0) ∧ (o 0x7F800000).val = (.inf false, 0) ∧
    (o 0xFF800000).val = (.inf true, 0) ∧ (o 0x80000000).val = (.zero true, 0) ∧ ETy.i8.intOf 7 = 7 ∧ ETy.i8.width = 8 ∧ ETy.i8.intOf 0xFF = -1 ∧
    ETy.i8.isInt = true := by
  (repeat' apply And.intro) <;> first | decide +kernel | rfl

/-- VectorIssue, rows: an entry over integers with two elements of which the second attains the maximum; 17 numbers in two groups. -/
theorem test_wit_rows : let e : VEntry := { op := .redAmax, d := some (shape1 0x1000 .i64 6 4), a := some (shape1 0x1100 .i8 0 4) }
    let one := Val.fin ⟨1, 0⟩
    (e.b = none ∧ e.a = some (shape1 0x1100 .i8 0 4) ∧ (shape1 0x1100 .i8 0 4).scaled = false ∧ (∀ b, e.b = some b → b.ty = .i8 ∧ b.scaled = false) ∧
      ([(0, 0xFF, 0), (1, 2, 0)] : List (Nat × Nat × Nat)) = [(0, 0xFF, 0)] ++ (1, 2, 0) :: [] ∧ ETy.i8.intOf 0xFF < ETy.i8.intOf 2) ∧
    ((List.replicate 16 one).length % 16 = 0 ∧ (ETy.f32.value (rowSum .f32 {} (fun _ => 0) (List.replicate 16 one)).1).1 = .fin ⟨2 ^ 23, -19⟩ ∧
      (ETy.f32.value (rowSum .f32 {} (fun _ => 0) [one]).1).1 = .fin ⟨2 ^ 23, -23⟩ ∧ ([⟨2 ^ 23, -19⟩, ⟨2 ^ 23, -23⟩].foldl Dy.add ⟨0, 0⟩ : Dy).m ≠ 0) := by
  refine ⟨⟨rfl, rfl, rfl, nofun, rfl, by decide⟩, by decide, by decide +kernel, by decide +kernel, by decide +kernel⟩

/-- VectorIssue, an element: active and inactive places whose sources can be read and whose destination can be written. -/
theorem test_wit_element : let s := unitTask 6 4
    let i := s.c.issuer 2
    let d := shape1 0x1000 .i64 6 4
    let e : VEntry := { op := .add, d := some d, a := some (shape1 0x1100 .i64 6 4), b := some (shape1 0x1200 .i64 6 4), mask := 2, zeroing := true, iss := i }
    e.mask.getLsbD ((d.ix 0).j0 % 64) = false ∧ e.mask.getLsbD ((d.ix 1).j0 % 64) = true ∧ e.op.isRed = false ∧
    s.unitCode i (shape1 0x1100 .i64 6 4) ((shape1 0x1100 .i64 6 4).at (d.ix 1)) = .ok 0 ∧
    s.unitCode i (shape1 0x1200 .i64 6 4) ((shape1 0x1200 .i64 6 4).at (d.ix 1)) = .ok 0 ∧
    isOk (s.unitWrite i (fun _ => false) d e.writes (d.ix 1) 0) = true ∧ isOk (s.unitWrite i (fun _ => false) d e.writes (d.ix 0) 0) = true := by
  (repeat' apply And.intro) <;> first
    | decide +kernel | exact okVal_eq (by decide +kernel) | rfl

/-- The task with int8 records in I36 banks. -/
def matTask (n : Nat) : State :=
  let s := unitTask 0 n
  { s with c := { s.c with mfmt := 0 } }

/-- MatrixIssue: MMA on records of 128 elements' extent at bank 0. -/
theorem test_wit_mma : let s := matTask 4
    let iss := s.c.issuer s.c.defscope
    let x := shape1 0x1000 .i8 0 4
    let y := shape1 0x1100 .i8 0 4
    let e := matrixEntry s .mma 0 s.c.defscope (some x) (some y) 0
    let left := (e.elems 0).flatMap x.bytesOf ++ e.scales 0
    let right := (e.elems 1).flatMap y.bytesOf ++ e.scales 1
    repLeft {} s ∧ s.c.mayBank (0 : BitVec 2).toNat = true ∧ s.drain s.c.uid = s ∧ Released s ∧ (MOp.mma, Instr.mma) ∈ [(MOp.mma, Instr.mma), (.mmz, .mmz), (.mmsub, .mmsub)] ∧
    readRecordAs (underConst s.c.mscla) (s.c.field {} 0 (repIndex {} s) 0) 1 s = .ok (x, s) ∧ readRecordAs (underConst s.c.msclb) (s.c.field {} 1 (repIndex {} s) 1) 2 s = .ok (y, s) ∧
    Passes (mmaChecks iss (0 : BitVec 2).toNat x y) s ∧ s.c.onReflex = false ∧ translateAll iss .read (firsts [] right) s = .ok ([], s) ∧
    s.hasPath ((mpath x.ty y.ty).getD .lns6) = true ∧ ({ s with capsReg := 0 } : State).hasPath ((mpath .e4m3 .e4m3).getD .lns6) = false ∧ Passes (vectorFirst iss (left ++ right)) s ∧ MatrixRoom s := by
  (repeat' apply And.intro) <;> first
    | decide +kernel | exact okVal_eq (by decide +kernel) | exact rep_none rfl | exact no_jobs (by decide +kernel) | rfl | simp

/-- MatrixIssue: MMST and MMLD on a record at the largest extent. -/
theorem test_wit_mmst : let s := matTask 128
    let iss := s.c.issuer (s.c.scopeOf {})
    let x := shape1 0x1000 .i8 0 128
    let e := matrixEntry s .mmst 0 (s.c.scopeOf {}) (some x) none 0
    repLeft {} s ∧ s.c.mayBank (0 : BitVec 2).toNat = true ∧ s.drain s.c.uid = s ∧ Released s ∧
    readRecord (s.c.field {} 0 (repIndex {} s) 0) 0 s = .ok (x, s) ∧ readRecord (s.c.field {} 0 (repIndex {} s) 0) 1 s = .ok (x, s) ∧
    s.storeAhead (0 : BitVec 2).toNat = none ∧ x.rank ≤ 2 ∧ x.dim 0 ≤ 128 ∧ x.dim 1 ≤ 128 ∧ x.strm = false ∧ s.winOf iss x = some .own ∧
    x.ty.isInt = true ∧ e.mode ≠ .sr ∧ Passes (drawCheck 0) s ∧ translateShape iss x .write x.ixs s = .ok ([], s) ∧
    translateShape iss x .read x.ixs s = .ok ([], s) ∧ Passes (capAll iss (x.written x.ixs)) s ∧ Passes (vectorFirst iss x.addrs) s ∧ MatrixRoom s := by
  (repeat' apply And.intro) <;> first
    | decide +kernel | exact okVal_eq (by decide +kernel) | exact rep_none rfl | exact no_jobs (by decide +kernel) | rfl

/-- MatrixIssue, products: an element inside MMSUB's range and one outside it, an active index, constant scales, in either mode. -/
theorem test_wit_products : let x := shape1 0x1000 .i8 0 128
    let e : MEntry := { op := .mmsub, bank := 0, a := some x, b := some x, mfmt := 0x10000, acc := 0x7F00_7F01_7F02, mgeo0 := 0x10101 }
    let within (dim i lo hi k : Nat) : Prop := k < Min.min (dim - 128 * i) 128 ∧ (e.op = .mmsub → lo ≤ k ∧ k ≤ hi)
    within (x.dim 0) (bits e.mgeo1 23 16) (bits e.acc 38 32) (bits e.acc 46 40) 127 ∧ within (x.dim 1) (bits e.mgeo1 7 0) 0 0 0 ∧
    ¬ within (x.dim 1) (bits e.mgeo1 7 0) (bits e.acc 6 0) (bits e.acc 14 8) 0 ∧ bit e.mfmt (16 + e.bank) = true ∧
    bit ({ e with mfmt := 0 } : MEntry).mfmt (16 + e.bank) = false ∧ scaleAt [(0, some 3)] 0 = some 3 ∧ scaleAt [(0, none)] 0 = none ∧
    exactTerm .lns6 .lns6 0x01 0x21 = some (lnsLinear 2).neg ∧ exactTerm .bf16 .e4m3 0x3F80 0x38 = some ⟨2 ^ 10, -10⟩ ∧
    (ETy.bf16.value 0x7FC0).1 = .nan := by
  (repeat' apply And.intro) <;> first | decide +kernel | rfl

/-- MatrixIssue, entries: operands that can be read; a store of a masked and of an unmasked element. -/
theorem test_wit_entries : let s := onTile0 id
    let x := shape1 0x1000 .bf16 9 2
    let i := s.c.issuer 2
    let e : MEntry := { op := .mma, bank := 0, a := some x, b := some x, mscla := 0x8080, msclb := 0x80FF, mgeo0 := 0x10101, iss := i }
    let w : MEntry := { e with op := .mmst, b := none, msclo := 0x7F }
    let m : MaskStore := { flags := 4, rows := 0, tbase := 0, tlen := 0, row := [] }
    ((e.readOps s).toOption.any fun o => o.2.isNone) = true ∧ bit e.mscla 15 = true ∧ bit e.msclb 15 = true ∧ bits e.msclb 7 0 = 0xFF ∧
    e.iss.loc = some ⟨false, 0, 0⟩ ∧ e.bank < 3 ∧ x.scaled = false ∧ isOk (s.unitWrite i (fun _ => false) x x.ixs { j0 := 0, j1 := 0 } 0) = true ∧
    w.masked (some m) 0 0 = true ∧ w.masked none 0 0 = false ∧ ETy.bf16.fmt.isSome = true ∧ (ETy.bf16.isInt = false) ∧ w.mode ≠ .sr ∧
    ({ ty := .bf16, code := 0x3F80 } : VOpd).val = (.fin ⟨2 ^ 7, -7⟩, 0) := by
  (repeat' apply And.intro) <;> first | decide +kernel | rfl

/-- MatrixIssue: MMMASK on a block of zeros, at the last place that holds one. -/
theorem test_wit_mmmask : let s := onTile0 fun c => reg (.p 0) 0x13F7C0 c
    let iss := s.c.issuer s.c.defscope
    s.c.Reads (.p (s.c.field {} 0 (repIndex {} s) 0)) 0x13F7C0 ∧ (0x13F7C0 : Word).toNat % 64 = 0 ∧ (0x13F7C0 : Word).toNat + 2112 ≤ localSize iss ∧
    loadGranules iss 0x13F7C0 66 s = .ok (List.replicate 2112 0, s) ∧ parseMask (List.replicate 2112 0) = .ok none ∧ MatrixRoom s := by
  (repeat' apply And.intro) <;> first
    | decide +kernel | exact okVal_eq (by decide +kernel) | exact rep_none rfl | exact no_jobs (by decide +kernel) | rfl

/-- CopyIssue: CPY of 4 elements on channel 1 with no target. -/
theorem test_wit_copy : let s := unitTask 6 4
    let u : State := { s with c := { s.c with engAcc := [(0, 0)] } }
    let iss := s.c.issuer (s.c.scopeOf {})
    let d := shape1 0x1000 .i64 6 4
    let a := shape1 0x1100 .i64 6 4
    let w := d.destBytes.map fun x => x + 0 * 2 ^ 21
    s.drain s.c.uid = s ∧ repLeft {} s ∧ Released s ∧ s.c.mayChan 1 = true ∧ engineAcc (repIndex {} s) s = .ok (0, u) ∧
    targetOf iss 0 u = .ok (.none, u) ∧ readRecord (s.c.field {} 0 (repIndex {} s) 0) 0 u = .ok (d, u) ∧
    readRecord (s.c.field {} 1 (repIndex {} s) 1) 1 u = .ok (a, u) ∧ optRecord none 4 u = .ok (none, u) ∧
    Passes (engineChecks .cpy iss 1 d a none [0]) u ∧ Passes (dramOperands [d, a]) u ∧ Passes (capAll iss w) u ∧
    Passes (unitsFirst iss (w ++ a.addrs)) u ∧ u.c.loc = some ⟨false, 0, 0⟩ ∧ (u.chan ⟨false, 0, 0⟩ 1).active = none ∧
    (∀ x ∈ u.c.reports, x.unit.onChan 1 = false) ∧ reserveAll iss (u.coveredLines iss d 0) u = .ok ((), u) ∧ u.c.Takes .acc := by
  (repeat' apply And.intro) <;> first
    | decide +kernel | exact okVal_eq (by decide +kernel) | exact rep_none rfl | exact no_jobs (by decide +kernel) | rfl

/-- CopyIssue: the shadow set free behind an active command; channels that are not the context's, on a task and on a guest. -/
theorem test_wit_channels :
    ((promised 0 40).chan ⟨false, 0, 0⟩ 2).active.isSome = true ∧ ((promised 0 40).chan ⟨false, 0, 0⟩ 2).shadow = none ∧
    (let s := onTile0 id
     s.c.onReflex = false ∧ (s.c.isGuest = true ↔ (6 : R3).toNat < 6) ∧ Released s) ∧
    (let s := onTile0 fun c => { c with kind := .guest }
     s.c.onReflex = false ∧ (s.c.isGuest = true ↔ (5 : R3).toNat < 6) ∧ Released s) := by
  (repeat' apply And.intro) <;> first | decide +kernel | exact no_jobs (by decide +kernel)

/-- CollectiveIssue: COLL.SUM of a launch of one rank. -/
theorem test_wit_coll : let s := unitTask 6 4
    let iss := s.c.issuer (s.c.scopeOf {})
    let d := shape1 0x1000 .i64 6 4
    let a := shape1 0x1100 .i64 6 4
    s.drain s.c.uid = s ∧ Released s ∧ s.c.Reads .acc 0 ∧ targetOf iss 0 s = .ok (.none, s) ∧ readRecord (0 + s.c.stagger) 0 s = .ok (d, s) ∧
    readRecord (1 + s.c.stagger) 1 s = .ok (a, s) ∧ Passes (collChecks 0 iss d a) s ∧ Passes (capAll iss d.destBytes) s ∧
    Passes (unitsFirst iss (d.addrs ++ a.addrs)) s ∧ s.chanCmds s.c s.c.collChan = [] ∧
    (∀ x ∈ s.c.reports, x.unit.onChan s.c.collChan = false) ∧ reserveRange iss d s = .ok ((), s) ∧ s.c.Takes .acc := by
  (repeat' apply And.intro) <;> first
    | decide +kernel | exact okVal_eq (by decide +kernel) | exact rep_none rfl | exact no_jobs (by decide +kernel) | rfl

/-! Witnesses: the Square, escrow, pages. -/

/-- The task with slot 5 valid for its tenant, 2 units large, readable and writable by it, ACC naming it and P0. -/
def withSlot (f : Ctx → Ctx) : State :=
  let s := onTile0 fun c => f (reg (.p 0) 0x1000 (reg .acc 5 c))
  s.setSlot { num := 5, valid := true, tenant := 0, size := 2, read := 0xFF, writer := 1 }

/-- SquareIssue: MBPUB from the tile and from a dispatch core's journal, MBGET into the tile and into the task's rank, MBINFO; and a slot that is not valid. -/
theorem test_wit_square : let s := withSlot id
    let x := s.slot (bits (5 : Word) 9 0)
    let pn := ringAddress (s.c.desc (0 + s.c.stagger)) 0x1000 0
    let r := withSlot (reg (.p 0) 0x1000_0000_1000)
    let o := onTile0 id
    s.c.Reads .acc 5 ∧ s.c.Reads (.p (0 + s.c.stagger)) 0x1000 ∧ s.slotDenied x (some 128) = false ∧ s.slotDenied x none = false ∧ pn.toNat % 32 = 0 ∧
    s.window (s.c.issuer s.c.defscope) pn.toNat (pn.toNat + 128 - 1) = some .own ∧
    Passes (unitsFirst (s.c.issuer s.c.defscope) ((List.range 128).map fun k => pn.toNat + k)) s ∧ SquareRoom s ∧
    (two 0 0).dispHolds 0x10_0000 (0x10_0000 + 128 - 1) = true ∧
    s.window (s.c.issuer 5) pn.toNat (pn.toNat + 160 - 1) = some .own ∧ Passes (unitsFirst (s.c.issuer 5) ((List.range 160).map fun k => pn.toNat + k)) s ∧
    (r.window (r.c.issuer 5) 0x1000_0000_1000 (0x1000_0000_1000 + 160 - 1) = some (.rank 0) ∧ r.rankDenied (r.c.issuer 5) 0x1000_0000_1000 = false ∧
      Passes (unitsFirst (r.c.issuer 5) ((List.range 160).map fun k => (0x1000_0000_1000 : Word).toNat + k)) r) ∧
    Released s ∧ SquareRoom (s.drain s.c.uid) ∧ (s.drain s.c.uid).c.Takes .acc ∧
    (o.c.Reads .acc 0 ∧ o.c.Reads (.p (0 + o.c.stagger)) 0 ∧ o.slotDenied (o.slot 0) none = true ∧ o.slotDenied (o.slot 0) (some (64 * (o.slot 0).size)) = true) := by
  (repeat' apply And.intro) <;> first
    | decide +kernel | exact okVal_eq (by decide +kernel) | exact rep_none rfl | exact no_jobs (by decide +kernel) | rfl | (unfold SquareRoom; decide +kernel)

/-- The task joined to window 7, `j` strands in all. -/
def inEscrow (j : Nat) (a : Word) : State :=
  let s := onTile0 fun c => { reg .acc a c with esEn := true, esWin := 7 }
  s.setWin 7 { s.win 7 with open_ := true, joined := j }

/-- EscrowResult: opening, the largest position and prefix, leaving, the last strand and one that is not the last. -/
theorem test_wit_escrow :
    ((onTile0 id).c.esEn = false ∧ (onTile0 id).c.isDisp = false ∧ ((onTile0 id).win 7).tenant = (onTile0 id).c.tenant ∧ (onTile0 id).closing 7 = false) ∧
    ((inEscrow 1 63).c.esEn = true ∧ (inEscrow 1 63).c.Reads .acc 63 ∧ (63 : Word).toNat ≤ 63) ∧
    ((inEscrow 1 64).c.esWin = 7 ∧ ((inEscrow 1 64).win 7).joined = 1 ∧ (inEscrow 1 64).c.Reads .acc 64 ∧ (64 : Word).toNat ≤ 64 ∧
      (inEscrow 1 64).winBusy 7 = false ∧ (∀ e ∈ ((inEscrow 1 64).win 7).installs 64, (inEscrow 1 64).busy e.pline true = false) ∧ Released (inEscrow 1 64) ∧
      (((inEscrow 1 64).drain (inEscrow 1 64).c.uid).commit 7 64).1.c.acc.full = true) ∧
    ((inEscrow 2 0).c.esEn = true ∧ (inEscrow 2 0).c.esWin = 7 ∧ ((inEscrow 2 0).win 7).joined ≠ 1) := by
  (repeat' apply And.intro) <;> first
    | decide +kernel | exact okVal_eq (by decide +kernel) | exact rep_none rfl | exact no_jobs (by decide +kernel) | rfl

/-- EscrowResult: a strand that waits to close the window; two entries that hold a byte, the later one below the count. -/
theorem test_wit_commit :
    (let s := inEscrow 1 0
     let t := { s with others := s.others ++ [{ s.c with uid := 78, stalled := true, inClose := true }], c := { s.c with esEn := false } }
     t.c.esEn = false ∧ t.c.isDisp = false ∧ (t.win 7).tenant = t.c.tenant ∧
      (∃ c ∈ t.ctxs, c.esEn = true ∧ c.esWin = 7 ∧ c.stalled = true ∧ c.inClose = true)) ∧
    (let x : EscEntry := ⟨3, 8, 40, [(0, 7)]⟩
     let y : EscEntry := ⟨5, 8, 40, [(0, 9), (1, 4)]⟩
     let s := State.reset.setWin 7 { entries := [x, y] }
     s.Canonical ∧ (∀ e ∈ (s.win 7).entries, (e.bytes.map fun x => x.1).Nodup ∧ ∀ x ∈ e.bytes, x.1 < 32) ∧ y ∈ (s.win 7).entries ∧ y.pos < 6 ∧
      y.pline = 1280 / 32 ∧ (1280 % 32, (9 : Byte)) ∈ y.bytes ∧ Mem.byte (s.commit 7 6).1.mem 1280 = 9 ∧ Mem.byte (s.commit 7 5).1.mem 1280 = 7 ∧
      (s.commit 7 6).2 = 1) := by
  (repeat' apply And.intro) <;> decide +kernel

/-- PageResult: a descriptor at the first granule of the DRAM window, outside and inside a window; and deterministic mode. -/
theorem test_wit_page : let s := onReset fun c => reg (.p 0) 0x4000_0000_0000 (reg .acc 9 c)
    let r : Res := { key := 0, far := true, dram := true }
    s.c.Reads (.p (0 + s.c.stagger)) 0x4000_0000_0000 ∧ s.c.Reads .acc 9 ∧ s.c.det = false ∧
    (ringAddress (s.c.desc (0 + s.c.stagger)) 0x4000_0000_0000 0).toNat = 0x4000_0000_0000 ∧
    s.resolve (s.c.issuer 5) 0x4000_0000_0000 .rmw = .ok r ∧ s = s.noteRes (s.c.issuer 5) r ∧ s.c.atomStops < 4 ∧ Released s ∧ s.c.esEn = false ∧
    (s.drain s.c.uid).capFail (s.c.issuer 5) 0x4000_0000_0000 = none ∧ (s.drain s.c.uid).c.Takes .acc ∧
    (onReset fun c => { c with det := true }).c.det = true := by
  (repeat' apply And.intro) <;> first
    | decide +kernel | exact okVal_eq (by decide +kernel) | exact rep_none rfl | exact no_jobs (by decide +kernel) | rfl

/-- PageResult: PGALLOC on an empty list inside a window that covers its descriptor. -/
theorem test_wit_pageInside : let s := onReset fun c => { reg (.p 0) 0x4000_0000_0000 c with esEn := true, esWin := 7 }
    let s := s.setWin 7 { s.win 7 with open_ := true, joined := 1, rbase := (s.win 7).rbase.set 0 0x4000_0000_0000, rlen := (s.win 7).rlen.set 0 1 }
    isOk (pageInside (s.c.issuer 5) s.c.esWin.toNat s.c.esPos.toNat 0x4000_0000_0000 { key := 0, far := true, dram := true } none (s.drain s.c.uid)) =
      true := by decide +kernel

/-- A dispatch context under a window of two regions, with a page list of `n` of 2 free pages. -/
def pageWindow (n : Nat) : State :=
  let s := onReset fun c => { reg (.p 0) 0x4000_0000_0000 c with esEn := true, esWin := 7 }
  let s := s.setWin 7 { s.win 7 with
    open_ := true, joined := 1, rbase := ((s.win 7).rbase.set 0 0x4000_0000_0000).set 1 0x4000_0000_0040, rlen := ((s.win 7).rlen.set 0 1).set 1 1 }
  { s with mem := Mem.write s.mem 0 (leBytes 4 n ++ leBytes 4 2 ++ leBytes 8 0x4000_0000_0040 ++ List.replicate 48 0 ++ leBytes 4 9) }

/-- PageResult: the page step on a list with a page, on an empty one, on a full one, with an element outside the window, and under a write at a later
position. -/
theorem test_wit_pageStep : let r : Res := { key := 0, far := true, dram := true }
    let p : Res := { key := 0x40, far := true, dram := true }
    let i (s : State) : Issuer := s.c.issuer 5
    let bs (s : State) : List Byte := s.readBytes (i s) r 0x4000_0000_0000 16
    let s := pageWindow 1
    let out : State := s.setWin 7 { s.win 7 with rlen := (s.win 7).rlen.set 1 0 }
    let later : State := s.setWin 7 { s.win 7 with entries := [⟨3, 0x4000_0000_0000 / 32, 0, [(0, 7)]⟩] }
    let ready (s : State) (q : Res) (n : Nat) : Prop :=
      s.acquires s.c = false ∧ s.unitHazard s.c q.key n = false ∧ s.pendingAt s.c q.key = false ∧ s.busy (q.key / 32) false = false
    (s.win 7).covers 0x4000_0000_0000 = true ∧ (s.win 7).covers 0x4000_0000_1000 = false ∧ s.capFail (i s) 0x4000_0000_0000 = none ∧ ready s r 32 ∧
    (s.win 7).entries = [] ∧ s.readFault (i s) r 0x4000_0000_0000 16 = none ∧ leNat ((bs s).take 4) = 1 ∧ leNat (((bs s).drop 4).take 4) = 2 ∧
    w64 (leNat (((bs s).drop 8).take 8)) = 0x4000_0000_0040 ∧ (s.win 7).covers 0x4000_0000_0040 = true ∧ (out.win 7).covers 0x4000_0000_0040 = false ∧
    okVal (match s.listPlace (i s) 0x4000_0000_0040 with
      | .ok p => .ok p
      | .error _ => .error ()) p = true ∧ ready s p 4 ∧ s.readFault (i s) p 0x4000_0000_0040 4 = none ∧
    isOk (redirect 7 0 r 0x4000_0000_0000 (leBytes 4 0) s) = true ∧ s.c.Takes .acc ∧ leNat ((bs (pageWindow 0)).take 4) = 0 ∧
    leNat ((bs (pageWindow 2)).take 4) = 2 ∧ (∃ e, (e ∈ (later.win 7).entries ∧ e.vline = 0x4000_0000_0000 / 32 ∧ e.bytes ≠ []) ∧ 0 < e.pos) := by
  (repeat' apply And.intro) <;> first
    | decide +kernel | rfl
    | exact ⟨⟨3, 0x4000_0000_0000 / 32, 0, [(0, 7)]⟩, by decide +kernel⟩

/-- PageResult: a redirected write with room, and in a window whose quota is used up. -/
theorem test_wit_redirect : let s := pageWindow 1
    let full := s.setWin 7 { s.win 7 with quota := 0 }
    s.escrow.length = 8 ∧ (0x4000_0000_0000 : Word).toNat % 32 + [(1 : Byte)].length ≤ 32 ∧ ¬ (∃ e ∈ (s.win 7).entries, e.pos = 0 ∧ e.vline = 0x4000_0000_0000 / 32) ∧
    (s.win 7).entries.length < (s.win 7).quota ∧ (s.escrow.map fun y => y.entries.length).sum < s.pcap ∧
    (full.win 7).quota ≤ (full.win 7).entries.length := by
  (repeat' apply And.intro) <;> decide +kernel

/-! Witnesses: the Mint, the seed stack, sampling, launches, queues. -/

/-- The dispatch context with a direction table of one dimension. -/
def withTable (f : Ctx → Ctx) : State := onReset fun c => f { c with mint := { table := [List.replicate 32 0x80000000] } }

/-- MintResult: a point to ACC, a point stored, a table of 64 dimensions at the last place, a key. -/
theorem test_wit_mint :
    (repLeft {} (withTable id) ∧ HasPoint (withTable id).c ∧ (withTable id).c.Takes .acc) ∧
    (let s := withTable (reg (.p 0) 0x102)
     let ea := ringAddress (s.c.desc (s.c.field {} 0 (repIndex {} s) 0)) 0x102 0
     s.c.Reads (.p (s.c.field {} 0 (repIndex {} s) 0)) 0x102 ∧ ea.toNat % 2 = 0 ∧
      PlainPlace s s (s.c.issuer s.c.defscope) ea 2 true { key := dispKey false 0x102 }) ∧
    (let s := onReset fun c => reg (.p 0) 0x7E000 (reg .acc 64 c)
     s.c.Reads .acc 64 ∧ s.c.Reads (.p (0 + s.c.stagger)) 0x7E000 ∧ 1 ≤ (64 : Word).toNat ∧ (64 : Word).toNat ≤ 64 ∧
      (ringAddress (s.c.desc (0 + s.c.stagger)) 0x7E000 0).toNat % 64 = 0 ∧
      (ringAddress (s.c.desc (0 + s.c.stagger)) 0x7E000 0).toNat + 128 * (64 : Word).toNat ≤ localSize (s.c.issuer s.c.defscope) ∧
      isOk (loadGranules (s.c.issuer s.c.defscope) (ringAddress (s.c.desc (0 + s.c.stagger)) 0x7E000 0) (4 * (64 : Word).toNat) s) = true) ∧
    (onReset fun c => { c with seeds := [5] }).c.seeds = 5 :: [] := by
  (repeat' first | apply And.intro | apply PlainPlace.mk) <;> first
    | decide +kernel | exact okVal_eq (by decide +kernel) | exact rep_none rfl | exact no_jobs (by decide +kernel) | rfl

/-- MintResult's points: a table of 32 numbers, with and without scrambling. -/
theorem test_wit_point : let m : Mint := { table := [List.replicate 32 0x80000000], scr := true, skey := 5 }
    (m.table.getD 0 []).length = 32 ∧ (31 : Nat) < 32 ∧ m.scr = true ∧ ({ m with scr := false } : Mint).scr = false ∧
    (0x80000000 : BitVec 32).toNat / 2 ^ 8 ≠ 0 ∧ (0xFF : BitVec 32).toNat / 2 ^ 8 = 0 := by decide +kernel

/-- SeedStackResult: the empty stack, one entry, 15 and 16 entries. -/
theorem test_wit_seeds : let st (n : Nat) : State := onReset fun c => { reg .acc 3 c with seeds := List.replicate n 5 }
    ((st 15).c.Reads .acc 3 ∧ (st 15).c.seeds.length < 16 ∧ (st 15).c.seeds = 5 :: List.replicate 14 5 ∧ (st 15).c.Takes .acc) ∧
    (16 ≤ (st 16).c.seeds.length ∧ (st 16).c.Reads .acc 3 ∧ (st 16).c.seeds[(15 : BitVec 4).toNat]? = some 5) ∧
    ((st 0).c.seeds = [] ∧ (st 0).c.Reads .acc 3 ∧ (st 0).c.seeds.length ≤ (0 : BitVec 4).toNat) := by
  (repeat' apply And.intro) <;> first
    | decide +kernel | exact okVal_eq (by decide +kernel) | exact rep_none rfl | exact no_jobs (by decide +kernel) | rfl

/-- SamplingIssue: a slice of 4 numbers at P1, ACC 1, and a tree block of 2 leaves at P0. -/
def sampleTask : State :=
  let s := onTile0 fun c => reg (.p 1) 0x440 (reg (.p 0) 0x400 (reg .acc 1 c))
  s.putAll (s.c.issuer 0) (tileKey ⟨false, 0, 0⟩ 0x400) (leBytes 4 2 ++ List.replicate 60 0 ++ rec1 0x1100 0x0A 4) 5

/-- SamplingIssue: MSUM, TSRCH, TFIND, TMASS. -/
theorem test_wit_sampling : let s := sampleTask
    let iss := s.c.issuer s.c.defscope
    let sh := shape1 0x1100 .f32 0x0A 4
    s.drain s.c.uid = s ∧ Released s ∧ sliceRecord 1 1 s = .ok (sh, s) ∧ translateShape iss sh .read sh.ixs s = .ok ([], s) ∧ VectorRoom s ∧
    s.c.Takes .acc ∧ s.c.Reads .acc 1 ∧ treeBlock 0 iss s = .ok (0x400, s) ∧ loadBytes iss 0x400 4 s = .ok (leBytes 4 2, s) ∧
    2 ≤ leNat (leBytes 4 2) ∧ leNat (leBytes 4 2) ≤ 64 ∧ (1 : Word).toNat < leNat (leBytes 4 2) ∧ Passes (treeFits iss 0x400 (leNat (leBytes 4 2))) s := by
  (repeat' apply And.intro) <;> first
    | decide +kernel | exact okVal_eq (by decide +kernel) | exact rep_none rfl | exact no_jobs (by decide +kernel) | rfl

/-- SamplingIssue's slices: an entry of each kind over three values, with a target that the sum of two reaches, a NaN, and a remainder that the second
place's prefix exceeds. -/
theorem test_wit_slices : let s : State := onTile0 id
    let vals : List Val := [.fin ⟨1, 0⟩, .fin ⟨1, 1⟩, .zero false]
    let e (op : VOp) (acc : Word) : VEntry := { op := op, acc := acc }
    (e .msum 0).op = .msum ∧ Val.nan ∈ [Val.nan] ∧ single (e .tsrch 0x3F800000).acc.toNat = .fin ⟨2 ^ 23, -23⟩ ∧ single 0x7FC00000 = .nan ∧
    (sampleRun s (e .tsrch 0x3F800000) vals).acc.isSome = true ∧ single (e .tfind 0x3F800000).acc.toNat = .fin ⟨2 ^ 23, -23⟩ ∧
    (∀ v ∈ vals, v ≠ .nan ∧ ∀ b, v ≠ .inf b) ∧ (∀ k, k ≤ 1 → single (rowSum .f32 {} (fun _ => 0) (vals.take (16 * k))).1 ≠ .nan) ∧
    Dy.cmp ⟨2 ^ 23, -23⟩ (single (rowSum .f32 {} (fun _ => 0) (vals.take 16)).1).dy < 0 ∧
    ¬ Dy.cmp ⟨2 ^ 23, -23⟩ (([⟨1, 0⟩].foldl Dy.add ⟨0, 0⟩)) < 0 ∧ Dy.cmp ⟨2 ^ 23, -23⟩ ([⟨1, 0⟩, ⟨1, 1⟩].foldl Dy.add ⟨0, 0⟩) < 0 ∧
    (sampleRun s (e .tfind 0x3F800000) vals).acc = some 1 := by
  (repeat' apply And.intro) <;> decide +kernel

/-- SamplingIssue's climb: the root, a side that has arrived, one that has not, and one that completes its pair. -/
theorem test_wit_climbStep :
    let s (arr : Nat) : State :=
      let s := onTile0 id
      s.putAll (s.c.issuer 0) (tileKey ⟨false, 0, 0⟩ 0x400) (List.replicate 40 0 ++ leBytes 4 arr ++ List.replicate 20 0) 2
    let e : VEntry := { op := .tmass, block := 0x400, leaves := 2, iss := (s 0).c.issuer 2 }
    let ok (arr k : Nat) : Bool := (treeStep (s arr) e k 0x3F800000).toOption.isSome
    ok 0 0 = true ∧ ok 0 1 = true ∧ ok 2 1 = true ∧ ok 1 1 = false ∧ ((s 2).treeWord e.iss 0x428).toOption = some 2 := by
  (repeat' apply And.intro) <;> decide +kernel

/-- A dispatch context whose tree at 0x400 is climbed, with its two leaves and a total. -/
def treeAt (total : Nat) : State :=
  let s := withTable (reg (.p 0) 0x400)
  { s with mem := Mem.write s.mem (dispKey false 0x400) (leBytes 4 2 ++ leBytes 4 total ++ leBytes 4 1 ++ List.replicate 20 0 ++ leBytes 4 total) }

/-- What the descent asks of a tree block at 0x400 with a total. -/
def treeOk (s : State) (total : Nat) : Prop :=
  HasPoint s.c ∧ treeBlock 0 (s.c.issuer 5) s = .ok (0x400, s) ∧ loadWord4 (s.c.issuer 5) (0x400 + 8) s = .ok (1, s) ∧
    loadWord4 (s.c.issuer 5) (0x400 + 4) s = .ok (total, s) ∧ loadWord4 (s.c.issuer 5) 0x400 s = .ok (2, s) ∧ s.c.Takes .acc

/-- SamplingIssue: TDESC with a zero total, one that is no number, and the total 1. -/
theorem test_wit_tdesc : treeOk (treeAt 0) 0 ∧ (treeOk (treeAt 0x7FC00000) 0x7FC00000 ∧ (0x7FC00000 : Nat) ≠ 0 ∧ (f32Val 0x7FC00000).isNan = true) ∧
    treeOk (treeAt 0x3F800000) 0x3F800000 ∧ (0x3F800000 : Nat) ≠ 0 ∧ (f32Val 0x3F800000).isNan = false ∧
    (f32Val 0x3F800000).isInf = false ∧ isOk (descend ((treeAt 0x3F800000).c.issuer 5) 0x400 2 64 0 0x3F000000 0 (treeAt 0x3F800000)) = true := by
  (repeat' apply And.intro) <;> first
    | decide +kernel | exact okVal_eq (by decide +kernel) | exact rep_none rfl | exact no_jobs (by decide +kernel) | rfl

/-- SamplingIssue: a descent of one level, to the left. -/
theorem test_wit_descends : let s := treeAt 0x3F800000
    let i := s.c.issuer 5
    Descends i 0x400 2 0 0x3F000000 0 s 1 0x3F000000 0 s ∧ (single 0x3F800000 ≠ .nan) ∧ (∀ b, single 0x3F800000 ≠ .inf b) ∧
    (∃ b, single 0x7F800000 = .inf b) ∧ single 0x7FC00000 = .nan := by
  refine ⟨.left 0 0x3F000000 0x3F800000 0 1 0x3F000000 0 0 _ (treeAt 0x3F800000) (treeAt 0x3F800000) _ (by decide) (okVal_eq (by decide +kernel)) (okVal_eq (by decide +kernel))
    (.inr rfl) (.leaf 1 _ _ _ (by decide)), by decide +kernel, by decide +kernel, ⟨false, by decide +kernel⟩, by decide +kernel⟩

/-- A launch record of one tile, weight 1. -/
def rec64 : List Byte := List.replicate 16 0 ++ [1, 0, 0, 0, 0, 0, 0, 16] ++ List.replicate 40 0

/-- LaunchResult: a tile task's launch, and a dispatch core's with a tag that was launched before and with one that was not. -/
theorem test_wit_launch :
    (let s0 := onTile0 (reg (.p 0) 0x100)
     let s := s0.putAll (s0.c.issuer 0) (tileKey ⟨false, 0, 0⟩ 0x100) rec64 3
     s.c.isDisp = false ∧ launchAddr 0 s = .ok (0x100, s) ∧ s.isGraph 0x100 = false ∧ loadGranules (s.c.issuer s.c.defscope) 0x100 2 s = .ok (rec64, s) ∧
      badLaunch s rec64 (parseLaunch rec64) s.c.prv s.c.mayLaunch = none ∧
      seedOps (parseLaunch rec64).seedv (parseLaunch rec64).seedops s.c.seeds = .ok [] ∧ (s.queueOf (parseLaunch rec64)).length < 64 ∧ Released s) ∧
    ((onReset id).setTenant 0 { graph := some 0x40 }).isGraph 0x4000_0000_0040 = true ∧
    (let s := { onReset fun c => reg (.p 0) 0x100 (reg .acc 9 c) with mem := Mem.write [] (dispKey false 0x100) rec64, launchTags := [8] }
     s.c.isDisp = true ∧ s.c.Reads (.p (0 + s.c.stagger)) 0x100 ∧ s.c.Reads .acc 9 ∧ (9 : Word) ∉ s.launchTags ∧ (8 : Word) ∈ s.launchTags ∧
      launchAddr 0 s = .ok (0x100, s) ∧ s.isGraph 0x100 = false ∧ loadGranules (s.c.issuer s.c.defscope) 0x100 2 s = .ok (rec64, s) ∧
      badLaunch s rec64 (parseLaunch rec64) s.c.prv s.c.mayLaunch = none ∧
      seedOps (parseLaunch rec64).seedv (parseLaunch rec64).seedops s.c.seeds = .ok [] ∧ (s.queueOf (parseLaunch rec64)).length < 64 ∧ Released s) := by
  (repeat' apply And.intro) <;> first
    | decide +kernel | exact okVal_eq (by decide +kernel) | exact rep_none rfl | exact no_jobs (by decide +kernel) | rfl

/-- TaskQueueAndRank: a queue to be made, the rank's answers, and a region held by the core, handed to the core of rank 0. -/
theorem test_wit_queue : let r : CapRegion := { tenant := 0, index := 3, base := 0x4000_0000_0000, len := 1, holder := 1 }
    let s := { onTile0 (reg .acc 3) with caps := [r] }
    s.c.Reads .acc 3 ∧ s.c.Takes .acc ∧ (s.district s.c.dist).dq.length < 8 ∧ s.c.loc = some ⟨false, 0, 0⟩ ∧
    s.region s.c.tenant (bits (3 : Word) 7 0) = some r ∧ bit r.flags 7 = false ∧ some r.holder = s.c.place.code ∧ bits (3 : Word) 31 16 < s.c.nrank ∧
    ((s.launchOf s.c.launch).bind fun l => l.ranks[bits (3 : Word) 31 16]?).isSome = true ∧ s.writesInto s.c r = false ∧ Released s := by
  (repeat' apply And.intro) <;> first
    | decide +kernel | exact okVal_eq (by decide +kernel) | exact rep_none rfl | exact no_jobs (by decide +kernel) | rfl

/-- HaltYield: a strand that is over, on a reason tile and on a reflex tile, one with a command, and the two cases of YIELD. -/
theorem test_wit_halt :
    ((promised 9 0).hasCmd (promised 9 0).c.uid = true ∧ (promised 9 0).c.reports = [] ∧ ∀ b ∈ (promised 9 0).c.barReps, b.ch = none) ∧
    ((onTile0 (reg .acc 9)).c.onReflex = false ∧ (onTile0 (reg .acc 9)).c.isGuest = false ∧ (onTile0 (reg .acc 9)).c.Reads .acc 9) ∧
    ((onTile0 id).c.place = .tile ⟨false, 0, 0⟩ true ∧ (onTile0 id).c.kind = .task ∧ (retire 1 (onTile0 id)).longestParked ⟨false, 0, 0⟩ true = none) ∧
    State.reset.c.isDisp = true ∧
    ((withOther (.parked 0)).c.place = .tile ⟨false, 0, 0⟩ true ∧ (withOther (.parked 0)).c.kind = .task ∧
      (retire 1 (withOther (.parked 0))).longestParked ⟨false, 0, 0⟩ true = some (otherCtx (.parked 0)) ∧
      (otherCtx (.parked 0)).uid ≠ (withOther (.parked 0)).c.uid) := by
  (repeat' apply And.intro) <;> first
    | decide +kernel | exact okVal_eq (by decide +kernel) | exact rep_none rfl | exact no_jobs (by decide +kernel) | rfl

/-- HaltYield's Over, a vote's BARRIER being due. -/
theorem test_wit_over : Over (onTile0 fun c => { c with barReps := [{ obj := 5 }] }) := by
  (repeat' apply And.intro) <;> first | exact no_jobs (by decide +kernel) | decide +kernel

/-- CsrResult: the registers with waits, the last number of each level, DSIG on a dispatch core and on a tile, a number that is not assigned, a
supervisor register at U; VSHARE of a tile's core; a write of TENANT that gives no tile away. -/
theorem test_wit_csr : CsrOpen (two 5 0) 0x002 .fflags ∧ CsrOpen (two 5 0) 0x000 .status ∧ CsrOpen (two 5 0) 0x040 .sthr ∧ CsrOpen (two 5 0) 0x207 .dsig ∧
    CsrOpen (two 5 0) 0x100 .tenant ∧ Swept (two 5 0) .tenant 5 ∧ (two 5 0).c.Takes .acc ∧ (two 5 0).c.Reads .acc 5 ∧
    ((two 5 0).csrWrite .tenant 5).isSome = true ∧ CsrReg.ofNum 0x7FF = none ∧ (onTile0 id).c.isDisp = false ∧
    ((onTile0 id).c.place = .tile ⟨false, 0, 0⟩ true ∧ Loc.idx ⟨false, 0, 0⟩ < (onTile0 id).tiles.length) ∧
    (CsrReg.ofNum 0x100 = some .tenant ∧ (onReset fun c => { c with prv := .u }).c.prv.code < csrLevel 0x100) := by
  (repeat' first | apply And.intro) <;> first
    | decide +kernel | exact okVal_eq (by decide +kernel) | exact rep_none rfl | exact no_jobs (by decide +kernel) | rfl | (unfold Swept; decide +kernel)

/-! Witnesses: generations, banks, seizure, the debugger, TLBs, firmware, recovery. -/

/-- A supervisor's task on reason tile 0 with ACC and P0. -/
def superTask (a p0 : Word) : State := onTile0 fun c => { reg (.p 0) p0 (reg .acc a c) with prv := .s }

/-- GenerationResult: a fresh value; GENSET to the context's own GEN with empty GENRD, to generation 0, and at M. -/
theorem test_wit_generation : let g := (onTile0 id).c.gen
    let s := superTask (w64 (g.toNat * 2 ^ 30)) 0
    ((superTask 0 0).c.prv ≠ .u ∧ (superTask 0 0).c.isGuest = false ∧ (superTask 0 0).c.loc = some ⟨false, 0, 0⟩ ∧
      ((superTask 0 0).takeGen ⟨false, 0, 0⟩).isSome = true ∧ (superTask 0 0).c.Takes .acc) ∧
    (s.c.Reads .acc (w64 (g.toNat * 2 ^ 30)) ∧ g = BitVec.ofNat 10 ((w64 (g.toNat * 2 ^ 30)).toNat / 2 ^ 30) ∧ g ≠ 0 ∧ g ∈ s.genAllowed ∧
      ∀ i, i < 3 → BitVec.ofNat 10 ((w64 (g.toNat * 2 ^ 30)).toNat / 2 ^ (10 * i)) = (0 : Gen)) ∧
    ((superTask 0 0).c.prv = .s ∧ (superTask 0 0).c.Reads .acc 0 ∧ (0 : Gen) = BitVec.ofNat 10 ((0 : Word).toNat / 2 ^ 30)) ∧
    ((two 5 0).c.prv = .m ∧ (two 5 0).c.Reads .acc 5) := by
  (repeat' apply And.intro) <;> first
    | decide +kernel | exact okVal_eq (by decide +kernel) | exact rep_none rfl | exact no_jobs (by decide +kernel) | rfl

/-- A supervisor's task with another context in the shadow bank. -/
def shadowTask (p0 : Word) : State :=
  let s := withOther .shadow
  { s with tiles := s.tiles.take 1, others := [otherCtx .shadow], c := { reg (.p 0) p0 s.c with prv := .s, gen := 0, genrd := #v[s.c.gen, 0, 0] } }

/-- BankResult: a bank swap, also under deterministic mode. -/
theorem test_wit_banksw : let s := shadowTask 0x1000
    BanksHere s false ⟨false, 0, 0⟩ true ∧ s.shadowOf ⟨false, 0, 0⟩ true = some (otherCtx .shadow) ∧ s.c.role = .active ∧
    (otherCtx .shadow).uid ≠ s.c.uid ∧ (∀ x ∈ s.others, x.uid = (otherCtx .shadow).uid → x = otherCtx .shadow) ∧
    (otherCtx .shadow).det = false ∧ (let w : State := { s with others := [{ otherCtx .shadow with det := true, retired := 3 }] }
      w.shadowOf ⟨false, 0, 0⟩ true = some { otherCtx .shadow with det := true, retired := 3 }) := by
  (repeat' apply And.intro) <;> first
    | decide +kernel | exact okVal_eq (by decide +kernel) | exact rep_none rfl | exact no_jobs (by decide +kernel) | rfl

/-- BankResult: a block stored at the end of local storage. -/
theorem test_wit_shst : let s := shadowTask 0x13C000
    BanksHere s true ⟨false, 0, 0⟩ true ∧ (otherCtx .shadow).awaits = false ∧ s.c.vq = [] ∧ s.storesHeld s.c = false ∧ s.storesHeld (otherCtx .shadow) = false ∧
    BlockAt s 0 0x4000 true 0x13C000 0x13C000 := by
  (repeat' apply And.intro) <;> first
    | decide +kernel | exact okVal_eq (by decide +kernel) | exact rep_none rfl | exact no_jobs (by decide +kernel) | rfl

/-- BankResult: the store of that block. -/
theorem test_wit_shst_block : isOk (storeGranules ((shadowTask 0x13C000).c.issuer 1) 0x13C000 ((shadowTask 0x13C000).opaqueBytes 0x4000) 512
    (shadowTask 0x13C000)) = true := by decide +kernel

/-- A block of zeros that was saved here, its context off the core. -/
def savedTask : State :=
  let s := superTask 0 0x13C000
  let h := otherCtx .off
  { s with tiles := s.tiles.take 1, others := [h]
           saved := [{ key := 0x13C000, bytes := List.replicate 0x4000 0, tenant := s.c.tenant, tile := ⟨false, 0, 0⟩, task := s.c.task, ctxs := [h] }] }

/-- A granule that reads as zeros with nothing in the way. -/
def zeroGranule (i : Issuer) (va : Word) (s : State) : Bool :=
  match s.resolve i va.toNat .read with
  | .error _ => false
  | .ok r => r.tlb.isNone && !(s.acquires s.c || s.unitHazard s.c r.key 32 || s.pendingAt s.c r.key || s.busy (r.key / 32) false) &&
      (s.readFault i r va.toNat 32).isNone && (s.readBytes i r va.toNat 32 == List.replicate 32 0)

/-- Its load. -/
theorem load_zero {i : Issuer} {va : Word} {s : State} (h : zeroGranule i va s = true) : loadBytes i va 32 s = .ok (List.replicate 32 0, s) := by
  unfold zeroGranule at h
  cases hr : s.resolve i va.toNat .read with
  | error e => rw [hr] at h; cases h
  | ok r =>
    rw [hr] at h
    simp only [Bool.and_eq_true, Bool.not_eq_true', Option.isNone_iff_eq_none, beq_iff_eq] at h
    obtain ⟨⟨⟨ht, hc⟩, hf⟩, hb⟩ := h
    have hn : s.noteRes i r = s := by unfold State.noteRes; rw [ht]; split <;> first | rfl | contradiction
    have hl : loadAt i va 32 s = .ok (r, s) := by
      unfold loadAt access atHome readTraps
      simp [hr, hn, hc, hf]
    unfold loadBytes
    rw [M.bind_ok hl, M.get_bind, hb]
    rfl

/-- The load of granules of zeros. -/
theorem load_zeros {i : Issuer} {s : State} : ∀ (n : Nat) (va : Word), (∀ k, k < n → zeroGranule i (va + 32 * BitVec.ofNat 64 k) s = true) →
    loadGranules i va n s = .ok (List.replicate (32 * n) 0, s)
  | 0, _, _ => rfl
  | n + 1, va, h => by
    have h0 := load_zero (h 0 (by omega))
    have h1 := load_zeros n (va + 32) fun k hk => by
      have := h (k + 1) (by omega)
      rwa [show va + 32 * BitVec.ofNat 64 (k + 1) = va + 32 + 32 * BitVec.ofNat 64 k from by
        rw [BitVec.ofNat_add, BitVec.mul_add, BitVec.add_assoc, BitVec.add_comm (32 * BitVec.ofNat 64 k)]; rfl] at this
    rw [show va + 32 * BitVec.ofNat 64 0 = va from by simp] at h0
    rw [loadGranules, M.bind_ok h0, M.bind_ok h1, M.pure_at, List.replicate_append_replicate, Nat.add_comm 32, Nat.mul_add]

/-- BankResult: SHLD of the saved context, which is off the core, has ended, or is gone, and of a block that was not saved. -/
theorem test_wit_shld : let s := savedTask
    BanksHere s false ⟨false, 0, 0⟩ true ∧ s.shadowOf ⟨false, 0, 0⟩ true = none ∧ BlockAt s 0 0x4000 true 0x13C000 0x13C000 ∧
    (s.saved.map fun x => decide (x.tenant = s.c.tenant && x.tile = ⟨false, 0, 0⟩ && x.task = s.c.task)) = [true] ∧
    (s.ctxOf 77).map (fun c => (c.role, c.halted)) = some (.off, false) ∧ (({ s with others := [{ otherCtx .off with halted := true }] } : State).ctxOf 77).map (fun c => c.halted) = some true ∧
    ({ s with others := [] } : State).ctxOf 77 = none ∧ (superTask 0 0x13C000).saved = [] := by
  (repeat' apply And.intro) <;> first
    | decide +kernel | exact okVal_eq (by decide +kernel) | exact rep_none rfl | exact no_jobs (by decide +kernel) | rfl

/-- BankResult: the load of that block. -/
theorem test_wit_shld_block : loadGranules (savedTask.c.issuer 1) 0x13C000 512 savedTask = .ok (List.replicate 0x4000 0, savedTask) :=
  load_zeros 512 0x13C000 fun k hk => by
    have h : ((List.range 512).all fun k => zeroGranule (savedTask.c.issuer 1) (0x13C000 + 32 * BitVec.ofNat 64 k) savedTask) = true := by
      decide +kernel
    exact List.all_eq_true.mp h k (List.mem_range.mpr hk)

/-- BankResult: an image of zeros. -/
theorem test_wit_image : let s := superTask 0 0x13FF00
    BanksHere s false ⟨false, 0, 0⟩ true ∧ s.shadowOf ⟨false, 0, 0⟩ true = none ∧ BlockAt s 0 256 false 0x13FF00 0x13FF00 ∧
    loadGranules (s.c.issuer 1) 0x13FF00 8 s = .ok (List.replicate 256 0, s) ∧ (parseImage (List.replicate 256 0)).isSome = true ∧ parseImage (List.replicate 0xBC 0 ++ [1] ++ List.replicate 67 0) = none := by
  (repeat' apply And.intro) <;> first
    | decide +kernel | exact okVal_eq (by decide +kernel) | exact rep_none rfl | exact no_jobs (by decide +kernel) | rfl

/-- A task of the reflex array at S whose tenant may seize reason tile 0, with K0 and ACC. -/
def seizer (k0 a cfg : Word) : State :=
  let s := onTile0 fun c => { reg (.k 0) k0 (reg .acc a c) with prv := .s, place := .tile ⟨true, 0, 0⟩ true }
  { s with seizecfg := cfg }

/-- SeizeResult: seizure named and not named, release, arming with images of zeros and with images in no order. -/
theorem test_wit_seize : let s := seizer 1 0x400 (2 ^ 63 + 1)
    let bad := s.putAll (s.c.issuer 0) (tileKey ⟨true, 0, 0⟩ 0x400) (List.replicate 0xBC 0 ++ [1]) 9
    let free := maskOf (fun l => s.hasTile l && s.inService l && (s.tile l).seizedBy.isNone && (s.tile l).held.isNone && !s.shadowed l) 1
    (s.c.prv ≠ .u ∧ s.c.onReflex = true ∧ s.c.isGuest = false ∧ s.c.Reads (.k 0) 1 ∧ bit s.seizecfg 63 = true ∧ bits s.seizecfg 55 52 = s.c.tenant ∧
      (∀ i, i < 64 → (1 : Word).getLsbD i = true → i < 48 ∧ s.seizecfg.getLsbD i = true) ∧ s.c.Takes .acc) ∧
    (s.c.Reads .acc 0x400 ∧ (0x400 : Word).toNat % 64 = 0 ∧ (0x400 : Word).toNat + 512 ≤ localSize (s.c.issuer 0)) ∧
    (hardwareRead 0x400 16 s = .ok (List.replicate 512 0, s) ∧ isOk (armTiles {} {} (maskTiles free) s) = true) ∧
    (hardwareRead 0x400 16 bad = .ok (List.replicate 0xBC 0 ++ [(1 : Byte)] ++ List.replicate 323 0, bad) ∧
      parseImage ((List.replicate 0xBC 0 ++ [(1 : Byte)] ++ List.replicate 323 0).take 256) = none) ∧
    ((seizer 1 0 0).c.Reads (.k 0) 1 ∧ bit (seizer 1 0 0).seizecfg 63 = false) ∧ (onTile0 id).c.onReflex = false := by
  (repeat' apply And.intro) <;> first
    | decide +kernel | exact okVal_eq (by decide +kernel) | exact rep_none rfl | exact no_jobs (by decide +kernel) | rfl

/-- A tile's arming under generation 3. -/
def anArming : Arming := { launch := 0, tenant := 0, gen := 3, rank := 0, nrank := 1, sc := {}, ic := {} }

/-- The dispatch context at the last 8 bytes of reason tile 0, whose arming is `x`, with a generation word. -/
def debugger (g : Word) (x : Option Arming) : State :=
  let s := onReset fun c => reg (.p 1) g (reg (.p 0) 0x17FFF8 (reg .acc 5 c))
  s.setTile ⟨false, 0, 0⟩ { s.tile ⟨false, 0, 0⟩ with arming := x }

/-- DebugResult: those bytes at M, near and late, under a generation given and under that of the arming. -/
theorem test_wit_debug : let r : Res := { key := tileKey ⟨false, 0, 0⟩ 0x17FFF8, gran := true, far := true }
    let ok (g : Word) (s : State) : Prop := s.c.prv = .m ∧ s.c.Reads (.p (1 + s.c.stagger)) g ∧ DebugAt s 0 true 0x17FFF8 r ∧ s.c.Reads .acc 5
    let x := some anArming
    ok 0 (debugger 0 none) ∧ DebugAt (debugger 0 none) 0 false 0x17FFF8 r ∧ (debugger 0 none).c.Takes .acc ∧
    (debugger 0 none).c.Settled ⟨false, true, false, false⟩ ∧ ((debugger 0 none).slow && r.far) = false ∧
    ((({ debugger 0 none with slow := true } : State).slow) && r.far) = true ∧ bit (0 : Word) 11 = false ∧ bit (0x800 : Word) 11 = true ∧
    (ok 0x800 (debugger 0x800 x) ∧ ((debugger 0x800 x).tile ⟨false, 0, 0⟩).arming = x) ∧
    (ok 0x800 (debugger 0x800 none) ∧ ((debugger 0x800 none).tile ⟨false, 0, 0⟩).arming = none) := by
  (repeat' first | apply And.intro | apply DebugAt.mk) <;> first | decide +kernel | rfl

/-- TlbinvResult: the first and last addresses of the tenant window. -/
theorem test_wit_tlbinv : let s (a : Word) := two a 0
    (s 5).storesHeld (s 5).c = false ∧ (∀ j ∈ (s 5).c.jobs, match j with
      | .atomic _ | .page .. => False
      | _ => True) ∧ (s 5).c.prv ≠ .u ∧ (s 5).c.prv = .m ∧
    (s 0x4000_0000_0000).c.Reads .acc 0x4000_0000_0000 ∧ (s 0x7FFF_FFFF_FFFF).c.Reads .acc 0x7FFF_FFFF_FFFF := by
  (repeat' apply And.intro) <;> first
    | decide +kernel | exact okVal_eq (by decide +kernel) | exact rep_none rfl | exact no_jobs (by decide +kernel) | rfl

/-- FirmwareResult: a record from the last place of local memory and of the second part; an area at the end of DRAM; the kick scans. -/
theorem test_wit_firmware : let s := two 0x200 0x7_FFC8
    let top := w64 (State.reset.dramBytes - 0x3_0000)
    (s.c.prv = .m ∧ s.c.Reads .acc 0x200 ∧ s.c.Reads (.p (0 + s.c.stagger)) 0x7_FFC8 ∧ (ringAddress (s.c.desc (0 + s.c.stagger)) 0x7_FFC8 0).toNat % 8 = 0 ∧
      (ringAddress (s.c.desc (0 + s.c.stagger)) 0x7_FFC8 0).toNat + 56 ≤ 0x8_0000 ∧ (s.jrnlHead + 1) % 8192 ≠ s.jrnlCkpt ∧ Released s) ∧
    ((two 5 0x20_0048).c.Reads (.p (0 + s.c.stagger)) 0x20_0048 ∧ 0x10_0000 ≤ (0x20_0048 : Word).toNat ∧ (0x20_0048 : Word).toNat + 56 ≤ 0x20_0080) ∧
    ((two 0x200 top).c.Reads (.p (0 + s.c.stagger)) top ∧ top.toNat % 4096 = 0 ∧ top.toNat + 0x3_0000 ≤ (two 0x200 top).dramBytes ∧
      (0x200 : Word).getLsbD 12 = false ∧ (two 0x200 top).c.Takes .acc) ∧
    (s.kicks = 0 ∧ let k := { s with kicks := 1, kickNext := 1 }
      (63 < 64 ∧ k.kicks.getLsbD ((k.kickNext + 63) % 64) = true ∧ ∀ j, j < 63 → k.kicks.getLsbD ((k.kickNext + j) % 64) = false)) := by
  (repeat' apply And.intro) <;> first
    | decide +kernel | exact okVal_eq (by decide +kernel) | exact rep_none rfl | exact no_jobs (by decide +kernel) | rfl

/-- RecoveryResult: tile 0's issuing core, present, killed or not; a core that is absent; the injector on, off and absent. -/
theorem test_wit_recovery : let n : CoreName := ⟨⟨false, 0, 0⟩, false⟩
    let s := two 0 0
    let k := s.setCore n { s.coreAt n with killed := true }
    let w := s.setCore n { s.coreAt n with forced := true }
    (s.c.prv = .m ∧ s.c.Reads .acc 0 ∧ (⟨⟨(0 : Word).getLsbD 12, bits (0 : Word) 11 9, bits (0 : Word) 8 6⟩, (0 : Word).getLsbD 5⟩ : CoreName) = n ∧
      s.hasTile n.tile = true ∧ (s.coreAt n).killed = false ∧ (k.coreAt n).killed = true ∧ k.c.Reads .acc 0 ∧ s.c.waitFrom = none) ∧
    ((s.coreAt n).forced = false ∧ (w.coreAt n).forced = true ∧ w.c.Reads .acc 0 ∧
      ({ w with c := { w.c with waitFrom := some 0 }, cyc := 1024 } : State).c.waitFrom = some 0 ∧ 0 + 1024 ≤ 1024) ∧
    ((two 0x1E00 0).c.Reads .acc 0x1E00 ∧
      (two 0x1E00 0).hasTile ⟨(0x1E00 : Word).getLsbD 12, bits (0x1E00 : Word) 11 9, bits (0x1E00 : Word) 8 6⟩ = false) := by
  (repeat' apply And.intro) <;> first
    | decide +kernel | exact okVal_eq (by decide +kernel) | exact rep_none rfl | exact no_jobs (by decide +kernel) | rfl

/-- A dispatch context beside a task on reason tile 0. -/
def beside : State := { tileZero with c := State.reset.c, others := (tileZero.others.filter fun c => c.uid ≠ 0) ++ [tileZero.c] }

/-- FirmwareAndRecovery's kills: a core with a context, not killed and killed; a core that has none. -/
theorem test_wit_kill : let n : CoreName := ⟨⟨false, 0, 0⟩, true⟩
    let m : CoreName := ⟨⟨true, 1, 7⟩, false⟩
    beside.c.isDisp = true ∧ (∀ c ∈ beside.others, c.uid ≠ beside.c.uid) ∧ n.tile.idx < beside.tiles.length ∧ (beside.coreAt n).killed = false ∧
    ((beside.setCore n { beside.coreAt n with killed := true }).coreAt n).killed = true ∧
    (endedBy beside fun c => decide (c.place = .tile n.tile n.ic)).length = 2 ∧ (endedBy beside fun c => decide (c.place = .tile m.tile m.ic)) = [] ∧
    (beside.kill n).1 = 2 ∧ beside.tasks = [task0] ∧ ((beside.launches.map fun l => l.ranks.length) = [1]) := by
  (repeat' apply And.intro) <;> decide +kernel

/-! Witnesses: the rows of a context's own units. -/

/-- LateRows: a fill, TDESC's leaf, a store, a load, a load that meets poison, one of a rank under the lock. -/
theorem test_wit_lateRows : let i := State.reset.c.issuer 2
    let l := Job.load i .ld 0 (.inl ⟨0x7_FFF8, .i64⟩) none
    let r : Res := { key := dispKey false 0x7_FFF8 }
    let s := withJobs [l]
    let bad := s.setGran (r.key / 32) { poison := true }
    (withJobs [.fill 5 {} 0]).c.jobs = .fill 5 {} 0 :: [] ∧ (withJobs [.leaf 5 1 1 0 0]).c.jobs = .leaf 5 1 1 0 0 :: [] ∧
    ((withJobs [.store 0 [1]]).c.jobs = .store 0 [1] :: [] ∧ (withJobs [.store 0 [1]]).busy (0 / 32) true = false) ∧
    (s.c.jobs = l :: [] ∧ s.resolve i (0x7_FFF8 : Word).toNat .read = .ok r ∧ s.busy (r.key / 32) false = false ∧ s.readFault i r (0x7_FFF8 : Word).toNat (ETy.bytes .i64) = none) ∧
    (bad.c.jobs = l :: [] ∧ bad.resolve i (0x7_FFF8 : Word).toNat .read = .ok r ∧ bad.busy (r.key / 32) false = false ∧ bad.readFault i r (0x7_FFF8 : Word).toNat (ETy.bytes .i64) = some 0x13 ∧ bad.c.canTrap = true) ∧
    (let l := Job.load i .ld 0 (.inl ⟨0x8000_0000_0000, .i64⟩) none
     (withJobs [l]).c.jobs = l :: [] ∧ isOk ((withJobs [l]).resolve i (0x8000_0000_0000 : Word).toNat .read) = false) := by
  (repeat' apply And.intro) <;> first
    | decide +kernel | exact okVal_eq (by decide +kernel) | exact rep_none rfl | exact no_jobs (by decide +kernel) | rfl

/-- WaitRows: a synchronising load, a store and a MAC that waited for their granules. -/
theorem test_wit_syncServed : let i : Instr := .ld {} (.mem ⟨.sync, 0, 0⟩)
    let j : Instr := .st {} ⟨.sync, 0, 0⟩
    let at' (f : Bool) (i : Instr) : State :=
      let s := withInstr i (onTile0 fun c => { reg (.p 0) 0x1000 (reg .acc 3 c) with stalled := true, pd := c.pd.map fun d => { d with ty := 6 } })
      let s := if f then s else s.setFull (tileKey ⟨false, 0, 0⟩ 0x1000 / 32) s.c.gen none false
      { s with waiters := [{ uid := s.c.uid, key := tileKey ⟨false, 0, 0⟩ 0x1000 / 32, store := !f }] }
    (goesOn i (at' true i) = true ∧ (at' true i).waiters.any (fun w => w.uid = (at' true i).c.uid && !w.sem) = true) ∧
    (goesOn j (at' false j) = true ∧ (at' false j).waiters.any (fun w => w.uid = (at' false j).c.uid && !w.sem) = true) ∧
    (AluOp.ld, Instr.ld) ∈ layoutS := by
  (repeat' apply And.intro) <;> first
    | decide +kernel | exact okVal_eq (by decide +kernel) | exact rep_none rfl | exact no_jobs (by decide +kernel) | rfl | simp [layoutS]

/-- WaitRows: a synchronising store and a load that are served: their granules, their turn. -/
theorem test_wit_served : let g := tileKey ⟨false, 0, 0⟩ 0x1000 / 32
    let r : Res := { key := tileKey ⟨false, 0, 0⟩ 0x1000, gran := true }
    let at' (f : Bool) (i : Instr) : State :=
      let s := withInstr i (onTile0 fun c => { reg (.p 0) 0x1000 (reg .acc 3 c) with stalled := true, pd := c.pd.map fun d => { d with ty := 6 } })
      let s := if f then s else s.setFull g s.c.gen none false
      { s with waiters := [{ uid := s.c.uid, key := g, store := !f }] }
    let ok (f : Bool) (i : Instr) : Prop := let s := at' f i
      s.c.stalled = true ∧ s.waiters.any (fun w => w.uid = s.c.uid && !w.sem) = true ∧ s.c.Reads .acc 3 ∧
        AddressOf {} s (repIndex {} s) ⟨.sync, 0, 0⟩ .i64 0x1000 0x1000 ∧ SyncPlace s s (s.c.issuer (s.c.scopeOf {})) 0x1000 8 f r ∧ s.fetch.1 = .instr i
    ok false (.st {} ⟨.sync, 0, 0⟩) ∧ (at' false (.st {} ⟨.sync, 0, 0⟩)).storesHeld (at' false (.st {} ⟨.sync, 0, 0⟩)).c = false ∧
    (∀ j ∈ (at' false (.st {} ⟨.sync, 0, 0⟩)).c.jobs, match j with
      | .load .. | .atomic _ | .page .. => False
      | _ => True) ∧
    ok true (.ld {} (.mem ⟨.sync, 0, 0⟩)) ∧ (at' true (.ld {} (.mem ⟨.sync, 0, 0⟩))).c.Settled ⟨true, true, true, true⟩ ∧ (AluOp.ld, Instr.ld) ∈ layoutS := by
  (repeat' first | apply And.intro | apply ElementAt.mk | apply SyncPlace.mk) <;> first
    | decide +kernel | exact no_jobs (by decide +kernel) | rfl | simp [layoutS]

/-- WaitRows: MWAIT's limit reached at once and its spurious end after 4,096 cycles of waiting. -/
theorem test_wit_mwaitRows : let s := onReset fun c => { reg .acc 0 c with inMwait := true, monitor := some 4 }
    let w : State := onReset fun c => { c with inMwait := true, spurious := some 4096 }
    (s.c.inMwait = true ∧ s.c.monHit = false ∧ s.c.monitor ≠ none ∧ s.c.monLost = false ∧ s.c.Reads .acc s.c.acc.val ∧
      s.c.acc.val.toNat ≤ s.c.waited s.cyc) ∧
    (w.c.inMwait = true ∧ ∀ n, w.c.spurious = some n → 4096 ≤ n) := by
  refine ⟨?_, rfl, fun n h => ?_⟩
  · (repeat' apply And.intro) <;> decide +kernel
  · cases h; decide

/-- WaitRows: SLEEPT on a channel and on a time, BARW. -/
theorem test_wit_wakes : let z (i : Instr) : State := withInstr i (onTile0 fun c => { reg .acc 0 c with stalled := true })
    let b : State :=
      let s := onTile0 fun c => { reg .acc 3 c with stalled := true, wres := true, wph := true }
      withInstr .barw (s.setBarrier s.c.dist 3 { grant := some s.c.launch, expect := 2 })
    goesOn (.sleept 2) (z (.sleept 2)) = true ∧ goesOn .sleeptT (z .sleeptT) = true ∧ goesOn .barw b = true ∧ b.c.wres = true := by
  (repeat' apply And.intro) <;> first
    | decide +kernel | exact okVal_eq (by decide +kernel) | exact rep_none rfl | exact no_jobs (by decide +kernel) | rfl

/-- WaitRows: the waits that are over: SLEEPT on a time, on a channel and for its end, BARW after its phase. -/
theorem test_wit_waitsOver : let z (a : Word) (i : Instr) : State := withInstr i (onTile0 fun c => { reg .acc a c with stalled := true })
    let b : State :=
      let s := onTile0 fun c => { reg .acc 3 c with stalled := true, wres := true, wph := true }
      withInstr .barw (s.setBarrier s.c.dist 3 { grant := some s.c.launch, expect := 2 })
    ((z 0 .sleeptT).c.Reads .acc 0 ∧ (z 0 .sleeptT).fetch.1 = .instr .sleeptT ∧ (0 : Word).toNat ≤ (z 0 .sleeptT).cyc) ∧
    ((z 0 (.sleept 2)).fetch.1 = .instr (.sleept 2) ∧ (z 0 (.sleept 2)).c.mayChan 2 = true ∧ (z 0 (.sleept 2)).c.reports = [] ∧
      (z 0 (.sleept 2)).c.barReps = [] ∧ (z 0 (.sleept 2)).chanTimes (z 0 (.sleept 2)).c 2 = []) ∧
    ((z allOnes (.sleept 2)).c.Reads .acc allOnes ∧ (z allOnes (.sleept 2)).chanTimes (z allOnes (.sleept 2)).c 2 = []) ∧
    (b.c.wres = true ∧ b.c.isGuest = false ∧ (b.barrier b.c.dist (bits (3 : Word) 4 0)).grant = some b.c.launch ∧
      (b.barrier b.c.dist (bits (3 : Word) 4 0)).phase ≠ b.c.wph ∧ b.c.Reads .acc 3) := by
  (repeat' apply And.intro) <;> first | decide +kernel | rfl

/-- AtomicRows: an atomic on the dispatch core's memory, one with a tagged response at its limit, a refusal, stash instructions. -/
theorem test_wit_atomicRows : let r : AtomReq := { iss := State.reset.c.issuer 5, op := .cas, el := ⟨0x4000_0000_0000, .i64⟩, v := 0, swap := 5, order := 0, nr := false }
    let res : Res := { key := 0, far := true, dram := true }
    let s := withJobs [.atomic r]
    let t : State := { withJobs [.atomic { r with tag := some 7 }] with cyc := 65536 }
    (s.c.jobs = .atomic r :: [] ∧ r.tag = none ∧ s.resolve r.iss r.el.ea.toNat .rmw = .ok res ∧ s.busy (res.key / 32) true = false ∧
      s.atomRefusal r res = none) ∧
    (withJobs [.atomicRefused r 3]).c.jobs = .atomicRefused r 3 :: [] ∧ r.nr = false ∧
    (t.c.jobs = .atomic { r with tag := some 7 } :: [] ∧ 0 + 65536 ≤ t.cyc) ∧
    ((withJobs [.stash .spf none]).c.jobs = .stash .spf none :: []) ∧
    ((withJobs [.stash .swb (some 4)]).c.jobs = .stash .swb (some 4) :: [] ∧ ∀ k, some 4 = some k →
      (withJobs [.stash .swb (some 4)]).ownedData k = false ∧ (withJobs [.stash .swb (some 4)]).ownedObj k = false) := by
  (repeat' apply And.intro) <;> first
    | decide +kernel | exact okVal_eq (by decide +kernel) | exact rep_none rfl | exact no_jobs (by decide +kernel) | rfl

/-- A vector entry that copies one element from an address to 0x1000. -/
def copyEntry (src : Nat) : VEntry :=
  { op := .mov, d := some (shape1 0x1000 .i64 6 1), a := some (shape1 src .i64 6 1), iss := (onTile0 id).c.issuer 2 }

/-- A task with a vector queue. -/
def withVq (l : List VEntry) : State := onTile0 fun c => { c with vq := l }

/-- QueueRows: a vector entry that is performed, one whose source is not translated. -/
theorem test_wit_vectorRows :
    ((withVq [copyEntry 0x1100]).vhead = some (copyEntry 0x1100, []) ∧ (withVq [copyEntry 0x1100]).pick = 0 ∧
      ∃ w ff acc, vheadRun (withVq [copyEntry 0x1100]) (copyEntry 0x1100) = some { s := w, ff := ff, acc := acc }) ∧
    ((withVq [copyEntry 0x4000_0000_0000]).vhead = some (copyEntry 0x4000_0000_0000, []) ∧ (copyEntry 0x4000_0000_0000).op.isSample = false ∧
      ∃ w ff acc ord c va, vheadRun (withVq [copyEntry 0x4000_0000_0000]) (copyEntry 0x4000_0000_0000) =
        some { s := w, ff := ff, acc := acc, stop := some (ord, c, va) }) := by
  (repeat' apply And.intro) <;> first
    | decide +kernel | exact okVal_eq (by decide +kernel) | exact rep_none rfl | exact no_jobs (by decide +kernel) | rfl | exact vdone_of (by decide +kernel) | exact vstop_of (by decide +kernel)

/-- A matrix entry that multiplies one element from two addresses. -/
def mulEntry (op : MOp) (src : Nat) : MEntry :=
  { op := op, bank := 0, a := some (shape1 src .i8 0 4), b := some (shape1 0x1100 .i8 0 4), mgeo0 := 0x10101, iss := (onTile0 id).c.issuer 2 }

/-- A task with a matrix queue. -/
def withMq (l : List MEntry) : State := onTile0 fun c => { c with mq := l }

/-- QueueRows: a matrix entry that is performed, one whose source is not translated. -/
theorem test_wit_matrixRows :
    ((withMq [mulEntry .mmmask 0]).mhead = some (mulEntry .mmmask 0, []) ∧ (withMq [mulEntry .mmmask 0]).pick = 0 ∧
      ∃ w ff k, (mulEntry .mmmask 0).run (withMq [mulEntry .mmmask 0]) = some { s := w, ff := ff, n := k }) ∧
    ((withMq [mulEntry .mma 0x4000_0000_0000]).mhead = some (mulEntry .mma 0x4000_0000_0000, []) ∧
      ∃ w ff k x, (mulEntry .mma 0x4000_0000_0000).run (withMq [mulEntry .mma 0x4000_0000_0000]) = some { s := w, ff := ff, n := k, stop := some x }) := by
  (repeat' apply And.intro) <;> first
    | decide +kernel | exact okVal_eq (by decide +kernel) | exact rep_none rfl | exact no_jobs (by decide +kernel) | rfl | exact mdone_of (by decide +kernel) | exact mstop_of (by decide +kernel)

/-- A climb of a tree at 0x400 at its second position. -/
def climbing : VEntry :=
  { op := .tmass, a := some (shape1 0x1100 .f32 0x0A 4), block := 0x400, leaves := 2, climb := some (some 1, 0x3F800000, 0x3F800000), iss := (onTile0 id).c.issuer 2 }

/-- QueueRows: an update of a tree. -/
theorem test_wit_climb : (withVq [climbing]).vhead = some (climbing, []) ∧
    ∃ w e x, climbStart (withVq [climbing]) climbing = some (w, e) ∧ climbRun w e = some (.ok x) := by
  refine ⟨by decide +kernel, withVq [climbing], climbing, ?_⟩
  have h : ((climbRun (withVq [climbing]) climbing).any isOk) = true := by decide +kernel
  rcases hr : climbRun (withVq [climbing]) climbing with _ | _ | x
  · rw [hr] at h; cases h
  · rw [hr] at h; cases h
  · exact ⟨x, by decide +kernel, rfl⟩

/-- QueueRows: a climb whose side has arrived already. -/
theorem test_wit_climbStop : let s := (withVq [climbing]).putAll ((withVq [climbing]).c.issuer 0) (tileKey ⟨false, 0, 0⟩ 0x428) (leBytes 4 1) 1
    s.vhead = some (climbing, []) ∧ climbStart s climbing = some (s, climbing) ∧ climbRun s climbing = some (.error (.fault 0x31 0x420)) := by
  refine ⟨by decide +kernel, by decide +kernel, ?_⟩
  generalize e : climbRun _ _ = r
  have h : (match climbRun ((withVq [climbing]).putAll ((withVq [climbing]).c.issuer 0) (tileKey ⟨false, 0, 0⟩ 0x428) (leBytes 4 1) 1) climbing with
    | some (.error (.fault c v)) => c == 0x31 && v == 0x420
    | _ => false) = true := by decide +kernel
  rw [e] at h
  split at h
  · simp only [Bool.and_eq_true, beq_iff_eq] at h
    rw [h.1, h.2]
  · cases h

/-- A task at an instruction that closes window 7 and waits. -/
def atClose (i : Instr) : State :=
  let s := onTile0 fun c => { reg .acc 64 c with esEn := true, esWin := 7, stalled := true, inClose := true }
  withInstr i (s.setWin 7 { s.win 7 with open_ := true, joined := 1 })

/-- QueueRows: a commit and an abort that end. -/
theorem test_wit_close : ((atClose (.escommit 7)).c.runs = true ∧ (atClose (.escommit 7)).c.stalled = true ∧ (atClose (.escommit 7)).c.inClose = true ∧
      (atClose (.escommit 7)).fetch.1 = .instr (.escommit 7) ∧ isOk (escommitOp 7 (atClose (.escommit 7)).fetch.2) = true) ∧
    ((atClose (.esabort 7)).fetch.1 = .instr (.esabort 7) ∧ isOk (esabortOp 7 (atClose (.esabort 7)).fetch.2) = true) := by
  (repeat' apply And.intro) <;> first
    | decide +kernel | exact okVal_eq (by decide +kernel) | exact rep_none rfl | exact no_jobs (by decide +kernel) | rfl

/-- BudgetRows: a thread with one cycle left, one whose grace is over, a window of requests on the last tile, the last tile's units. -/
theorem test_wit_budget : let s (g : Option Nat) : State := onTile0 fun c => { c with kind := .thread 0 0 0, rbudget := 1, grace := g }
    let t0 := (onTile0 id).tile (Loc.ofIdx 63)
    let w : State := { (onTile0 id).setTile (Loc.ofIdx 63) { t0 with fpWindow := [(0, (onTile0 id).c.uid)] } with cyc := 64, pick := 63 }
    ((s none).c.isThread = true ∧ (s none).c.role = .active ∧ 0 < (s none).c.rbudget ∧ (s none).calm = true ∧ (s none).ewq = []) ∧
    ((s (some 0)).c.isThread = true ∧ (s (some 0)).c.runs = true ∧ (s (some 0)).c.grace = some 0 ∧ (s (some 0)).c.place = .tile ⟨false, 0, 0⟩ true) ∧
    (w.pick < 64 ∧ w.tiles.length = 64 ∧ w.windowDue (Loc.ofIdx w.pick) = some 0 ∧ (0, w.c.uid) ∈ (w.tile (Loc.ofIdx w.pick)).fpWindow) ∧
    ({ w with cyc := 1024 } : State).cyc % 1024 = 0 := by
  (repeat' apply And.intro) <;> first
    | decide +kernel | exact okVal_eq (by decide +kernel) | exact rep_none rfl | exact no_jobs (by decide +kernel) | rfl

/-! Witnesses: the rows of the units that contexts share. -/

/-- A copy command of 4 elements from an address to 0x1000, on channel 1 of reason tile 0. -/
def copyCmd (src filled : Nat) : Cmd :=
  { op := .cpy, d := shape1 0x1000 .i64 6 4, a := shape1 src .i64 6 4, dests := [0], iss := (onTile0 id).c.issuer 2, started := true, filled := filled, num := 9 }

/-- The task with the command on its channel. -/
def copying (k : Cmd) : State := (onTile0 id).setChan ⟨false, 0, 0⟩ 1 { active := some k }

/-- EngineRows: a fill, the end of the fills, a source that is not translated, a streaming source at its end. -/
theorem test_wit_engine : let t : Loc := ⟨false, 0, 0⟩
    (((copying (copyCmd 0x1100 0)).chan t 1).running = some (copyCmd 0x1100 0) ∧
      ((copyCmd 0x1100 0).fillLine (copying (copyCmd 0x1100 0)) 1).isSome = true ∧ (copyCmd 0x1100 0).d.strm = false) ∧
    (((copying (copyCmd 0x1100 1)).chan t 1).running = some (copyCmd 0x1100 1) ∧ (copyCmd 0x1100 1).fills ≤ (copyCmd 0x1100 1).filled ∧
      (copyCmd 0x1100 1).a.strm = false) ∧
    (let k := copyCmd 0x4000_0000_0000 0
     let s := copying k
     (s.chan t 1).running = some k ∧ k.firstBad s 1 k.next = some (0, 0, .fault 0x05 0x4000_0000_0000) ∧ k.next = [0, 1, 2, 3] ∧ s.stopHeld k.iss 1 = false ∧ s.creditHeld k.target k.num = false ∧ (∀ m ∈ k.next, 0 ≤ m) ∧
       ∃ f, k.source s 1 0 = .error f) ∧
    (let k : Cmd := { copyCmd 0x1100 1 with a := { shape1 0x1100 .i64 6 4 with strm := true } }
     ((copying k).chan t 1).running = some k ∧ k.fills ≤ k.filled ∧ k.a.strm = true) := by
  (repeat' apply And.intro) <;> first
    | decide +kernel | exact okVal_eq (by decide +kernel) | exact rep_none rfl | exact no_jobs (by decide +kernel) | rfl | exact isError_eq (by decide +kernel)

/-- A participant of a collective. -/
def coll1 (rank n base : Nat) : Coll :=
  { launch := 1, ic := true, k := 1, rank := rank, op := 0, d := shape1 base .i64 6 n, a := shape1 (base + 0x100) .i64 6 n
    iss := { (onTile0 id).c.issuer 2 with rank := rank, nrank := 2, prv := .s }, target := .none, sat := false, num := 9 + rank }

/-- The task with the participants of two ranks. -/
def collecting (l : List Coll) : State := { onTile0 id with colls := l }

/-- EngineRows: participants that agree, and that do not. -/
theorem test_wit_collectives : let a := [coll1 0 4 0x1000, coll1 1 4 0x2000]
    let b := [coll1 0 4 0x1000, coll1 1 5 0x2000]
    ((collecting b).colls[(collecting b).pick]? = some (coll1 0 4 0x1000) ∧ (collecting b).partners (coll1 0 4 0x1000) = some b ∧ agree b = false ∧
      ∀ x ∈ b, (collecting b).creditHeld x.target x.num = false ∧ (collecting b).stopHeld x.iss ((collecting b).collChanOf x) = false) ∧
    ((collecting a).colls[(collecting a).pick]? = some (coll1 0 4 0x1000) ∧ (collecting a).partners (coll1 0 4 0x1000) = some a ∧ agree a = true ∧
      ((collRun (fun _ => collecting a) a a (collecting a)).map fun r => r.2.map fun x => x.2.2) = some [none, none] ∧
      ∀ x ∈ a, (collecting a).creditHeld x.target x.num = false ∧ (collecting a).stopHeld x.iss ((collecting a).collChanOf x) = false) := by
  (repeat' apply And.intro) <;> decide +kernel

/-- A Square request of slot 5, its number 9. -/
def sq (kind : SqKind) : SqReq := { num := 9, uid := (onTile0 id).c.uid, slot := 5, kind := kind, iss := (onTile0 id).c.issuer 2 }

/-- The task with requests and a valid slot 5. -/
def atSquare (x : Slot) (l : List SqReq) : State := ({ onTile0 id with square := l } : State).setSlot { x with valid := true, size := 1 }

/-- SquareRows: a publication waits for its port, flips, flips after its slot was cleared; a read waits for its port, ends; an answer; a refusal. -/
theorem test_wit_square_rows : let p := sq (.pub 0x1000 4 0)
    let g := sq (.get 0x1000)
    let pg := { p with granted := true, buf := some 0 }
    let gg := { g with granted := true }
    (let s := atSquare { num := 5 } [p]
     (s.square.filter fun q => q.isPub && q.granted && q.refused.isNone).length < 2 ∧ portNext (s.square.filter s.pubReady) = some p ∧
       s.pubBytes p 0x1000 4 = .ok [0, 0, 0, 0]) ∧
    (let s : State := { atSquare { num := 5, writing := some 9 } [pg] with capsReg := 0 }
     (s.square.filter fun q => q.isPub && q.granted && s.settled q)[s.pick]? = some pg ∧ s.spare = false ∧ pg.cleared = none) ∧
    (let s : State := { atSquare { num := 5 } [{ pg with cleared := some (4, true) }] with capsReg := 0 }
     (s.square.filter fun q => q.isPub && q.granted && s.settled q)[s.pick]? = some { pg with cleared := some (4, true) } ∧ s.spare = false) ∧
    (let s := atSquare { num := 5 } [g]
     (s.square.filter fun q => q.isGet && q.granted).length < 8 ∧ portNext (s.square.filter fun q => q.isGet && q.waits) = some g) ∧
    (let s := atSquare { num := 5 } [gg]
     (s.square.filter fun q => q.isGet && q.granted)[s.pick]? = some gg ∧ versionBytes gg.got = List.replicate 32 0 ∧
       s.fillMixed gg.iss (0x1000 : Word).toNat 32 = none ∧
       isOk (s.engPuts gg.iss 9 ((List.replicate 32 0 : List Byte).zipIdx.map fun b => ((0x1000 : Word).toNat + b.2, 0, b.1.toNat))) = true) ∧
    (let s := atSquare { num := 5 } [sq (.info 3)]
     (s.square.filter fun q => !q.isPub && !q.isGet)[s.pick]? = some (sq (.info 3))) ∧
    (let s := atSquare { num := 5 } [{ g with refused := some 4 }]
     (s.square.filter fun q => q.refused.isSome)[s.pick]? = some { g with refused := some 4 } ∧ g.uid = s.c.uid) := by
  (repeat' apply And.intro) <;> first
    | decide +kernel | exact okVal_eq (by decide +kernel) | exact rep_none rfl | exact no_jobs (by decide +kernel) | rfl

/-- The task with its district's queue of `n` entries, a deterministic launch, and a request. -/
def atQueue (n ret : Nat) (jobs : List Job) : State :=
  let s := (onTile0 fun c => { c with jobs := jobs }).mapCtx fun c => { c with det := jobs = [], retired := ret, quantum := 16 }
  let s := s.updLaunch s.c.launch fun l => { l with det := true, quantum := 16 }
  s.setDistrict s.c.dist { s.district s.c.dist with dq := [{ launch := s.c.launch, entries := List.replicate n 7 }] }

/-- SharedRows: a request to be served, a quantum that all have ended. -/
theorem test_wit_queues : let s := atQueue 256 0 [.dqreq 0 5 0]
    let w := atQueue 0 16 []
    let q : TaskQueue := { launch := w.c.launch }
    (s.ctxs.filter fun c => !c.det && c.request.isSome)[s.pick]? = some s.c ∧
    w.detQueues[w.pick]? = some (0, q) ∧ w.taskQueue 0 q.launch = some q ∧ (∀ x ∈ w.quanta 0 q.launch, q.closed < x) ∧ w.quanta 0 q.launch ≠ [] ∧
      ∀ x ∈ w.ctxs, x.request = none := by
  (repeat' apply And.intro) <;> first
    | decide +kernel | exact okVal_eq (by decide +kernel) | exact rep_none rfl | exact no_jobs (by decide +kernel) | rfl

/-- A vote of the launch's two strands on number 1. -/
def voting : State :=
  let s := onTile0 fun c => { c with jobs := [.vote 1 4 5], votes := 1 }
  { s with others := s.others.map fun c => if c.launch = s.c.launch then { c with jobs := [.vote 1 4 6], votes := 1 } else c }

/-- SharedRows: a complete vote, a handover under way, a sweep that is due, a table of a tenant
whose EN is 0 and of one whose EN is 1. -/
theorem test_wit_shared : let s := voting
    let r : CapRegion := { tenant := 15, index := 255, base := 0x4000_0000_0000, len := 1, holder := 1, moving := some 2 }
    let c : State := { State.reset with caps := [r] }
    let w := State.reset.setTile ⟨true, 1, 7⟩ { State.reset.tile ⟨true, 1, 7⟩ with sweeps := [3] }
    (s.votesDone[s.pick]? = some (s.c.launch, 1) ∧ (∀ y ∈ s.votesAt s.c.launch 1, y.1 = 4) ∧ s.c.kind = .task ∧
      s.c.isDisp = false ∧ s.c.voteAt 1 = some (4, 5)) ∧
    (c.region (15 : BitVec 4).toNat (255 : BitVec 8).toNat = some r ∧ r.moving.isSome = true) ∧ (w.tile ⟨true, 1, 7⟩).sweeps = 3 :: [] ∧
    (bit (State.reset.tenant 15).detmode 0 = false ∧ State.reset.tenants.length = 16) ∧
    bit ((State.reset.setTenant 15 { State.reset.tenant 15 with detmode := 1 }).tenant 15).detmode 0 = true := by
  (repeat' apply And.intro) <;> decide +kernel

/-- An Interchange of district 7 changed. -/
def withEvx (f : Interchange → Interchange) : State := State.reset.setDistrict 7 { State.reset.district 7 with evx := f (State.reset.district 7).evx }

/-- InterchangeRows: a pulse of signal 127, counter 31 at 0, output 15, timer 7. -/
theorem test_wit_interchange : let d : DistId := ⟨true, 1⟩
    (let s := withEvx fun e => { e with pulses := [127] }
     (127 : BitVec 7) ∈ (s.district (distIdx d.arr d.dist)).evx.pulses ∧ ∀ w ∈ (s.district (distIdx d.arr d.dist)).evx.counters.toList, counterDue w = false) ∧
    counterDue ((withEvx fun e => { e with counters := e.counters.set 31 (w64 (2 ^ 63)) }).district (distIdx d.arr d.dist)).evx.counters[31] = true ∧
    (let s := withEvx fun e => { e with outs := [15] }
     (15 : BitVec 4) ∈ (s.district (distIdx d.arr d.dist)).evx.drive.outs ∧
       (bit (s.district (distIdx d.arr d.dist)).evx.outputs[15] 48 && d.arr) = false ∧ bit (s.district (distIdx d.arr d.dist)).evx.outputs[15] 49 = false) ∧
    (let s : State := { withEvx fun e => { e with timers := e.timers.set 7 (w64 (2 ^ 63 + 4)) } with cyc := 4 }
     let x := s.district (distIdx d.arr d.dist)
     bit x.evx.timers[7] 63 = true ∧ bits x.evx.timers[7] 31 0 ≠ 0 ∧
       x.evx.timerQ[7] < (if bit x.evx.timers[7] 62 then s.timeNs.toNat else s.cyc) / bits x.evx.timers[7] 31 0) := by
  (repeat' apply And.intro) <;> first | exact none_of (by decide +kernel) | decide +kernel

/-- SharedEvents' cycle: a pulse that a counter at 2 and one at 1 count, and that completes a term. -/
theorem test_wit_cycle : let s := withEvx fun e => { e with
      pulses := [127], counters := (e.counters.set 31 (w64 (2 ^ 63 + 2 * 2 ^ 32 + 127 * 2 ^ 16 + 9))).set 30 (w64 (2 ^ 63 + 2 ^ 32 + 127 * 2 ^ 16 + 9))
      terms := e.terms.set 31 (w64 (2 ^ 63 + 0xFF)) }
    let e := (s.district 7).evx
    let f := ((s.evxCycle ⟨true, 1⟩).district 7).evx
    distIdx true 1 = 7 ∧ 7 < s.districts.length ∧ e.pulses.Nodup ∧ (∀ w ∈ e.counters.toList, counterDue w = false) ∧ (∀ w ∈ e.timers.toList, bit w 63 = false) ∧
    (∀ w ∈ e.terms.toList, termDone w = false) ∧ e.drive.outs = [] ∧ bits f.counters[31] 47 32 = 1 ∧ bits f.counters[30] 47 32 = 9 ∧
    f.pulses = [94] ∧ f.done = [31] ∧ bit f.terms[31] 32 = false := by
  (repeat' apply And.intro) <;> first | exact none_of (by decide +kernel) | decide +kernel

/-- A queued launch of one tile. -/
def queued1 : Queued := { num := 5, lrec := {}, tenant := 0, enq := 0 }

/-- The reset state with the launch in its array's queue, at a cycle. -/
def withQueue (now : Nat) : State := { State.reset.setQueue {} [queued1] with cyc := now }

/-- SchedulerRows: a launch that can be bound, one that is due for aging. -/
theorem test_wit_scheduler : let s := withQueue 0
    let ts : List Loc := [⟨false, 0, 0⟩]
    (s.allQueued[s.pick]? = some queued1 ∧ (∀ x ∈ s.allQueued, x.due s.cyc = false) ∧ s.tilesFor queued1 = some ts ∧
      s.barriersFree queued1 ts = true ∧ s.gensReady queued1 ts = true ∧ queued1.only = none) ∧
    ((withQueue (2 ^ 20)).allQueued[(withQueue (2 ^ 20)).pick]? = some queued1 ∧ queued1.due (withQueue (2 ^ 20)).cyc = true) := by
  (repeat' apply And.intro) <;> decide +kernel

/-- SchedulerRows: a task whose strands are over, a tile retained for 2^20 cycles. -/
theorem test_wit_tasks : let k : Task := { task0 with scHalted := true, icHalted := true }
    let s : State := { onTile0 id with tasks := [k] }
    let r : State := State.reset.setTile (Loc.ofIdx 63) { State.reset.tile (Loc.ofIdx 63) with retain := some { token := 1, tenant := 0, gen := 1, since := 0 } }
    let w : State := { r with pick := 63, cyc := 2 ^ 20 }
    ((onTile0 id).tasks = [task0] ∧ s.tasks[s.pick]? = some k ∧ s.launchOf k.launch = some launch0 ∧ (s.tile k.tile).held = none ∧
      (∀ c ∈ s.ctxs, c.task = k.num → c.kind = .task → s.unperformed c = false) ∧ s.fifo.length < 512) ∧
    (w.pick < 64 ∧ (w.tile (Loc.ofIdx 63)).retain = some { token := 1, tenant := 0, gen := 1, since := 0 } ∧ 0 + 2 ^ 20 ≤ w.cyc) := by
  (repeat' apply And.intro) <;> first
    | decide +kernel | exact okVal_eq (by decide +kernel) | exact rep_none rfl | exact no_jobs (by decide +kernel) | rfl

/-- SharedEvents' scheduler: a record that district 0 selects and the tile that it takes; a task that is the last of its tile, and one that is not. -/
theorem test_wit_sched : let s := withQueue 0
    let w : State := { onTile0 id with tasks := [task0, { task0 with num := 8 }] }
    (s.selected 0 = some queued1 ∧ s.tilesFor queued1 = some [⟨false, 0, 0⟩] ∧ s.gensReady queued1 [⟨false, 0, 0⟩] = true ∧ queued1.only = none ∧
      s.tiles.length = 64 ∧ 0 < queued1.lrec.tiles) ∧
    ((onTile0 id).ctxs.any (fun c => decide (¬ (c.task = task0.num ∧ c.kind = .task ∧ c.loc = some task0.tile))) = true ∧
      task0.tile.idx < (onTile0 id).tiles.length ∧ (∀ x ∈ (onTile0 id).tasks, x.num ≠ task0.num → x.tile ≠ task0.tile) ∧ task0.tile.arr = false) ∧
    ¬ (∀ x ∈ w.tasks, x.num ≠ task0.num → x.tile ≠ task0.tile) := by
  (repeat' apply And.intro) <;> decide +kernel

/-- SchedulerRows: a task parked for 2^14 cycles goes to the next tile; one that is on its way. -/
theorem test_wit_migrate : let s := onTile0 id
    let w : State := { onTile0 id with tasks := [{ task0 with moving := true }] }
    let s : State := { s.mapCtx fun c => if c.task = 3 then { c with role := .parked 0 } else c with cyc := 2 ^ 14 }
    (s.tasks[s.pick]? = some task0 ∧ s.launchOf task0.launch = some launch0 ∧ s.canMigrate task0 = true ∧
      s.migrateTo task0 launch0 = some ⟨false, 0, 1⟩) ∧
    w.tasks[w.pick]? = some { task0 with moving := true } := by
  (repeat' apply And.intro) <;> decide +kernel

/-- The reset state whose dispatch context waits for a seize message of tile 47. -/
def seizing1 (a : Option Arming) : State :=
  let s := withJobs [.seize false false (w64 (2 ^ 47)) 0 0]
  s.setTile (Loc.ofIdx 47) { s.tile (Loc.ofIdx 47) with arming := a }

/-- SeizureRows: an armed and an unarmed tile, a releasing tile, a tile that re-arms, an order for a tile with no task and with one, a save. -/
theorem test_wit_seizure_rows : let a := anArming
    let at' (f : Tile → Tile) : State := State.reset.setTile ⟨false, 5, 7⟩ (f (State.reset.tile ⟨false, 5, 7⟩))
    ((seizing1 (some a)).seizing[(seizing1 (some a)).pick]? = some (0, 47) ∧ ((seizing1 (some a)).tile (Loc.ofIdx 47)).arming = some a ∧
      ((seizing1 (some a)).ctxOf 0).map (fun c => c.launch) = some a.launch ∧ ((seizing1 (some a)).tile (Loc.ofIdx 47)).seizedBy = none ∧
      ((seizing1 (some a)).tile (Loc.ofIdx 47)).rearming = false ∧ (seizing1 (some a)).inService (Loc.ofIdx 47) = true) ∧
    ((seizing1 none).seizing[(seizing1 none).pick]? = some (0, 47) ∧ ((seizing1 none).tile (Loc.ofIdx 47)).arming = none) ∧
    (let s := at' fun t => { t with releasing := true }
     ((s.tilesOf false).filter fun t => (s.tile t).releasing && s.guestsIdle t)[s.pick]? = some ⟨false, 5, 7⟩) ∧
    (let s := at' fun t => { t with rearming := true }
     ((s.tilesOf false).filter fun t => (s.tile t).rearming)[s.pick]? = some ⟨false, 5, 7⟩) := by
  (repeat' apply And.intro) <;> first
    | decide +kernel | exact okVal_eq (by decide +kernel) | exact rep_none rfl | exact no_jobs (by decide +kernel) | rfl

/-- SeizureRows: a seize message of a thread that has halted. -/
theorem test_wit_seizeEnded : let s0 := onTile0 fun c => { c with kind := .thread 0 0 0, halted := true, jobs := [.seize false false (w64 (2 ^ 47)) 0 0] }
    let a : Arming := { anArming with launch := s0.c.launch }
    let s := s0.setTile (Loc.ofIdx 47) { s0.tile (Loc.ofIdx 47) with arming := some a }
    s.seizing[s.pick]? = some (s.c.uid, 47) ∧ (s.tile (Loc.ofIdx 47)).arming = some a ∧ ((s.ctxOf s.c.uid).map fun c => c.launch) = some a.launch ∧
    (s.tile (Loc.ofIdx 47)).seizedBy = none ∧ s.inService (Loc.ofIdx 47) = true ∧ (s.ctxOf s.c.uid).any (fun c => c.isThread && c.halted) = true := by
  (repeat' apply And.intro) <;> decide +kernel

/-- SeizureRows: an order for a tile with no task and for one with a task, a save. -/
theorem test_wit_preempt_rows : let t : Loc := ⟨false, 0, 0⟩
    let j : Job := .preempt t 0x1000
    let s : State := onTile0 fun c => { c with jobs := [j] }
    let h : Preempt := { task := 3, area := 0x1000 }
    let w : State := (onTile0 id).setTile t { (onTile0 id).tile t with held := some h }
    ((withJobs [j]).orders[(withJobs [j]).pick]? = some (0, j, t, 0x1000) ∧ ((withJobs [j]).tasks.filter fun k => k.tile = t) = []) ∧
    (s.orders[s.pick]? = some (s.c.uid, j, t, 0x1000) ∧ (s.tasks.filter fun k => k.tile = t) = [task0] ∧ (s.tile t).held = none) ∧
    (((w.tilesOf false).filterMap fun t => (w.tile t).held.bind fun h => (w.taskOf h.task).map fun k => (h, k)).filter
      fun x => w.taskQuiet x.2 && (w.tile x.2.tile).fpWindow = [])[w.pick]? = some (h, task0) := by
  (repeat' apply And.intro) <;> first
    | decide +kernel | exact okVal_eq (by decide +kernel) | exact rep_none rfl | exact no_jobs (by decide +kernel) | rfl

/-! Witnesses: the rows of the world outside. -/

/-- The reset state owned by a master with a successor. -/
def owned (m n : BitVec 8) (left : BitVec 32) : State := { State.reset with own := m, succ := n, left := left }

/-- OwnerRows: a free module, one whose lease has run out, its owner, its successor, another epoch, a lease near its end. -/
theorem test_wit_owner : (State.reset.hasMaster 0x10 = true ∧ State.reset.epoch = 0 ∧ State.reset.own = 0) ∧ (owned 1 0 0).left = 0 ∧
    (State.reset.hasMaster 0x1F = true ∧ (owned 0x1F 0 1).hasMaster 0x1F = true ∧ (owned 1 0x30 1).hasMaster 0x30 = true ∧
      ({ State.reset with capsReg := 0 } : State).hasMaster 0x40 = false ∧ State.reset.hasMaster 2 = false ∧ (owned 0x1F 0 1).own = 0x1F ∧ (owned 0x1F 0 1).left ≠ 0 ∧ isMaster 0x30 = true ∧
      (0x30 : BitVec 8) ≠ 0x1F) ∧
    (isMaster 0x30 = true ∧ (owned 1 0x30 1).succ = 0x30 ∧ (owned 1 0x30 1).left ≠ 0) ∧ (1 : BitVec 16) ≠ State.reset.epoch ∧
    (({ owned 1 0 1 with leaseCyc := 1023 } : State).own ≠ 0 ∧ ({ owned 1 0 1 with leaseCyc := 1023 } : State).left ≠ 0 ∧
      ({ owned 1 0 1 with leaseCyc := 1023 } : State).leaseCyc < 1024) := by
  (repeat' apply And.intro) <;> first
    | decide +kernel | exact okVal_eq (by decide +kernel) | exact rep_none rfl | exact no_jobs (by decide +kernel) | rfl

/-- LinkRows: a queue of a function, the last byte of DRAM and one beyond, disciplines, blocks. -/
theorem test_wit_link : let s := State.reset
    (3 : BitVec 4).toNat < 4 ∧ (s.dramBytes - 1 + [(7 : Byte)].length ≤ s.dramBytes ∧ s.busy ((s.dramBytes - 1 + 0) / 32) true = false) ∧
    (s.dramBytes < s.dramBytes + [(7 : Byte)].length ∧ [(7 : Byte)] ≠ []) ∧
    (s.fport true = true ∧ (0x0800 : BitVec 16) ≠ 0x88F7 ∧ s.classOf true 7 0x0800 = none) ∧ (s.pick < 2 ∧ s.fport (s.pick = 1) = true) ∧
    ((1 : Int).natAbs * 2000 ≤ (({ s with refTicks := 2800 } : State).refTicks - s.slewAt) * 5 / 7 ∧ 1000000 < (-1000001 : Int).natAbs) ∧
    ([8, 0] : List Byte).length = 2 ∧ leNat [8, 0] % 8 = 0 ∧ (List.replicate 8 (0 : Byte)).length = 8 := by
  (repeat' apply And.intro) <;> first
    | decide +kernel | exact okVal_eq (by decide +kernel) | exact rep_none rfl | exact no_jobs (by decide +kernel) | rfl

/-- A ring of 127 slots from the start of reflex tile 7 of district 1: class 0 of port 1 (5) or its transmit ring (9); the launch of onTile0 there. -/
def withRing (i : Nat) (started : Bool) (full : Bool) : State :=
  let s := onTile0 id
  let t : Loc := ⟨true, 1, 7⟩
  let s := s.mapCtx fun c => if c.task = 3 then { c with place := .tile t c.isIc } else c
  let s := { s with tasks := [{ task0 with tile := t }], active := true }
  let s := s.setRing i { words := (Vector.replicate 4 0).set 0 (w64 (2 ^ 63 + 2 ^ 56 + 7 * 2 ^ 53 + 0x0800 * 2 ^ 32 + 0x80 * 2 ^ 24)) |>.set 1 (w64 (127 * 16)), started := started }
  s.setGran (tileKey t 0 / 32) { tag := 1, full := full }

/-- LinkRows: a frame for a ring that is not started, one for an empty slot, one to be sent. -/
theorem test_wit_frames : let s := withRing 5 true false
    let w : State := { withRing 9 true true with pick := 1 }
    ((withRing 5 false false).fport true = true ∧ (withRing 5 false false).classOf true 7 0x0800 = some 0 ∧ ((withRing 5 false false).ring (b2n true * 5 + 0)).started = false) ∧
    (s.classOf true 7 0x0800 = some 0 ∧ (s.ring 5).header (s.ring 5).pos = some (tileKey ⟨true, 1, 7⟩ 0 / 32) ∧
      (s.portIssuer (ringTile (s.ring 5).words[0])).isSome = true ∧ (s.ring 5).started = true ∧ s.hasTile (ringTile (s.ring 5).words[0]) = true ∧ (s.ring 5).inside = true ∧
      (List.replicate 2016 (0 : Byte)).length ≤ 2016 ∧ (s.gran (tileKey ⟨true, 1, 7⟩ 0 / 32)).full = false ∧
      (s.gran (tileKey ⟨true, 1, 7⟩ 0 / 32)).poison = false) ∧
    (w.pick < 2 ∧ (w.sendable (w.pick = 1)).isSome = true) := by
  (repeat' apply And.intro) <;> first
    | decide +kernel | exact okVal_eq (by decide +kernel) | exact rep_none rfl | exact no_jobs (by decide +kernel) | rfl

/-- A device command under way with an argument, over DRAM. -/
def serving (op : Nat) (d : Word) (f : State → State) : State := f { State.reset with dstat := w64 (2 ^ 63 + op * 256), dcmdArg := d }

/-- An admission block of tenant 3 at 0x40, with its reflex tiles. -/
def block3 (rfx : Nat) (s : State) : State :=
  { s with mem := Mem.write s.mem 0x40 (leBytes 8 3 ++ leBytes 8 1 ++ leBytes 8 (rfx * 2 ^ 48) ++ leBytes 8 0 ++ leBytes 8 0) }

/-- DeviceRows: ADMIT of a block that is none, of an admitted tenant, of tiles that another has, of a new tenant. -/
theorem test_wit_admit : let a : Admission := { ten := 3, ptb := 1, entry := w64 (2 ^ 48), gcr := 0, icx := 0 }
    let s := serving 1 0x40 (block3 1)
    let x (t : Nat) (v : Tenant) : State := serving 1 0x40 fun s => (block3 1 s).setTenant t v
    ((serving 1 0x41 id).serves' 1 0x41 = true ∧ (serving 1 0x41 id).readAdmission (0x41 : Word).toNat = none) ∧
    ((x 3 { admitted := true }).serves' 1 0x40 = true ∧ (x 3 { admitted := true }).readAdmission (0x40 : Word).toNat = some a ∧
      ((x 3 { admitted := true }).tenant a.ten).admitted = true) ∧
    ((x 4 { rfx := 1 }).serves' 1 0x40 = true ∧ (x 4 { rfx := 1 }).readAdmission (0x40 : Word).toNat = some a ∧
      ((x 4 { rfx := 1 }).tenant a.ten).admitted = false ∧ (x 4 { rfx := 1 }).admitTaken a = true) ∧
    (s.serves' 1 0x40 = true ∧ s.readAdmission (0x40 : Word).toNat = some a ∧ (s.tenant a.ten).admitted = false ∧ s.admitTaken a = false ∧
      (s.admitTo a).isSome = true) := by
  (repeat' apply And.intro) <;> first
    | decide +kernel | exact okVal_eq (by decide +kernel) | exact rep_none rfl | exact no_jobs (by decide +kernel) | rfl

/-- DeviceRows: REMOVE, SEIZE, FWUPD of an empty image, MRESET. -/
theorem test_wit_device : let f := serving 4 0x40 fun s => { s with mem := Mem.write s.mem 0x44 (leBytes 4 (crc32 []).toNat) }
    ((serving 2 15 id).serves' 2 15 = true ∧ ((serving 2 15 id).tenant ((15 : Word).toNat % 16)).admitted = false) ∧
    ((serving 2 15 fun s => s.setTenant 15 { admitted := true }).serves' 2 15 = true ∧
      ((serving 2 15 fun s => s.setTenant 15 { admitted := true }).tenant ((15 : Word).toNat % 16)).admitted = true) ∧
    (serving 3 1 id).serves' 3 1 = true ∧
    (f.serves' 4 0x40 = true ∧ leNat (Mem.bytes f.mem (0x40 : Word).toNat 4) = 0 ∧ (0x40 : Word).toNat % 64 = 0 ∧ (0x40 : Word).toNat + 16 + 0 ≤ f.dramBytes ∧
      leNat (Mem.bytes f.mem ((0x40 : Word).toNat + 8) 8) = 0 ∧
      (crc32 (Mem.bytes f.mem ((0x40 : Word).toNat + 16) 0)).toNat = leNat (Mem.bytes f.mem ((0x40 : Word).toNat + 4) 4)) ∧
    ((owned 1 0 1).hasMaster 0x30 = true ∧ State.reset.hasMaster 0x30 = true ∧ (owned 1 0 1).refuses 0x30 = true ∧ State.reset.refuses 0x30 = false) := by
  (repeat' apply And.intro) <;> first
    | decide +kernel | exact okVal_eq (by decide +kernel) | exact rep_none rfl | exact no_jobs (by decide +kernel) | rfl

/-- RegisterRows: a tenant entry, a window of another tenant, slots that fit and do not, a ring, EWCTL, a control register, masters. -/
theorem test_wit_registers : let s := State.reset
    let m := onTile0 fun c => { c with prv := .m }
    let u : State := { s with msixFns := List.replicate 17 { table := Vector.replicate 8 { masked := false } } }
    let ring (i : Nat) : State := s.setRing i { words := (Vector.replicate 4 0).set 0 (w64 (2 ^ 63)) }
    (BitVec.ofNat 16 (bits (0x47 : Word) 63 48) = (s.tenant (bits (0x47 : Word) 3 0)).rfx ∧ s.tenants.length = 16) ∧
    ((s.win (7 : R3).toNat).tenant ≠ (15 : BitVec 4).toNat ∧ s.escrow.length = 8) ∧
    ((s.slot (1023 : BitVec 10).toNat).valid = false ∧ s.slotFits (1023 : BitVec 10).toNat (bits (512 : Word) 9 0) = true ∧
      s.slotFits (1023 : BitVec 10).toNat (bits (513 : Word) 9 0) = false ∧ s.slotFits (1023 : BitVec 10).toNat (bits (0 : Word) 9 0) = false) ∧
    ((s.setSlot { num := 1023, valid := true, size := 1 }).slot (1023 : BitVec 10).toNat).valid = true ∧
    ((4 : R3).toNat ≤ 4 ∧ bit ((ring 9).ring (b2n true * 5 + (4 : R3).toNat)).words[0] 63 = true) ∧
    (bit (w64 (2 ^ 63)) 63 = true ∧ bit s.ewctl 63 = false) ∧
    (s.hasMaster 0x40 = true ∧ s.hasMaster 0x02 = false ∧ (0xFF8 : BitVec 12).toNat % 8 = 0) ∧
    (CsrReg.ofNum (0x100 : BitVec 12).toNat = some .tenant ∧ csrLevel (0x100 : BitVec 12).toNat ≤ s.c.prv.code ∧ (s.csrWrite .tenant 0).isSome = true) ∧
    (CsrReg.ofNum (0x207 : BitVec 12).toNat = some .dsig ∧ csrLevel (0x207 : BitVec 12).toNat ≤ m.c.prv.code ∧ m.c.isDisp = false) ∧
    (15 : BitVec 4).toNat < s.msixFns.length ∧ (s.msixVec (15 : BitVec 4).toNat (7 : R3).toNat).masked = true ∧
    ((15 : BitVec 4).toNat < u.msixFns.length ∧ (u.msixVec (15 : BitVec 4).toNat (7 : R3).toNat).masked = false) := by
  (repeat' apply And.intro) <;> first
    | decide +kernel | exact okVal_eq (by decide +kernel) | exact rep_none rfl | exact no_jobs (by decide +kernel) | rfl

/-! Witnesses: the rows of failures, power, the hot spare. -/

/-- FailureRows: the last core, checked and not killed; a tile's last granule and the last byte of DRAM; an armed injector; the spare link; a dispatch
core's failure with and without a standby. -/
theorem test_wit_failures : let s := State.reset
    let n : CoreName := ⟨⟨true, 1, 7⟩, true⟩
    let x : Injector := { armed := true, seen := 4, dat := 5 }
    let i : State := { s with injectors := [x] }
    let d : State := { s with capsReg := 0 }
    (s.sclen = true ∧ s.hasTile n.tile = true ∧ (s.coreAt n).killed = false) ∧ (s.dispAlive false = true ∧ s.dispAlive true = true) ∧
    0x11FFF * 32 < tileSize ⟨true, 1, 7⟩ ∧ s.dramBytes - 1 < s.dramBytes ∧
    ((∀ m, some n = some m → s.hasTile m.tile = true) ∧ ∀ m, some (⟨⟨true, 2, 0⟩, true⟩ : CoreName) = some m → s.hasTile m.tile = false) ∧
    ((i.injectors.filter fun x => x.armed && x.seen + 1 = x.at')[i.pick]? = some x ∧ bits x.dat 63 62 ≠ 1) ∧ s.spare = true ∧
    (s.pick = 0 ∧ (3 : BitVec 2) ≠ 0 ∧ s.dstby = true ∧ (s.disp.toList.getD 0 {}).alive = true) ∧
    (d.pick = 0 ∧ d.dstby = false ∧ d.dispAlive d.standbyLeads = true) ∧
    (({ s with pick := 1 } : State).pick ≠ 0 ∧ s.standbyLeads = false) := by
  (repeat' apply And.intro) <;> first
    | decide +kernel
    | (intro m h; cases h; decide +kernel)

/-- PowerRows: a module that boots, one without power, one with it, a draw that is too high, the spare's pin and records. -/
theorem test_wit_power : let s := State.reset
    let b : State := { s with booted := false, bootTries := 3 }
    let slot : State := s.setSlot { num := 1023, valid := true, size := 512 }
    let ones : List (BitVec 4) := List.replicate 16 1
    let bad : List (BitVec 4) := List.replicate 15 1 ++ [2]
    (b.powered = true ∧ b.booted = false ∧ b.bootTries < 4) ∧ (b.bootCodes (ones.map BitVec.toNat) = true ∧ ∀ c ∈ ones, c = 1 ∨ c = 3 ∨ c = 4) ∧
    ([4, 5, 8, 9].any (fun k => ones.getD (k - 1) 0 = 4 || ones.getD (k - 1) 0 = 5) = false ∧ (1400 : BitVec 32).toNat = 1400) ∧
    (b.bootCodes (bad.map BitVec.toNat) = true ∧ ∃ c ∈ bad, c ≠ 1 ∧ c ≠ 3 ∧ c ≠ 4) ∧ ({ s with powered := false } : State).powered = false ∧
    1000 * s.powerLimit (bits s.pwrmode 1 0) < 260001 ∧
    (({ s with cyc := 1024 } : State).active = false ∧ ({ s with cyc := 1024 } : State).activeFrom ≤ ({ s with cyc := 1024 } : State).cyc) ∧
    (s.spare = true ∧ s.dispAlive s.standbyLeads = true ∧ s.active = false ∧ Memory.wf s.mem = true ∧ (List.replicate 64 (7 : Byte)).length = 64) ∧
    ((slot.slot (1023 : BitVec 10).toNat).valid = true ∧ (slot.slot (1023 : BitVec 10).toNat).size = (512 : BitVec 10).toNat ∧
      (slot.freeBuf (slot.slot (1023 : BitVec 10).toNat)).isSome = true) := by
  (repeat' apply And.intro) <;> first
    | decide +kernel | exact okVal_eq (by decide +kernel) | exact rep_none rfl | exact no_jobs (by decide +kernel) | rfl

/-! Witnesses: the machine. -/

/-- StepRunsDecoded: the reset state with LDI 0 at PC, with a word that is no instruction, and at an address that is not fetched from. -/
theorem test_wit_step : let ok (s : State) : Prop := s.powered = true ∧ s.booted = true ∧ s.inputs = [] ∧ s.c.runs = true ∧ atBoundary s = none
    let s := withInstr (.ldi {} 0) State.reset
    let bad := withInstr (.ldi {} 0) (onReset fun c => { c with pc := 2 })
    let short := onReset fun c => { c with pc := 0x4000_0000_0000 }
    (ok s ∧ decode s.c.core (s.fetchWords (s.c.issuer s.c.defscope) s.c.pc maxWords).1 = .ok (.ldi {} 0) 1 ∧ s.c.stalled = false) ∧
    (ok { bad with c := { bad.c with pc := 0 } } ∧
      decode bad.c.core ((({ bad with c := { bad.c with pc := 0 } } : State).fetchWords (bad.c.issuer bad.c.defscope) 0 maxWords).1) = .bad 1 0 0) ∧
    (ok short ∧ decode short.c.core (short.fetchWords (short.c.issuer short.c.defscope) short.c.pc maxWords).1 = .short ∧
      (short.fetchWords (short.c.issuer short.c.defscope) short.c.pc maxWords).2.1 = some (.cause 0x06, 0x4000_0000_0000)) := by
  (repeat' apply And.intro) <;> first
    | decide +kernel | exact okVal_eq (by decide +kernel) | exact rep_none rfl | exact no_jobs (by decide +kernel) | rfl

/-- DecodeEncode: the last instruction of a page, with the words before it. -/
theorem test_wit_encode : (Instr.ldi {} 0x1FF).wf = true ∧ encode (.ldi {} 0x1FF) ≠ [] ∧ onCore .staging (.ldi {} 0x1FF) = true ∧ (Instr.add { rep := some ⟨[], 64, 5⟩ } (.mem ⟨.up, 7, 7⟩)).wf = true ∧
    encode (.add { rep := some ⟨[], 64, 5⟩ } (.mem ⟨.up, 7, 7⟩)) ≠ [] := by
  (repeat' apply And.intro) <;> first
    | decide +kernel | exact okVal_eq (by decide +kernel) | exact rep_none rfl | exact no_jobs (by decide +kernel) | rfl

/-- StepKeepsCanonical: a step from reset. -/
theorem test_wit_canonical : State.reset.Canonical ∧ nextIf (fun _ => true) (step State.reset) = true := by
  refine ⟨?_, by decide +kernel⟩
  unfold State.Canonical
  decide +kernel

/-! Values that the spec works out. -/

/-- 02_machine's ring of three granules: two addresses and three steps. -/
theorem test_val_ring : let d : PDesc := { base := 0x2000, span := 0x60, step := 8, ty := 4 }
    ringAdd d 0x205C 4 = 0x2000 ∧ ringAdd d 0x205C 8 = 0x2004 ∧ ringAdd d 0x2004 (-8) = 0x205C ∧ ringAdd d 0x205C (-8) = 0x2054 := by decide

/-- 06_scalar's division corners: results and Z, N, V; C is left. -/
theorem test_val_division : let ok (op : AluOp) (a b r : Word) (z n v : Bool) : Prop := op.eval a b = (some r, { z := some z, n := some n, v := some v, c := none })
    ok .div (-7) 2 (-3) false true false ∧ ok .rem (-7) 2 (-1) false true false ∧ ok .remu (-7) 2 1 false false false ∧
    ok .divu 12 0 allOnes false true true ∧ ok .rem 12 0 12 false false true ∧ ok .div 0x8000000000000000 (-1) 0x8000000000000000 false true true := by decide +kernel

/-- 05_numbers' f32 to e4m3 under RNE: 300, 470 saturating and not, 0.001 flushed and not, -0. -/
theorem test_val_e4m3 : let cv (sat ftz : Bool) (w : Nat) : Nat × FF := ETy.e4m3.conv { mode := .rne, sat := sat, ftz := ftz } (f32Val w)
    cv false false 0x43960000 = (0x79, 1) ∧ cv true false 0x43EB0000 = (0x7E, 4 + 1) ∧ cv false false 0x43EB0000 = (0x7F, 4 + 1) ∧
    cv false false 0x3A83126F = (0x01, 2 + 1) ∧ cv false true 0x3A83126F = (0x00, 2 + 1) ∧ cv false false 0x80000000 = (0x80, 0) := by decide +kernel

/-- 09_mint's unscrambled points, with their f32 and bf16 codes. -/
theorem test_val_points : let m : Mint := { table := [(List.range 32).map fun k => BitVec.ofNat 32 (2 ^ (31 - k))] }
    m.point 0 0 = 0 ∧ m.point 0 5 = 0xE0000000 ∧ m.point 0 6 = 0xA0000000 ∧ mintFormat 1 (m.point 0 5) = 0x3F600000 ∧ mintFormat 2 (m.point 0 6) = 0x3F20 := by
  decide +kernel

/-- 07_vector's reciprocal of 3.0: the table's entry and the f32 code. -/
theorem test_val_rcp : rcpT 128 = 2727 ∧ (ETy.f32.conv { mode := .rne } (.fin ⟨2727, -13⟩)).1 = 0x3EAA7000 := by decide +kernel

/-! Words written out from the encoding tables (R50 to R54, R57, R60 to R64), one or more of every family. -/

/-- A word or words of a staging core's decode to an instruction. -/
def reads (ws : List Half) (i : Instr) : Prop := decode .staging ws = .ok i ws.length

/-- Page 0, the arithmetic: NOP; LD [p7+7]-; ST sync[p1+0]; SUB k3; MUL p2; DIV acc; MAC [p1+2]; CLZ; ADDI -1. -/
theorem test_dec_arithmetic : reads [0b0000001_000000000] (.nop {}) ∧ reads [0b0000010_010_111_111] (.ld {} (.mem ⟨.down, 7, 7⟩)) ∧
    reads [0b0000011_011_001_000] (.st {} ⟨.sync, 1, 0⟩) ∧ reads [0b0000101_101_011_000] (.sub {} (.mask 3)) ∧
    reads [0b0010001_100_010_000] (.mul {} (.ptr 2)) ∧ reads [0b0010100_111_000_000] (.div {} .acc) ∧
    reads [0b0011100_000_001_010] (.mac {} (.mem ⟨.plain, 1, 2⟩)) ∧ reads [0b0011101_00000_0011] (.clz {}) ∧
    reads [0b0011111_111111111] (.addi {} 0x1FF) := by unfold reads; decide

/-- Page 0, pointers and masks: PSET p5; PADDI p2, -1; PSPAN p3, 32; PTYPE p1, 10; KSET k2; KGET k5; KOP.SHR k1, k2; KCNT.LO k3. -/
theorem test_dec_pointers : reads [0b0100000_101_000000] (.pset {} 5) ∧ reads [0b0100010_010_111111] (.paddi {} 2 0x3F) ∧
    reads [0b0100100_011_100000] (.pspan {} 3 32) ∧ reads [0b0100101_001_001010] (.ptype {} 1 10) ∧ reads [0b0100110_010_000_000] (.kset {} 2) ∧
    reads [0b0100111_000_101_000] (.kget {} 5) ∧ reads [0b0101000_001_010_111] (.kopShr {} 1 2) ∧ reads [0b0101100_000_011_001] (.kcntLo {} 3) := by
  unfold reads; decide

/-- Page 0, control: B.LE -2; J to itself less one; CALL; RET; LOOP of 4 words, stagger 1; HALT.RETAIN; TRAP 7; SVC 511. -/
theorem test_dec_control : reads [0b0110000_1011_11110] (.bcc {} 11 0x1E) ∧ reads [0b0110001_111111111] (.j {} 0x1FF) ∧
    reads [0b0110010_000000011] (.call {} 3) ∧ reads [0b0110011_000000000] .ret ∧ reads [0b0110110_000011_001] (.loop 3 1) ∧
    reads [0b0110111_00000000_1] .haltRetain ∧ reads [0b0111001_000000111] (.trap 7) ∧ reads [0b0111010_111111111] (.svc 0x1FF) := by
  unfold reads; decide

/-- Page 0, waits and ordering: WAITF p6; MONITOR p1 at tile scope; FENCE.SEQ of the device; AADD relaxed, no return; SFLUSH. -/
theorem test_dec_ordering : reads [0b1000000_110_000_000] (.waitf 6) ∧
    reads [0b1111011_000_0_00_010, 0b1000010_001_000_000] (.monitor { m := some ⟨false, 0, 2⟩ } 1) ∧ reads [0b1001011_100_101_000] (.fenceSeq 5) ∧
    reads [0b1010000_00_011_000_1] (.aadd {} 0 3 true) ∧ reads [0b1011111_000_000000] (.sflush {}) := by unfold reads; decide

/-- Page 1: VADD p3, p1, p2; VSQRT p3, p1; VBCAST p4; VRED of function 3. -/
theorem test_dec_vector : reads [0b1111001_0000000_01, 0b0000010_011_001_010] (.vadd {} 3 1 2) ∧
    reads [0b1111001_0000000_01, 0b0100100_011_001_000] (.vsqrt {} 3 1) ∧ reads [0b1111001_0000000_01, 0b0100000_100_000_000] (.vbcast {} 4) ∧
    reads [0b1111001_0000000_01, 0b0010111_011_001_011] (.vredSsq {} 3 1) := by unfold reads; decide

/-- Page 2: MMZ p1, p2 on bank 2; CPY; LAUNCH p1; SPUSH; on the issuing core of a reason tile. -/
theorem test_dec_units : decode .issuing [0b1111001_0000000_10, 0b0000001_001_010_10_1] = .ok (.mmz {} 1 2 2) 2 ∧
    decode .issuing [0b1111001_0000000_10, 0b0001000_001_010_011] = .ok (.cpy {} 1 2 3) 2 ∧
    decode .issuing [0b1111001_0000000_10, 0b0111000_001_000_000] = .ok (.launch 1) 2 ∧
    decode .issuing [0b1111001_0000000_10, 0b0100100_000_000_000] = .ok .spush 2 := by decide

/-- Page 3: ERET; CSRR 0x103; with PFX.I, CSRW 0x203; DBGRD p1, p2. -/
theorem test_dec_system : reads [0b1111001_0000000_11, 0b0000101_000000000] .eret ∧ reads [0b1111001_0000000_11, 0b0000001_100000011] (.csrr {} 0x103) ∧
    reads [0b1111001_0000000_11, 0b1111000_000000001, 0b0000010_000000011] (.csrw { imm := [1] } 3) ∧
    reads [0b1111001_0000000_11, 0b0001110_001_010_000] (.dbgrd 1 2) := by unfold reads; decide

/-- Words that trap: a fifth prefix (3), PFX.X before PFX.M (3), a pointer value with low bits (2), ST of an immediate (2), REP before J (4), CPYM without
PFX.X (5), an odd UNARY form (2). -/
theorem test_dec_bad : decode .staging (List.replicate 5 0b1111000_000000001 ++ [0b0011110_000000000]) = .bad 3 4 0xF001 ∧
    decode .staging [0b1111010_000_000_001, 0b1111011_000_0_00_010, 0b0011100_000_001_010] = .bad 3 1 0xF602 ∧
    decode .staging [0b0000100_100_001_001] = .bad 2 0 0x0909 ∧ decode .staging [0b0000011_110_000_001] = .bad 2 0 0x0781 ∧
    decode .staging [0b1111110_000001_000, 0b0110001_000000000] = .bad 4 0 0xFC08 ∧
    decode .staging [0b1111001_0000000_10, 0b0001001_001_010_000] = .bad 5 1 0x1250 ∧ decode .staging [0b0011101_00000_1111] = .bad 2 0 0x3A0F := by decide

/-- The spec's own examples of decoding chains (03_encoding). -/
theorem test_dec_examples : reads [0xF001, 0x0859] (.add { imm := [1] } (.mem ⟨.up, 3, 1⟩)) ∧ reads [0xF001, 0x3DE8] (.ldi { imm := [1] } 0x1E8) ∧
    widenS (0x1E8 : BitVec 9) [1] = 1000 ∧ reads [0xF201, 0x0859] (.vmul {} 1 3 1) ∧ decode .staging [0xF200, 0x0200] = .bad 2 0 0xF200 ∧
    decode .staging [0xF201, 0xF201, 0x0A53] = .bad 3 1 0xF201 ∧ decode .staging [0xF8A4, 0x8000, 0x0A53] = .bad 4 0 0xF8A4 ∧
    decode .staging [0xFC41, 0xF001, 0x0859] = .bad 3 1 0xF001 ∧
    reads [0xF201, 0xF8A4, 0x8000, 0x0A53] (.vfma { v := some ⟨2, true, 1, 4, false, false, false⟩ } 1 2 3) ∧ reads [0x8080] (.waitf 2) ∧
    reads [0x8280] (.waite 2) ∧ reads [0xF203, 0x1C98] (.dbgrd 2 3) ∧ reads [0xF203, 0x1C99] (.dbgrdTag 2 3) ∧ reads [0xF203, 0x1E98] (.dbgwr 2 3) := by
  unfold reads; decide

/-- Worked words of the spec, page 0. -/
theorem test_dec_worked0 : reads [0x04E0] (.ld {} (.mem ⟨.sync, 4, 0⟩)) ∧ reads [0x08D1] (.add {} (.mem ⟨.sync, 2, 1⟩)) ∧
    reads [0x06E0] (.st {} ⟨.sync, 4, 0⟩) ∧ reads [0x6600] .ret ∧ reads [0x6800] .jr ∧ reads [0x6A00] .callr ∧ reads [0x7205] (.trap 5) ∧
    reads [0x7403] (.svc 3) ∧ reads [0x84C0] (.monitor {} 3) ∧ reads [0x8802] (.sleept 2) ∧ reads [0x8E01] .voteOr ∧ reads [0x9003] (.semp 3) ∧
    reads [0x9201] (.semv 1) ∧ reads [0x9402] (.evsig 2) := by unfold reads; decide

/-- Worked words of the spec, page 2. -/
theorem test_dec_worked2 : let at2 (w : Half) (i : Instr) : Prop := decode .issuing [0xF202, w] = .ok i 2
    at2 0x0250 (.mma {} 1 2 0) ∧ at2 0x0253 (.mmz {} 1 2 1) ∧ at2 0x04C1 (.mmst {} 3 1) ∧ at2 0x0700 (.mmld {} 4 0) ∧ at2 0x0940 (.mmmask {} 5 0) ∧
    at2 0x0A50 (.mmsub {} 1 2 0) ∧ at2 0x42C0 (.qtab 3) ∧ at2 0x4800 .spush ∧ at2 0x4A00 .spop ∧ at2 0x4C00 .sfork ∧ at2 0x4E02 (.speek 2) ∧
    at2 0x5008 (.msum 1) ∧ at2 0x5208 (.tsrch 1) ∧ at2 0x5588 (.tmass 6 1) ∧ at2 0x5780 (.tdesc 6) ∧ at2 0x5808 (.tfind 1) ∧ at2 0x2080 (.mbpub 2) ∧
    at2 0x22C0 (.mbget 3) ∧ at2 0x2401 .mbinfoTime ∧ at2 0x3002 (.esopen 2) ∧ at2 0x3402 (.escommit 2) ∧ at2 0x3602 (.esabort 2) ∧ at2 0x3940 (.pgalloc 5) ∧
    at2 0x3B40 (.pgfree 5) ∧ at2 0x7100 (.launch 4) := by decide

/-- Worked words of the spec, page 3. -/
theorem test_dec_worked3 : let at3 (w : Half) (i : Instr) : Prop := decode .staging [0xF203, w] = .ok i 2
    let disp (w : Half) (i : Instr) : Prop := decode .dispatch [0xF203, w] = .ok i 2
    at3 0x0EC0 (.seize 3) ∧ at3 0x0EC1 (.seizeArm 3) ∧ at3 0x10C0 (.release 3) ∧ disp 0x2E80 (.preempt 2) ∧ disp 0x3080 (.resume 2) ∧
    at3 0x2028 (.tlbinvVa 5) ∧ at3 0x2019 (.tlbinvTen 3) ∧ at3 0x1800 .gennew ∧ at3 0x1801 .gennewKeep ∧ at3 0x1A00 .genset ∧ at3 0x1200 .banksw ∧
    at3 0x1480 (.shld 2) ∧ at3 0x1481 (.shldImg 2) ∧ at3 0x1680 (.shst 2) ∧ disp 0x2400 .seal ∧ disp 0x2680 (.jrnl 2) := by decide

/-! Ill-formed terms, one for each check of WellFormed. -/

/-- Leading words: one not accepted, a SCOPE of 7, a K field not used, RND of 110, C and ZERO where they are not used, PFX.V or PFX.X missing, PFX.I before
REP, a STEP bit with no field, five prefixes. -/
theorem test_wf_prefixes : (Instr.nop { m := some ⟨false, 0, 2⟩ }).wf = false ∧ (Instr.ld { m := some ⟨false, 0, 7⟩ } (.mem ⟨.plain, 0, 0⟩)).wf = false ∧
    (Instr.mac { x := some ⟨1, 0, 0⟩ } (.mem ⟨.plain, 0, 0⟩)).wf = false ∧ (Instr.gath { x := some ⟨0, 1, 0⟩ } 0 0 0).wf = false ∧
    (Instr.cpym { x := some ⟨1, 0, 1⟩ } 0 0 0).wf = false ∧ (Instr.vadd { v := some ⟨0, false, 6, 0, false, false, false⟩ } 0 0 0).wf = false ∧
    (Instr.vadd { v := some ⟨0, false, 0, 1, false, false, false⟩ } 0 0 0).wf = false ∧
    (Instr.vredSum { v := some ⟨0, true, 0, 0, false, false, false⟩ } 0 0).wf = false ∧ (Instr.vsel {} 0 0 0).wf = false ∧
    (Instr.mac {} (.imm 1)).wf = false ∧ (Instr.ldi { imm := [1], rep := some ⟨[], 1, 0⟩ } 0).wf = false ∧
    (Instr.pset { imm := [1] } 0).wf = false ∧ (Instr.pset { rep := some ⟨[], 1, 2⟩ } 0).wf = false ∧ (Instr.nop { rep := some ⟨[], 1, 1⟩ }).wf = false ∧
    (Instr.nop { rep := some ⟨[], 1, 4⟩ }).wf = false ∧ (Instr.j { rep := some ⟨[], 1, 0⟩ } 0).wf = false ∧ (Instr.ldi { imm := [1, 1, 1, 1, 1] } 0).wf = false := by
  decide

/-- Fields: PSTEP and PSPAN out of range, a no-return atomic with acquire, a fence of scope 7, bank 3, QSEQ's format 3, TLBINV's scope, places that are
not there, ILLEGAL's reasons. -/
theorem test_wf_fields : (Instr.pstep { imm := [1, 0, 0, 0] } 0 0).wf = false ∧ (Instr.pspan { imm := [8, 0, 0] } 0 0).wf = false ∧
    (Instr.aadd {} 1 0 true).wf = false ∧ (Instr.acas {} 3 0 0 true).wf = false ∧ (Instr.fenceSeq 7).wf = false ∧ (Instr.mma {} 0 0 3).wf = false ∧
    (Instr.mmst {} 0 3).wf = false ∧ (Instr.mmmask {} 0 3).wf = false ∧ (Instr.qseq {} false 3).wf = false ∧ (Instr.qseqStore {} 0 false 3).wf = false ∧
    (Instr.tlbinvVa 2).wf = false ∧ (Instr.tlbinvAll 6).wf = false ∧ (Instr.engineFill ⟨true, 2, 0⟩ 0).wf = false ∧ (Instr.engineFill ⟨false, 6, 0⟩ 0).wf = false ∧
    (Instr.engineFill ⟨false, 0, 8⟩ 0).wf = false ∧ (Instr.correctedError (some ⟨⟨true, 2, 0⟩, false⟩)).wf = false ∧
    (Instr.eccUncorrectable (.granule ⟨true, 2, 0⟩ 0)).wf = false ∧ (Instr.timerTick ⟨true, 2⟩ 0).wf = false ∧ (Instr.illegalInstruction 0 0 0).wf = false ∧
    (Instr.illegalInstruction 9 0 0).wf = false ∧ (Instr.illegalInstruction 1 6 0).wf = false := by decide

end Sys2Proof.Tests
end

section
/-! SUPPORT. The event rows of failures, power and the hot spare (R7, R40, R391, R394, R399, R404 to R407, R414, R424, R425). -/

namespace Sys2Proof.Machine

/-! The rows' meanings: the event where it is enabled, no change where it is not. -/

@[simp] theorem happen_some (s t : State) : happen s (some t) = .next t := rfl
@[simp] theorem happen_none (s : State) : happen s none = .next s := rfl

@[simp] theorem exec_checkerMismatch (n : CheckedCore) (again : Bool) (s : State) :
    exec (.checkerMismatch n again) s = happen s (evCheckerMismatch n again s) := rfl
@[simp] theorem exec_coreKill (n : CoreName) (cause : Byte) (s : State) : exec (.coreKill n cause) s = happen s (evCoreKill n cause s) := rfl
@[simp] theorem exec_eccUncorrectable (site : EccSite) (s : State) :
    exec (.eccUncorrectable site) s = happen s (evEccUncorrectable site s) := rfl
@[simp] theorem exec_correctedError (t : Option CoreName) (s : State) :
    exec (.correctedError t) s = happen s (evCorrectedError t s) := rfl
@[simp] theorem exec_injection (s : State) : exec .injection s = happen s (evInjection s) := rfl
@[simp] theorem exec_spareLinkRetrain (s : State) : exec .spareLinkRetrain s = happen s (evSpareLinkRetrain s) := rfl
@[simp] theorem exec_dispatchTakeover (why : BitVec 2) (s : State) :
    exec (.dispatchTakeover why) s = happen s (evDispatchTakeover why s) := rfl
@[simp] theorem exec_boot (codes : List (BitVec 4)) (mhz : BitVec 32) (s : State) :
    exec (.boot codes mhz) s = happen s (evBoot codes mhz s) := rfl
@[simp] theorem exec_powerOn (s : State) : exec .powerOn s = happen s (evPowerOn s) := rfl
@[simp] theorem exec_powerDown (s : State) : exec .powerDown s = happen s (evPowerDown s) := rfl
@[simp] theorem exec_moduleReset (s : State) : exec .moduleReset s = happen s (evModuleReset s) := rfl
@[simp] theorem exec_powerInterval (mw : Nat) (tj : BitVec 16) (s : State) :
    exec (.powerInterval mw tj) s = happen s (evPowerInterval mw tj s) := rfl
@[simp] theorem exec_activeAssert (s : State) : exec .activeAssert s = happen s (evActiveAssert s) := rfl
@[simp] theorem exec_activeTie (s : State) : exec .activeTie s = happen s (evActiveTie s) := rfl
@[simp] theorem exec_failover (s : State) : exec .failover s = happen s (evFailover s) := rfl
@[simp] theorem exec_journalMirrorReceive (bs : List Byte) (s : State) :
    exec (.journalMirrorReceive bs) s = happen s (evJournalMirrorReceive bs s) := rfl
@[simp] theorem exec_mirrorReceive (slot units : BitVec 10) (ver stamp : Word) (wrank uf : BitVec 32) (bs : List Byte) (s : State) :
    exec (.mirrorReceive slot units ver stamp wrank uf bs) s = happen s (evMirrorReceive slot units ver stamp wrank uf bs s) := rfl

/-! Contexts under a change of all of them, and what a trace record leaves. -/

@[simp] theorem State.mapCtx_ctxs (s : State) (f : Ctx → Ctx) : (s.mapCtx f).ctxs = s.ctxs.map f := rfl

/-- A trace record is added to those that are due, and nothing else changes. -/
theorem State.trace_frame (s : State) (ty : Nat) (t : Option Nat) (c : Option (BitVec 8)) (n : Nat) (w p : Word) :
    ∃ due, s.trace ty t c n w p = { s with ewq := due } :=
  iteInduction (motive := fun u : State => ∃ due, u = { s with ewq := due }) (fun _ => ⟨_, rfl⟩) fun _ => ⟨s.ewq, rfl⟩

/-- So do several records, one after another. -/
theorem State.traces_frame {α : Type} (ty : Nat) (t : Option Nat) (c : Option (BitVec 8)) (l : List α) (s : State) :
    ∃ due, l.foldl (fun s _ => s.trace ty t c) s = { s with ewq := due } :=
  List.foldlRecOn (motive := fun u : State => ∃ due, u = { s with ewq := due }) l _ ⟨s.ewq, rfl⟩ fun _ kept _ _ => by
    obtain ⟨_, rfl⟩ := kept
    exact State.trace_frame ..

/-! Storage outside what is written or kept. -/

/-- Every key but the one set reads as before, in canonical form or not. -/
theorem kvGet_kvSet_ne {α : Type} [DecidableEq α] {d : α} (k j : Nat) (v : α) (other : j ≠ k) :
    ∀ l : List (Nat × α), kvGet d (kvSet d l k v) j = kvGet d l j
  | [] => by
    simp only [kvSet]
    split <;> simp [kvGet, other.symm]
  | (a, x) :: r => by
    have rest := kvGet_kvSet_ne (d := d) k j v other r
    rcases Nat.lt_trichotomy a k with below | rfl | above
    · simp only [kvSet, below, if_true, kvGet, rest]
    · by_cases default : v = d <;> simp [kvSet, default, kvGet, other.symm]
    · by_cases default : v = d <;> simp [kvSet, default, kvGet, other.symm, Nat.lt_asymm above, Nat.ne_of_gt above]

/-- Leaving out keys leaves the others as they were. -/
theorem kvGet_filter_key {α : Type} {d : α} (p : Nat → Bool) (k : Nat) :
    ∀ l : List (Nat × α), kvGet d (l.filter fun x => p x.1) k = if p k then kvGet d l k else d
  | [] => by simp [kvGet]
  | (a, x) :: r => by
    have rest := kvGet_filter_key (d := d) p k r
    by_cases here : a = k
    · subst here
      by_cases kept : p a = true <;> simp [kvGet, kept, rest]
    · by_cases kept : p a = true <;> simp [kvGet, kept, rest, here]

/-- A byte below those written reads as before. -/
theorem Mem.byte_write_below (j : Nat) : ∀ (bs : List Byte) (m : List Host.Cell) (k : Nat), j < k →
    Mem.byte (Mem.write m k bs) j = Mem.byte m j
  | [], _, _, _ => rfl
  | b :: bs, m, k, below =>
    (Mem.byte_write_below j bs (Mem.setByte m k b) (k + 1) (by omega)).trans (kvGet_kvSet_ne k j b (Nat.ne_of_lt below) m)

/-- The dispatch cores' local memory lies above DRAM's keys. -/
theorem dispKey_above (b : Bool) (off : Nat) : 2 ^ 60 ≤ dispKey b off := by
  simp only [dispKey]; omega

/-! Checkers, kills and soft errors (R391, R394, R407). -/

/-- A mismatch on a tile's core in service. -/
theorem checkerMismatch_tile {s : State} {n : CoreName} (again : Bool) (on : s.sclen = true) (here : s.hasTile n.tile = true)
    (alive : (s.coreAt n).killed = false) :
    exec (.checkerMismatch (.tile n) again) s = .next (if again then s.hardKill n cMCHK else s.corrected n) := by
  cases again <;> simp [evCheckerMismatch, on, here, alive]

/-- A mismatch on a dispatch core in service. -/
theorem checkerMismatch_dispatch {s : State} {b : Bool} (again : Bool) (on : s.sclen = true) (alive : s.dispAlive b = true) :
    exec (.checkerMismatch (.dispatch b) again) s = .next (if again then s.dispCheck b 2 else s.countCorr) := by
  cases again <;> simp [evCheckerMismatch, on, alive]

theorem coreKill_next {s : State} {n : CoreName} {cause : Byte} (here : s.hasTile n.tile = true) (alive : (s.coreAt n).killed = false)
    (known : cause = cMCHK ∨ cause = cCHECK ∨ cause = 1) : exec (.coreKill n cause) s = .next (s.hardKill n cause) := by
  have known' : (decide (cause = cMCHK) || decide (cause = cCHECK) || decide (cause = 1)) = true := by
    simpa [or_assoc] using known
  simp only [exec_coreKill, evCoreKill, here, alive, known', Bool.not_true, Bool.or_false, Bool.false_eq_true, if_false, happen_some]

theorem eccUncorrectable_coreState {s : State} {n : CoreName} (here : s.hasTile n.tile = true) (alive : (s.coreAt n).killed = false) :
    exec (.eccUncorrectable (.coreState n)) s = .next (s.hardKill n 1) := by
  simp [evEccUncorrectable, here, alive]

theorem eccUncorrectable_dispatchMemory {s : State} {b : Bool} (alive : s.dispAlive b = true) :
    exec (.eccUncorrectable (.dispatchMemory b)) s = .next (s.dispCheck b 1) := by
  simp [evEccUncorrectable, alive]

theorem eccUncorrectable_dispatchState {s : State} {b : Bool} (alive : s.dispAlive b = true) :
    exec (.eccUncorrectable (.dispatchState b)) s = .next (s.dispCheck b 3) := by
  simp [evEccUncorrectable, alive]

theorem eccUncorrectable_granule {s : State} {l : Loc} {g : Nat} (here : s.hasTile l = true) (inside : g * 32 < tileSize l) :
    exec (.eccUncorrectable (.granule l g)) s =
      .next (s.setGran (tileKey l (g * 32) / 32) { s.gran (tileKey l (g * 32) / 32) with poison := true }) := by
  simp [evEccUncorrectable, here, inside]

theorem eccUncorrectable_sector {s : State} {pa : Nat} (inside : pa < s.dramBytes) :
    exec (.eccUncorrectable (.sector pa)) s = .next (s.setGran (pa / 32) { s.gran (pa / 32) with poison := true }) := by
  simp [evEccUncorrectable, inside]

theorem eccUncorrectable_icache {s : State} {n : CoreName} (here : s.hasTile n.tile = true) :
    exec (.eccUncorrectable (.icache n)) s = .next s := by
  simp [evEccUncorrectable, here]

theorem correctedError_present {s : State} {t : Option CoreName} (here : ∀ n, t = some n → s.hasTile n.tile = true) :
    exec (.correctedError t) s = .next (s.trace 11 none (t.map fun n => coreCode n.tile n.ic)) := by
  cases t with
  | none => simp [evCorrectedError]
  | some n => simp [evCorrectedError, here n rfl]

theorem correctedError_absent {s : State} {n : CoreName} (gone : s.hasTile n.tile = false) :
    exec (.correctedError (some n)) s = .next s := by
  simp [evCorrectedError, gone]

/-! Injections (R399). -/

/-- An injection fires and disarms its injector, and nothing else changes but the trace records that are due. -/
theorem State.inject_frame (s : State) (x : Injector) :
    ∃ due, s.inject x =
      { s with
        injectors := s.injectors.map fun y => if y.sel = x.sel then { y with armed := false, fired := true } else y
        ewq := due } := State.traces_frame ..

/-- An injector that corrupts no retransmission changes no value. -/
theorem injection_passing {s : State} {x : Injector}
    (due : (s.injectors.filter fun x => x.armed && x.seen + 1 = x.at')[s.pick]? = some x) (passing : bits x.dat 63 62 ≠ 1) :
    exec .injection s = .next (s.inject x) := by
  have transient : x.persists = false := by simp [Injector.persists, passing]
  simp [evInjection, due, transient]

/-! Dispatch failures (R13, R404). -/

/-- The contexts of a stopped dispatch core are halted. -/
theorem State.stopDisp_halted {s : State} {b : Bool} {c : Ctx} (found : c ∈ (s.stopDisp b).ctxs) (place : c.place = .dispatch b) :
    c.halted = true := by
  simp only [State.stopDisp, State.mapCtx_ctxs, List.mem_map] at found
  obtain ⟨d, -, rfl⟩ := found
  by_cases there : d.place = .dispatch b
  · simp only [there, if_true]
  · simp only [there, if_false] at place

theorem State.stopDisp_standby_dstby (s : State) : (s.stopDisp true).dstby = false := by
  have stopped : ((s.stopDisp true).disp.toList.getD 1 {}).alive = false := by
    simp [State.stopDisp, vset, b2n]
  simp only [State.dstby, stopped, Bool.and_false]

@[simp] theorem State.sendMsix_mem (s : State) (t v : Nat) : (s.sendMsix t v).mem = s.mem := by
  simp only [State.sendMsix]; split <;> rfl

@[simp] theorem State.sendMsix_ctxs (s : State) (t v : Nat) : (s.sendMsix t v).ctxs = s.ctxs := by
  simp only [State.sendMsix]; split <;> rfl

/-- With a standby in service it takes over from the halted primary. -/
theorem State.dispFail_takeover {s : State} (why : Nat) (ready : s.dstby = true) :
    s.dispFail why =
      { (s.stopDisp false).mapCtx fun c => if c.place = .dispatch true then c.takeOver why else c with standbyLeads := true } := by
  simp only [State.dispFail, ready, if_true]

theorem State.dispFail_takeover_ctxs {s : State} (why : Nat) (ready : s.dstby = true) :
    (s.dispFail why).ctxs = (s.stopDisp false).ctxs.map fun c => if c.place = .dispatch true then c.takeOver why else c := by
  rw [State.dispFail_takeover why ready]
  rfl

/-- The contexts after a takeover: the primary's halted, the standby's entered at TVEC. -/
theorem State.mem_dispFail_takeover {s : State} {why : Nat} (ready : s.dstby = true) {c : Ctx} (found : c ∈ (s.dispFail why).ctxs) :
    (c.place = .dispatch false → c.halted = true) ∧
      (c.place = .dispatch true → c.halted = false ∧ c.prv = .m ∧ c.pc = c.tvec ∧ c.trap.cause = 0x1A ∧ c.trap.val = w64 why) := by
  rw [State.dispFail_takeover_ctxs why ready] at found
  obtain ⟨d, stopped, rfl⟩ := List.mem_map.mp found
  by_cases standby : d.place = .dispatch true
  · simp [standby, Ctx.takeOver, cMCHK, w64]
  · simp only [standby, if_false, false_implies, and_true]
    exact State.stopDisp_halted stopped

/-- With no standby the core in charge is halted, ACTIVE drops and every tenant is told; storage stays. -/
theorem State.dispFail_alone {s : State} (why : Nat) (alone : s.dstby = false) :
    (∀ c ∈ (s.dispFail why).ctxs, c.place = .dispatch s.standbyLeads → c.halted = true) ∧ (s.dispFail why).active = false ∧
      (s.dispFail why).mem = s.mem := by
  obtain ⟨t, failed, ctxs, mem⟩ : ∃ t : State, s.dispFail why = { t with active := false } ∧
      t.ctxs = (s.stopDisp s.standbyLeads).ctxs ∧ t.mem = s.mem := by
    simp only [State.dispFail, alone, Bool.false_eq_true, if_false]
    exact ⟨_, rfl, List.foldlRecOn (motive := fun t : State => t.ctxs = (s.stopDisp s.standbyLeads).ctxs ∧ t.mem = s.mem) _ _
      ⟨rfl, rfl⟩ fun t kept _ _ => ⟨(t.sendMsix_ctxs ..).trans kept.1, (t.sendMsix_mem ..).trans kept.2⟩⟩
  rw [failed]
  exact ⟨fun c found => State.stopDisp_halted (ctxs ▸ found), rfl, mem⟩

/-- A machine check of the core in charge is its failure. -/
theorem State.dispCheck_leader (s : State) (why : Nat) : s.dispCheck s.standbyLeads why = s.dispFail why := by
  simp [State.dispCheck]

/-- A machine check of the standby while the primary is in charge stops the standby. -/
theorem State.dispCheck_standby {s : State} (why : Nat) (primary : s.standbyLeads = false) : s.dispCheck true why = s.stopDisp true := by
  simp [State.dispCheck, primary]

theorem dispatchTakeover_leader {s : State} {why : BitVec 2} (failed : why ≠ 0) (pick : s.pick = 0)
    (alive : s.dispAlive s.standbyLeads = true) : exec (.dispatchTakeover why) s = .next (s.dispCheck s.standbyLeads why.toNat) := by
  simp [evDispatchTakeover, BitVec.ofNat_eq_ofNat ▸ failed, pick, alive]

theorem dispatchTakeover_standby {s : State} {why : BitVec 2} (failed : why ≠ 0) (pick : s.pick ≠ 0) (alive : s.dispAlive true = true) :
    exec (.dispatchTakeover why) s = .next (s.dispCheck true why.toNat) := by
  simp [evDispatchTakeover, BitVec.ofNat_eq_ofNat ▸ failed, pick, alive]

/-- Where the standby waits in service, the primary is in charge. -/
theorem State.standbyLeads_of_dstby {s : State} (ready : s.dstby = true) : s.standbyLeads = false := by
  simp only [State.dstby, Bool.and_eq_true, Bool.not_eq_true'] at ready
  exact ready.1.2

/-- The rows of failures, clause by clause. -/
theorem failureRows : FailureRows := by
  intro n b cause t l g pa why x s
  refine ⟨fun on here alive => ⟨checkerMismatch_tile false on here alive, checkerMismatch_tile true on here alive⟩,
    fun alive => ⟨fun on => ⟨checkerMismatch_dispatch false on alive, checkerMismatch_dispatch true on alive⟩,
      eccUncorrectable_dispatchMemory alive, eccUncorrectable_dispatchState alive⟩,
    fun here alive known => ⟨coreKill_next here alive known, eccUncorrectable_coreState here alive⟩,
    ⟨eccUncorrectable_granule, eccUncorrectable_sector⟩, eccUncorrectable_icache, correctedError_present, ?absent, ?injection, ?retrain,
    fun failed => ⟨dispatchTakeover_leader failed, dispatchTakeover_standby failed⟩, ?takeover, ?alone, ?standby⟩
  case absent =>
    rintro m rfl gone
    exact correctedError_absent gone
  case injection =>
    intro due passing
    obtain ⟨_, fired⟩ := s.inject_frame x
    refine ⟨_, injection_passing due passing, ?_⟩
    rw [fired]
    exact ⟨rfl, rfl, rfl⟩
  case retrain =>
    intro spare
    simp [evSpareLinkRetrain, spare, State.retrain]
  case takeover =>
    intro pick failed ready alive
    have primary := State.standbyLeads_of_dstby ready
    have inService : s.dispAlive s.standbyLeads = true := by
      rw [primary]; simpa [State.dispAlive, b2n] using alive
    refine ⟨_, dispatchTakeover_leader failed pick inService, ?_⟩
    rw [State.dispCheck_leader]
    have taken := State.dispFail_takeover why.toNat ready
    exact ⟨by rw [taken], by rw [taken]; rfl, fun c found => State.mem_dispFail_takeover ready found⟩
  case alone =>
    intro pick failed alone alive
    refine ⟨_, dispatchTakeover_leader failed pick alive, ?_⟩
    rw [State.dispCheck_leader]
    exact State.dispFail_alone _ alone
  case standby =>
    intro pick failed primary alive
    refine ⟨_, dispatchTakeover_standby failed pick alive, ?_⟩
    rw [State.dispCheck_standby _ primary]
    exact ⟨s.stopDisp_standby_dstby, primary, fun _ => State.stopDisp_halted⟩

/-! Boot, power and reset (R40, R406, R424, R425). -/

theorem boot_next {s : State} {codes : List (BitVec 4)} {mhz : BitVec 32} (power : s.powered = true) (waiting : s.booted = false)
    (follows : s.bootCodes (codes.map BitVec.toNat) = true) (tries : s.bootTries < 4) (clock : mhz.toNat = bootMhz codes) :
    exec (.boot codes mhz) s = .next (s.boot codes mhz) := by
  simp [evBoot, power, waiting, follows, Nat.not_le.mpr tries, clock]

/-- An attempt is counted, and touches no storage. -/
theorem State.boot_counts (s : State) (codes : List (BitVec 4)) (mhz : BitVec 32) :
    (s.boot codes mhz).boots = s.boots + 1 ∧ (s.boot codes mhz).bootTries = s.bootTries + 1 ∧ (s.boot codes mhz).mem = s.mem := by
  simp only [State.boot]
  split <;> exact ⟨rfl, rfl, rfl⟩

/-- A code with which a step does not fail: passed, skipped, or passed when done differently. -/
theorem State.boot_passes {s : State} {codes : List (BitVec 4)} (mhz : BitVec 32) (pass : ∀ c ∈ codes, c = 1 ∨ c = 3 ∨ c = 4) :
    (s.boot codes mhz).booted = true ∧ (s.boot codes mhz).own = 0 ∧ (s.boot codes mhz).epoch = 0 := by
  have all : (codes.all fun c => c = 1 || c = 3 || c = 4) = true := by simpa [or_assoc] using pass
  simp only [State.boot, all, if_true, and_self]

theorem State.boot_fails {s : State} {codes : List (BitVec 4)} (mhz : BitVec 32) (fail : ∃ c ∈ codes, c ≠ 1 ∧ c ≠ 3 ∧ c ≠ 4) :
    (s.boot codes mhz).booted = s.booted := by
  have notAll : (codes.all fun c => c = 1 || c = 3 || c = 4) = false := by simpa [and_assoc] using fail
  simp only [State.boot, notAll, Bool.false_eq_true, if_false]

theorem powerOn_next {s : State} (off : s.powered = false) :
    exec .powerOn s = .next { s.moduleReset with
      mem := [], powered := true, boots := 0, bootTries := 0, bootJrnl := List.replicate 128 0, bootStep := 0, clockStep := 0 } := by
  simp only [exec_powerOn, evPowerOn, off, Bool.false_eq_true, if_false, happen_some]

theorem moduleReset_next {s : State} (power : s.powered = true) : exec .moduleReset s = .next s.moduleReset := by
  simp only [exec_moduleReset, evModuleReset, power, if_true, happen_some]

/-- Module reset keeps DRAM and clears all other storage. -/
theorem State.moduleReset_byte (s : State) (k : Nat) :
    Mem.byte s.moduleReset.mem k = if k < 2 ^ 60 then Mem.byte s.mem k else 0 :=
  (kvGet_filter_key (d := memDefault) (fun a => decide (a < 2 ^ 60)) k s.mem).trans (by simp only [decide_eq_true_eq]; rfl)

/-- TEMP's low field holds the temperature written there. -/
theorem ofNat_w64_low (top : Nat) (tj : BitVec 16) : BitVec.ofNat 16 (w64 (top * 65536 + tj.toNat)).toNat = tj := by
  apply BitVec.eq_of_toNat_eq
  simp only [w64, BitVec.toNat_ofNat]
  omega

/-! The spare module's journal, pin and takeover (R401, R405, R414). -/

/-- The ACTIVE pin and DRAM stay. -/
def State.KeepsDram (s t : State) : Prop := t.active = s.active ∧ ∀ k, k < 2 ^ 60 → Mem.byte t.mem k = Mem.byte s.mem k

theorem State.KeepsDram.refl (s : State) : s.KeepsDram s := ⟨rfl, fun _ _ => rfl⟩
theorem State.KeepsDram.trans {s t u : State} (st : s.KeepsDram t) (tu : t.KeepsDram u) : s.KeepsDram u :=
  ⟨tu.1.trans st.1, fun k low => (tu.2 k low).trans (st.2 k low)⟩
theorem State.KeepsDram.of_eq {s t : State} (active : t.active = s.active) (mem : t.mem = s.mem) : s.KeepsDram t :=
  ⟨active, fun _ _ => by rw [mem]⟩

theorem State.journal_keepsDram (s : State) (bs : List Byte) : s.KeepsDram (s.journal bs) := by
  refine ⟨rfl, fun k low => ?_⟩
  have first := Nat.lt_of_lt_of_le low (dispKey_above false (0x10_0000 + 64 * s.jrnlHead))
  have second := Nat.lt_of_lt_of_le low (dispKey_above false (0x18_0000 + 64 * s.jrnlHead))
  exact (Mem.byte_write_below k bs _ _ second).trans (Mem.byte_write_below k bs _ _ first)

theorem State.writeRecord_keepsDram (s : State) (payload : List Byte) : s.KeepsDram (s.writeRecord payload) := by
  simp only [State.writeRecord]
  generalize leBytes 4 _ ++ leBytes 4 _ ++ payload = bs
  split <;> exact (s.journal_keepsDram bs).trans (.of_eq rfl rfl)

theorem State.firmRecord_keepsDram (s : State) (op ten a : Nat) : s.KeepsDram (s.firmRecord op ten a) := s.writeRecord_keepsDram _

theorem State.moveCkpt_keepsDram (s : State) : s.KeepsDram s.moveCkpt := by
  unfold State.moveCkpt
  generalize List.range 16 = tenants
  refine .trans (List.foldlRecOn (motive := s.KeepsDram) tenants _ (.refl s) fun t kept n _ => ?_) (.of_eq rfl rfl)
  split
  · exact kept.trans (t.firmRecord_keepsDram ..)
  · exact kept

theorem State.makeRoom_keepsDram (s : State) : s.KeepsDram s.makeRoom := by
  simp only [State.makeRoom]
  split
  · exact s.moveCkpt_keepsDram
  · exact .refl s

theorem State.replayRecord_keepsDram (s : State) (bs : List Byte) : s.KeepsDram (s.replayRecord bs) := by
  simp only [State.replayRecord]
  repeat' split
  all_goals exact .of_eq rfl rfl

theorem State.replay_keepsDram (n : Nat) : ∀ (s : State) (i : Nat), s.KeepsDram (s.replay i n) := by
  induction n with
  | zero => exact fun s _ => .refl s
  | succ n ih =>
    intro s i
    simp only [State.replay]
    split
    · exact .refl s
    · split
      · exact .refl s
      · exact (s.replayRecord_keepsDram _).trans (ih _ _)

theorem State.setVtime_keepsDram (s : State) (r : LaunchRec) (t v : Nat) : s.KeepsDram (s.setVtime r t v) := by
  simp only [State.setVtime]
  split <;> exact .of_eq rfl rfl

theorem State.setQueue_keepsDram (s : State) (r : LaunchRec) (q : List Queued) : s.KeepsDram (s.setQueue r q) := by
  simp only [State.setQueue]
  split <;> exact .of_eq rfl rfl

theorem State.enqueue_keepsDram (s : State) (q : Queued) : s.KeepsDram (s.enqueue q) := by
  refine .trans ?_ (State.setQueue_keepsDram _ _ _)
  split
  · exact .refl s
  · split
    · exact .refl s
    · exact s.setVtime_keepsDram ..

theorem State.launchGraph_keepsDram (s : State) (ten : Nat) (pa : Word) : s.KeepsDram (s.launchGraph ten pa) := by
  have recorded : s.KeepsDram (s.makeRoom.firmRecord 2 ten (dramBase + pa.toNat)) :=
    s.makeRoom_keepsDram.trans (State.firmRecord_keepsDram ..)
  simp only [State.launchGraph]
  split
  · refine recorded.trans (.trans ?_ (State.enqueue_keepsDram _ _))
    exact .of_eq rfl rfl
  · exact recorded

theorem State.startRoots_keepsDram (n : Nat) : ∀ s : State, s.KeepsDram (s.startRoots n) := by
  induction n with
  | zero => exact fun s => .refl s
  | succ n ih =>
    intro s
    simp only [State.startRoots]
    split
    · exact .refl s
    · split
      · exact ((s.launchGraph_keepsDram ..).trans (.of_eq rfl rfl)).trans (ih _)
      · exact .refl s

/-- The spare module's takeover asserts ACTIVE and writes the journal alone. -/
theorem failover_next {s : State} (spare : s.spare = true) (passive : s.active = false) (due : s.activeFrom ≤ s.cyc)
    (alive : s.dispAlive s.standbyLeads = true) :
    ∃ u, exec .failover s = .next u ∧ ({ s with active := true } : State).KeepsDram u := by
  simp only [exec_failover, evFailover, spare, passive, alive, Nat.not_lt.mpr due, Bool.not_true, Bool.or_false, decide_false, Bool.false_eq_true,
    if_false, happen_some]
  have replayed := State.replay_keepsDram 8192 { s with active := true } s.jrnlCkpt
  generalize State.replay { s with active := true } s.jrnlCkpt 8192 = t at replayed ⊢
  have placed : t.KeepsDram (if t.ckptHolds then t else t.moveCkpt) := by
    split
    · exact .refl t
    · exact t.moveCkpt_keepsDram
  exact ⟨_, rfl, (replayed.trans placed).trans (.trans (.of_eq rfl rfl) (State.startRoots_keepsDram 16 _))⟩

theorem activeAssert_next {s : State} (passive : s.active = false) (due : s.activeFrom ≤ s.cyc) :
    exec .activeAssert s = .next { s with active := true } := by
  simp [evActiveAssert, passive, Nat.not_lt.mpr due]

theorem activeTie_next {s : State} (passive : s.active = false) (due : s.activeFrom ≤ s.cyc) :
    exec .activeTie s =
      .next (if bit s.capsReg 10 = true ∨ s.pick = 1 then { s with activeFrom := s.cyc + 1028 } else { s with active := true }) := by
  by_cases withdraws : bit s.capsReg 10 = true ∨ s.pick = 1 <;> simp [evActiveTie, passive, Nat.not_lt.mpr due, withdraws]

theorem journalMirrorReceive_next {s : State} {bs : List Byte} (spare : s.spare = true) (passive : s.active = false)
    (whole : bs.length = 64) : exec (.journalMirrorReceive bs) s = .next (s.journal bs) := by
  simp [evJournalMirrorReceive, spare, passive, whole]

/-- The second copy of the record at HEAD holds what was written (R401). -/
theorem State.journal_byte {s : State} (wf : Memory.wf s.mem = true) (bs : List Byte) (j : Nat) (inside : j < bs.length) :
    Mem.byte (s.journal bs).mem (dispKey false (0x18_0000 + 64 * s.jrnlHead) + j) = bs.getD j 0 :=
  Mem.byte_write_at bs _ _ j (Memory.wf_write bs s.mem _ wf) inside

/-! A version that the spare module receives (R405). -/

theorem State.slot_num (s : State) (n : Nat) : (s.slot n).num = n := by
  unfold State.slot
  cases found : s.slots.find? fun x => x.num = n with
  | none => rfl
  | some x => simpa using List.find?_some found

/-- A slot's entry reads as it was set. -/
theorem State.slot_setSlot (s : State) {x : Slot} {n : Nat} (num : x.num = n) : (s.setSlot x).slot n = x := by
  subst num
  have before : (s.slots.filter fun y => y.num < x.num).find? (fun y => y.num = x.num) = none := by
    simp only [List.find?_eq_none, List.mem_filter, decide_eq_true_eq]
    omega
  simp only [State.slot, State.setSlot, List.append_assoc, List.find?_append, before, Option.none_or, List.singleton_append,
    List.find?_cons, decide_true, Option.getD_some]

theorem State.slot_of_slots {s t : State} (same : s.slots = t.slots) (n : Nat) : s.slot n = t.slot n := by
  simp only [State.slot, same]

/-- A slot's entry with a version as its latest, in a buffer. -/
def Slot.published (x : Slot) (b : Nat) (v : Version) : Slot :=
  { x with count := v.num, latest := some b, writing := none, bufs := x.bufs.filter (fun y => y.1 ≠ b) ++ [(b, v)] }

/-- Publishing changes the slot's entry, and no storage. -/
theorem State.publish_slot (s : State) (x : Slot) (b : Nat) (v : Version) (o : Option (BitVec 8)) :
    (s.publish x b v o).slot x.num = x.published b v ∧ (s.publish x b v o).mem = s.mem := by
  obtain ⟨due, traced⟩ := State.trace_frame ((s.setSlot (x.published b v)).raiseLine 3 fun c => c.sqLast = some x.num)
    3 (some x.tenant) o x.num 0 0
  have published : s.publish x b v o = _ := traced
  rw [published]
  exact ⟨(State.slot_of_slots rfl x.num).trans (s.slot_setSlot rfl), rfl⟩

/-- A version for a valid slot of the same SIZE with a free buffer becomes the latest. -/
theorem mirrorReceive_next {s : State} {slot units : BitVec 10} (ver stamp : Word) (wrank uf : BitVec 32) (bs : List Byte) {b : Nat}
    (spare : s.spare = true) (passive : s.active = false) (valid : (s.slot slot.toNat).valid = true)
    (size : (s.slot slot.toNat).size = units.toNat) (free : s.freeBuf (s.slot slot.toNat) = some b) :
    ∃ u, exec (.mirrorReceive slot units ver stamp wrank uf bs) s = .next u ∧ (u.slot slot.toNat).latest = some b ∧
      (u.slot slot.toNat).count = ver ∧ u.mem = s.mem := by
  have entry (v : Version) : (s.publish (s.slot slot.toNat) b v none).slot slot.toNat = (s.slot slot.toNat).published b v := by
    simpa only [State.slot_num] using (s.publish_slot (s.slot slot.toNat) b v none).1
  simp only [exec_mirrorReceive, evMirrorReceive, spare, passive, valid, size, free, Bool.not_true, Bool.or_self, ne_eq,
    not_true_eq_false, decide_false, Bool.false_eq_true, if_false, happen_some]
  refine ⟨_, rfl, ?_, ?_, (s.publish_slot (s.slot slot.toNat) b _ none).2⟩ <;>
    simp only [State.slot_setSlot, State.slot_num, entry, Slot.published]

/-- The rows of power and the hot spare, clause by clause. -/
theorem powerRows : PowerRows := by
  intro codes mhz mw tj slot units ver stamp wrank uf bs s
  refine ⟨?boot, ?on, ?down, ?reset, ?interval, fun passive due => ⟨activeAssert_next passive due, activeTie_next passive due, ?takeover⟩,
    ?journal, fun spare passive valid size b free => mirrorReceive_next ver stamp wrank uf bs spare passive valid size free⟩
  case boot =>
    intro power waiting follows tries clock
    obtain ⟨boots, attempts, mem⟩ := s.boot_counts codes mhz
    exact ⟨_, boot_next power waiting follows tries clock, boots, attempts, mem, State.boot_passes mhz,
      fun fail => (State.boot_fails mhz fail).trans waiting⟩
  case on => exact fun off => ⟨_, powerOn_next off, rfl, rfl, rfl, rfl, rfl, rfl, rfl, rfl, rfl⟩
  case down =>
    intro power
    simp only [exec_powerDown, evPowerDown, power, if_true, happen_some]
  case reset =>
    intro power
    refine ⟨_, moduleReset_next power, rfl, rfl, rfl, rfl, rfl, rfl, fun k low => ?_, fun k high => ?_⟩
    · rw [s.moduleReset_byte k, if_pos low]
    · rw [s.moduleReset_byte k, if_neg (Nat.not_lt.mpr high)]
  case interval =>
    simp only [exec_powerInterval, evPowerInterval, happen_some]
    refine ⟨_, rfl, rfl, rfl, ofNat_w64_low _ tj, fun above => ?_⟩
    simp only [above, decide_true, Bool.true_or, if_true]
  case takeover =>
    intro spare alive
    obtain ⟨u, next, active, dram⟩ := failover_next spare passive due alive
    exact ⟨u, next, active, dram⟩
  case journal =>
    intro spare passive wf whole
    exact ⟨_, journalMirrorReceive_next spare passive whole, rfl, rfl, fun j inside => State.journal_byte wf bs j (whole ▸ inside)⟩

/-- Settles O55: the rows of failures and of power, each from its own lemma above. -/
theorem failureEvents : Obligations.FailureEvents := ⟨failureRows, powerRows⟩

end Sys2Proof.Machine
end

section
/-! SUPPORT. A bank written through an entry: what the entry's tile then holds, where the module has that tile and where it has none (R155). -/

namespace Sys2Proof.Machine

/-- A tile that the module has is read back as it was set. -/
theorem State.tile_setTile_present {s : State} {t : Loc} (x : Tile) (present : t.idx < s.tiles.length) : (s.setTile t x).tile t = x := by
  simp [State.tile, State.setTile, List.getD_eq_getElem?_getD, present]

/-- Setting a tile that the module lacks changes nothing. -/
theorem State.setTile_missing {s : State} {t : Loc} (x : Tile) (missing : s.tiles.length ≤ t.idx) : s.setTile t x = s := by
  simp only [State.setTile, List.set_eq_of_length_le missing]

/-- A tile that the module lacks reads as an empty one. -/
theorem State.tile_missing {s : State} {t : Loc} (missing : s.tiles.length ≤ t.idx) : s.tile t = {} := by
  simp only [State.tile, List.getD_eq_getElem?_getD, List.getElem?_eq_none missing, Option.getD_none]

/-- A place of a vector reads back as it was set. -/
theorem vset_getD_same {α : Type} {n i : Nat} (v : Vector α n) (x d : α) (inside : i < n) : (vset v i x).toList.getD i d = x := by
  simp [vset, inside, List.getD_eq_getElem?_getD]

section Bank

variable {s : State} {e : MEntry} {t : Loc} (b : Bank) (place : e.iss.loc = some t) (bank : e.bank < 3)
include place bank

/-- On a tile that the module has, the bank written is the bank read. -/
theorem State.bankOf_setBank_present (present : t.idx < s.tiles.length) : (s.setBank e b).bankOf e = b := by
  simp only [State.bankOf, State.setBank, place, s.tile_setTile_present _ present, vset_getD_same _ _ _ bank]

/-- On a tile that the module lacks, a written bank reads as an empty one. -/
theorem State.bankOf_setBank_missing (missing : s.tiles.length ≤ t.idx) : (s.setBank e b).bankOf e = {} := by
  simp only [State.bankOf, State.setBank, place, s.setTile_missing _ missing, s.tile_missing missing]
  have empty : ∀ k < 3, (Vector.replicate 3 ({} : Bank)).toList.getD k {} = {} := by decide
  exact empty e.bank bank

/-- A written bank is read back exactly where the module has the entry's tile, or where the bank written is the empty one. -/
theorem State.bankOf_setBank_iff : (s.setBank e b).bankOf e = b ↔ t.idx < s.tiles.length ∨ b = {} := by
  rcases Nat.lt_or_ge t.idx s.tiles.length with present | missing
  · simp only [s.bankOf_setBank_present b place bank present, present, true_or]
  · rw [s.bankOf_setBank_missing b place bank missing]
    simp only [Nat.not_lt.mpr missing, false_or, eq_comm]

end Bank

/-- An entry on district 8 of the reason array, which has districts 0 to 5 (R7). -/
def outsideEntry : MEntry := { op := .mma, bank := 0, iss := { place := .tile { dist := 8 } false } }

/-- A bank whose element (0, 0) is 1. -/
def oneBank : Bank := { rows := [[{ bits := 1 }]] }

/-- After reset no tile has the index of the entry's place, so that its bank stays empty when it is written. -/
theorem outsideEntry_loses_bank : (State.reset.setBank outsideEntry oneBank).bankOf outsideEntry ≠ oneBank := by
  rw [Ne, State.bankOf_setBank_iff (t := { dist := 8 }) oneBank rfl (by decide), not_or]
  exact ⟨by decide, by decide⟩

/-- Refutes O36: `MatrixEntries` says of every state and every place that a bank written through an entry is read back; where the module
has no tile at the entry's place (district 8, index 64 of 64 tiles, at reset) the write is lost. `State.bankOf_setBank_iff` has the
condition that the clause leaves out. -/
theorem not_matrixIssue : ¬ Obligations.MatrixIssue := by
  rintro ⟨-, -, entries⟩
  obtain ⟨-, -, readBack, -⟩ := entries outsideEntry State.reset
  exact outsideEntry_loses_bank (readBack oneBank { dist := 8 } rfl (by decide))

end Sys2Proof.Machine
end

section
/-! SUPPORT. The copy commands at issue: a release that completes, the command placed in its channel, the order of an issue's steps, and the
channels that a context may not use (R221 to R224, R260 to R263). -/

namespace Sys2Proof.Machine

/-! A release, and what the stores that it performs leave of the moving context (R233). -/

theorem accessLeft_of_released {s : State} (released : Released s) : s.accessLeft = false := by
  obtain ⟨-, acquires, jobs⟩ := released
  simp only [State.accessLeft, acquires, Bool.false_or, List.any_eq_false]
  intro j mem
  have performed := jobs j mem
  cases j with
  | load | atomic | page => exact performed.elim
  | _ => exact Bool.false_ne_true

/-- A context with nothing but free stores left performs them and goes on. -/
theorem releaseOwn_ok {s : State} (released : Released s) : releaseOwn s = .ok ((), s.drain s.c.uid) := by
  simp only [releaseOwn, drainOwn, M.get_bind, accessLeft_of_released released, released.1, waitIf_false, M.pure_bind_at, M.set_at]

/-- Apart from its jobs and its monitor's hit, the moving context is as it was. -/
def SameButJobs (s t : State) : Prop := ∃ hit jobs, t.c = { s.c with monHit := hit, jobs := jobs }

theorem SameButJobs.of_eq {s t : State} (same : t.c = s.c) : SameButJobs s t := ⟨s.c.monHit, s.c.jobs, same⟩

theorem SameButJobs.trans {s t u : State} (st : SameButJobs s t) (tu : SameButJobs t u) : SameButJobs s u := by
  obtain ⟨_, _, first⟩ := st
  obtain ⟨hit, jobs, second⟩ := tu
  exact ⟨hit, jobs, by rw [second, first]⟩

theorem SameButJobs.ite {b : Prop} [Decidable b] {s t u : State} (yes : SameButJobs s t) (no : SameButJobs s u) :
    SameButJobs s (if b then t else u) := by
  split
  · exact yes
  · exact no

theorem State.trigger_sameButJobs (s : State) (g : Nat) (own : Option Nat) : SameButJobs s (s.trigger g own) := by
  simp only [State.trigger, SameButJobs, State.mapCtx_c]
  split
  · exact ⟨true, s.c.jobs, rfl⟩
  · exact ⟨s.c.monHit, s.c.jobs, rfl⟩

/-- Bytes written trigger monitors, and do nothing else to a context (R317). -/
theorem State.put_sameButJobs (s : State) (i : Issuer) (r : Res) (own : Option Nat) (bs : List Byte) : SameButJobs s (s.put i r own bs) := by
  refine .ite (.of_eq rfl) (.trans (.trans ?readied (State.trigger_sameButJobs _ (r.key / 32) own)) (.of_eq rfl))
  have tagged := SameButJobs.ite (b := r.gran = true) (.of_eq (s.retag_c (r.key / 32) (r.wgen i))) (.of_eq (s := s) rfl)
  exact tagged.trans (.ite (.of_eq rfl) (.of_eq rfl))

theorem State.updCtx_jobs_sameButJobs (s : State) (uid : Nat) (left : Ctx → List Job) :
    SameButJobs s (s.updCtx uid fun c => { c with jobs := left c }) := by
  simp only [SameButJobs, State.updCtx_c]
  split
  · exact ⟨s.c.monHit, left s.c, rfl⟩
  · exact ⟨s.c.monHit, s.c.jobs, rfl⟩

/-- Performing stores leaves the moving context but for its jobs and its monitor. -/
theorem State.drain_sameButJobs (s : State) (uid : Nat) : SameButJobs s (s.drain uid) := by
  unfold State.drain
  split
  · exact .of_eq rfl
  · next c _ =>
    refine .trans ?performed (State.updCtx_jobs_sameButJobs _ uid _)
    refine List.foldlRecOn (motive := SameButJobs s) c.jobs _ (.of_eq rfl) fun t kept j _ => ?_
    cases j with
    | store pa bs => exact .ite kept (kept.trans (t.put_sameButJobs ..))
    | _ => exact kept

/-! Channels of a context (R221). -/

theorem SameButJobs.mayChan {s t : State} (same : SameButJobs s t) (ch : R3) : t.c.mayChan ch = s.c.mayChan ch := by
  obtain ⟨_, _, same⟩ := same
  rw [same]; rfl

/-- On a reason tile a task has channels 0 to 5 and a guest 6 and 7. -/
theorem Ctx.mayChan_reason {c : Ctx} (reason : c.onReflex = false) (ch : R3) : c.mayChan ch = false ↔ (c.isGuest = true ↔ ch.toNat < 6) := by
  rw [Ctx.mayChan, reason, Bool.false_or, beq_eq_false_iff_ne, ne_eq, ← Bool.coe_iff_coe, decide_eq_true_eq, ← Nat.not_lt,
    Decidable.not_iff, Decidable.not_iff_not]

/-! The issue of a copy command in its three parts: what it reads, what it checks, and its place in the channel (R260 to R263). -/

/-- The q register that GATH's index record comes from, none for the other commands (R263). -/
def EngOp.indexReg (op : EngOp) (p : Pre) (s : State) : Option R3 :=
  if op = .gath then some ((p.x.map fun x => x.q).getD 0 + s.c.stagger) else none

/-- CPYM's mask of destination ranks, rank 0 alone for the other commands (R262). -/
def EngOp.readMask (op : EngOp) (p : Pre) : M Word := if op = .cpym then readK ((p.x.map fun x => x.k).getD 0) else pure 1

/-- The bytes that a command writes, at each of its destinations. -/
def Cmd.destAddrs (k : Cmd) : List Nat := k.dests.flatMap fun o => if k.d.strm then [] else k.d.destBytes.map fun b => b + o * 2 ^ 21

/-- A command whose operands are read: its checks, then its place in the channel (R260 steps 4 to 8). -/
def Cmd.submit (k : Cmd) (ch : R3) : M Unit := do
  engineChecks k.op k.iss ch k.d k.a k.idx k.dests
  dramOperands ([k.d, k.a] ++ k.idx.toList)
  if k.op = .cpym then ranksAdmitted k.iss k.destAddrs
  capAll k.iss k.destAddrs
  unitsFirst k.iss (k.destAddrs ++ k.a.addrs ++ k.idx.toList.flatMap Shape.addrs)
  engineQueue k ch

theorem Cmd.destAddrs_eq (k : Cmd) :
    k.destAddrs = if k.d.strm then [] else k.dests.flatMap fun o => k.d.destBytes.map fun b => b + o * 2 ^ 21 := by
  cases streams : k.d.strm <;> simp [Cmd.destAddrs, streams]

/-- The operation of the copy commands reads its operands and submits the command. -/
theorem engineOp_eq (op : EngOp) (p : Pre) (dn an ch : R3) (q : Option R3) (i : Nat) :
    engineOp op p dn an ch q i = (do
      ownWork
      let s ← get
      raiseIf (!s.c.mayChan ch) cACCESS (w64 ch.toNat)
      let iss := s.c.issuer (s.c.scopeOf p)
      let acc ← engineAcc i
      let target ← targetOf iss acc
      let d ← readRecord (s.c.field p 0 i dn) 0
      let a ← readRecord (s.c.field p 1 i an) 1
      let ix ← optRecord q 4
      let mask ← op.readMask p
      let dests := (List.range 64).filter fun n => bit mask n
      Cmd.submit { op := op, d := d, a := a, idx := ix, dests := dests, iss := iss, target := target } ch) := by
  simp only [engineOp, Cmd.submit, Cmd.destAddrs_eq, EngOp.readMask]
  cases op <;> rfl

/-- CPY, CPYM and GATH are one operation. -/
theorem exec_engine {op : EngOp} {mk : Pre → R3 → R3 → R3 → Instr}
    (command : (op, mk) ∈ [(EngOp.cpy, Instr.cpy), (.cpym, .cpym), (.gath, .gath)]) (p : Pre) (dn an ch : R3) (s : State) :
    exec (mk p dn an ch) s = repeated true p (engineOp op p dn an ch (op.indexReg p s)) s := by
  simp only [List.mem_cons, Prod.mk.injEq, List.not_mem_nil, or_false] at command
  rcases command with ⟨rfl, rfl⟩ | ⟨rfl, rfl⟩ | ⟨rfl, rfl⟩ <;> rfl

theorem EngOp.readMask_ok {op : EngOp} {p : Pre} {s : State} {mask : Word}
    (reads : if op = .cpym then s.c.Reads (.k ((p.x.map fun x => x.k).getD 0)) mask else mask = 1) : op.readMask p s = .ok (mask, s) := by
  unfold EngOp.readMask
  split at reads
  · next masked => rw [if_pos masked]; exact readK_ok reads
  · next plain => rw [if_neg plain, reads]; rfl

/-- A command on a channel that the context may use, whose operands can be read, is submitted. -/
theorem engineOp_reads {op : EngOp} {p : Pre} {dn an ch : R3} {q : Option R3} {i : Nat} {s t t0 t1 t2 t3 : State} {acc mask : Word}
    {target : Target} {d a : Shape} {ix : Option Shape} (release : releaseOwn s = .ok ((), t)) (may : t.c.mayChan ch = true)
    (accRead : engineAcc i t = .ok (acc, t0)) (targetRead : targetOf (t.c.issuer (t.c.scopeOf p)) acc t0 = .ok (target, t0))
    (dRead : readRecord (t.c.field p 0 i dn) 0 t0 = .ok (d, t1)) (aRead : readRecord (t.c.field p 1 i an) 1 t1 = .ok (a, t2))
    (ixRead : optRecord q 4 t2 = .ok (ix, t3)) (maskRead : op.readMask p t3 = .ok (mask, t3)) :
    engineOp op p dn an ch q i s =
      Cmd.submit { op := op, d := d, a := a, idx := ix, dests := (List.range 64).filter fun n => bit mask n
                   iss := t.c.issuer (t.c.scopeOf p), target := target } ch t3 := by
  rw [engineOp_eq, ownWork, M.bind_ok release, M.get_bind, may, Bool.not_true, raiseIf_false, M.pure_bind_at]
  rw [M.bind_ok accRead, M.bind_ok targetRead, M.bind_ok dRead, M.bind_ok aRead, M.bind_ok ixRead, M.bind_ok maskRead]

/-- A command that passes every check is queued. -/
theorem Cmd.submit_passes {k : Cmd} {ch : R3} {s : State} (checks : Passes (engineChecks k.op k.iss ch k.d k.a k.idx k.dests) s)
    (dram : Passes (dramOperands ([k.d, k.a] ++ k.idx.toList)) s) (ranks : k.op = .cpym → Passes (ranksAdmitted k.iss k.destAddrs) s)
    (caps : Passes (capAll k.iss k.destAddrs) s)
    (units : Passes (unitsFirst k.iss (k.destAddrs ++ k.a.addrs ++ k.idx.toList.flatMap Shape.addrs)) s) :
    k.submit ch s = engineQueue k ch s := by
  have last := (M.bind_ok caps (rest := fun _ => unitsFirst k.iss _ >>= fun _ => engineQueue k ch)).trans (M.bind_ok units)
  rw [Cmd.submit, M.bind_ok checks, M.bind_ok dram]
  split
  · next masked => exact (M.bind_ok (ranks masked)).trans last
  · exact last

/-- A command as it enters its channel: numbered, with the granules that it owns and its promised time (R222, R224). -/
def Cmd.issuedAt (k : Cmd) (t : State) (c : Chan) : Cmd :=
  let span := if k.dests = [] then 24 else 24 + cdiv k.d.promised (t.rate k)
  { k with num := t.next, todo := t.ownedBy k.iss k.lineAddrs, issued := t.cyc, promise := c.promise t.cyc span, span := span
           wait := if c.src then some c.out.toNat else none }

/-- The state with a command in a channel and the granules that it owns empty. -/
def State.queueCmd (t : State) (k : Cmd) (l : Loc) (ch : R3) (c : Chan) : State :=
  let u := { t.markEmpty k.iss (t.ownedBy k.iss k.lineAddrs) with next := t.next + 1 }
  u.setChan l ch ((u.chan l ch).place (k.issuedAt t c) u.cyc)

/-- A command enters a channel that has room (R260 steps 6 to 8). -/
theorem engineQueue_ok {k : Cmd} {ch : R3} {s t : State} {l : Loc} (tile : s.c.loc = some l)
    (room : (s.chan l ch).active = none ∨ (s.chan l ch).shadow = none) (reported : ∀ x ∈ s.c.reports, x.unit.onChan ch = false)
    (reserved : reserveAll k.iss (k.dests.flatMap fun o => s.coveredLines k.iss k.d o) s = .ok ((), t))
    (takes : (t.markEmpty k.iss (t.ownedBy k.iss k.lineAddrs)).c.Takes .acc) :
    engineQueue k ch s =
      .ok ((), (t.queueCmd k l ch (s.chan l ch)).withReg .acc (promiseWord (k.issuedAt t (s.chan l ch)).promise)) := by
  have free : ((s.chan l ch).active.isSome && (s.chan l ch).shadow.isSome) = false := by
    rcases room with empty | empty <;> simp [empty]
  have noStop : Passes (stopRoom ch) s := by
    have unstopped : (s.c.reports.any fun r => r.unit.onChan ch) = false := by simpa [List.any_eq_false] using reported
    simp only [Passes, stopRoom, M.get_bind, unstopped, waitIf_false, M.pure_at]
  simp only [engineQueue, M.get_bind, tile, free, waitIf_false, M.pure_bind_at]
  rw [M.bind_ok noStop, M.bind_ok reserved, M.get_bind, M.set_bind]
  exact writeAcc_ok _ takes

theorem copyQueued : CopyQueued := by
  intro op mk command p dn an ch s t0 t1 t2 t3 t4 l acc mask target d a ix t i iss at_ dests w k c span promise own cmd u left released may
    accRead targetRead dRead aRead ixRead checks maskRead dram ranks caps units tile room reported reserved takes
  rw [exec_engine command]
  refine repeated_ok left ?_
  calc engineOp op p dn an ch (op.indexReg p s) i s
    _ = k.submit ch t3 := engineOp_reads (releaseOwn_ok released) may accRead targetRead dRead aRead ixRead (EngOp.readMask_ok maskRead)
    _ = engineQueue k ch t3 := Cmd.submit_passes checks dram ranks caps units
    _ = .ok ((), (t4.queueCmd k l ch c).withReg .acc (promiseWord (k.issuedAt t4 c).promise)) := engineQueue_ok tile room reported reserved takes

/-! Channels that a context may not use (R221). -/

/-- A copy command on such a channel traps before anything is done. -/
theorem engineOp_denied {s : State} {ch : R3} (released : Released s) (denied : s.c.mayChan ch = false) (op : EngOp) (p : Pre) (dn an : R3)
    (q : Option R3) (i : Nat) : engineOp op p dn an ch q i s = .error (.trap cACCESS (w64 ch.toNat) 0) := by
  have still := (s.drain_sameButJobs s.c.uid).mayChan ch
  rw [engineOp, ownWork, M.bind_ok (releaseOwn_ok released), M.get_bind, still, denied]
  rfl

/-- A repetition that traps takes its trap at the instruction, REPV telling whether it carries REP (R58, R376). -/
theorem repeated_error {g : Bool} {p : Pre} {body : Nat → M Unit} {s : State} {stop : Stop} (left : repLeft p s)
    (stopped : body (repIndex p s) s = .error stop) : repeated g p body s = .next (settle p.rep.isSome stop s) := by
  unfold repeated
  cases rep : p.rep with
  | none =>
    simp only [repIndex, rep, Option.isSome_none, Bool.false_eq_true, if_false] at stopped
    exact once_error stopped
  | some r =>
    simp only [repIndex, rep, Option.isSome_some, if_true] at stopped
    simp only [Nat.not_le.mpr (left r rep), if_false, stopped, Option.isSome_some]

theorem sleeptOp_denied {s : State} {ch : R3} (denied : s.c.mayChan ch = false) :
    sleeptOp ch s = .error (.trap cACCESS (w64 ch.toNat) 0) := by
  rw [sleeptOp, M.get_bind, denied]; rfl

theorem cpqOp_denied {s : State} {ch : R3} (denied : s.c.mayChan ch = false) : cpqOp ch s = .error (.trap cACCESS (w64 ch.toNat) 0) := by
  rw [cpqOp, M.get_bind, denied]; rfl

theorem channelAccess : ChannelAccess := by
  intro p d a ch s reason other traps
  have denied : s.c.mayChan ch = false := (Ctx.mayChan_reason reason ch).mpr other
  refine ⟨fun left released => ?_, once_error (sleeptOp_denied denied), once_error (cpqOp_denied denied)⟩
  have copy {op : EngOp} {mk : Pre → R3 → R3 → R3 → Instr}
      (command : (op, mk) ∈ [(EngOp.cpy, Instr.cpy), (.cpym, .cpym), (.gath, .gath)]) : exec (mk p d a ch) s = traps p.rep.isSome :=
    (exec_engine command p d a ch s).trans (repeated_error left (engineOp_denied released denied op p d a _ _))
  exact ⟨copy (op := .cpy) (by simp), copy (op := .cpym) (by simp), copy (op := .gath) (by simp)⟩

/-- Settles O37: a copy command is read, checked and queued; on a channel that is not the context's it traps. -/
theorem copyIssue : Obligations.CopyIssue := ⟨copyQueued, channelAccess⟩

end Sys2Proof.Machine
end
